-- ==== Sys2Proof/Word.lean ====
section
/-!
DEFINITION. The word types of the model: bytes, 64-bit registers, 64-byte rows, 512-byte vectors,
and sparse tables as lists of (key, value) pairs.
-/
namespace Sys2Proof

/-- One byte. -/
abbrev Byte := BitVec 8
/-- A register or an ATB value (R36): 64 bits. -/
abbrev W64 := BitVec 64
/-- The 64 data bytes of a pad row or of a DRAM line (R144, R226). Byte b is bits 8b to 8b + 7. -/
abbrev Row := BitVec 512
/-- A 512-byte vector of the Signal Engine (R110). Byte b is bits 8b to 8b + 7. -/
abbrev Vec := BitVec 4096
/-- A string of bytes, first byte first. -/
abbrev Bytes := List Byte

/-- A sparse table: keys strictly rising, no entry equal to what an unlisted key reads as. -/
abbrev Tab (α : Type) := List (Nat × α)

/-- A logical tile t0-t63 (R12). -/
abbrev LTile := Fin 64
/-- A physical tile p0-p67 (R12). -/
abbrev PTile := Fin 68
/-- A task context of a tile (R149). -/
abbrev CtxNo := Fin 8

end Sys2Proof
end

