-- ==== Sys2Proof/Syntax.lean ====
section
/-!
DEFINITION. The commands of the LX9640: one constructor of `Instr` for each row of the table of
operations and events (spec/opcode_table.json), with what each event is told from outside as its
operands (log entry 7). The operand types come first.
-/
namespace Sys2Proof

/-- Who makes a register write (the writers' rules of R41, R88, R185, R265, R363, R411, R436, R518). -/
inductive Agent where
  /-- the management core M0 -/
  | m0
  /-- a Fenen role F0-F7 -/
  | fenen (role : Fin 8)
  /-- the staged-commit unit -/
  | commitUnit
  /-- any other agent, a host agent among them -/
  | other
  deriving DecidableEq, Repr

/-- A mailbox slot: MB000-MB255 of PF0, or one of the 16 slots of PF1 (R437). -/
inductive SlotId where
  | pf0 (n : Fin 256)
  | pf1 (n : Fin 16)
  deriving DecidableEq, Repr

/-- A PTP message as M0 receives it (R43). Times are in units of 1/16 cy. -/
inductive PtpBody where
  /-- an Announce with the master's clockClass, the time properties of ATB_TOD, and the rest of its data set (priorities,
  quality, identity, steps removed), which the best master selection compares -/
  | announce (clockClass : Byte) (utcOffset : BitVec 16) (leap61 leap59 timeTraceable freqTraceable : Bool) (dataSet : Bytes)
  /-- a Sync exchange completed: Sync left the master at t1 and arrived at t2, Delay_Req left at t3
  and arrived at the master at t4 -/
  | sync (t1 t2 t3 t4 : Int)
  /-- a Delay_Req that asks a master port -/
  | delayReq (arrival : Int)
  /-- a message or option that R43 does not support, or that the port's role does not accept, or a malformed one -/
  | unsupported
  deriving DecidableEq, Repr

/-- A PTP message: its fronthaul port, its domain number and the identity of the port that sent it. -/
structure PtpMsg where
  port : Fin 16
  domain : Byte
  sender : BitVec 80
  body : PtpBody
  deriving DecidableEq, Repr

/-- What M0 sends as PTP (R43); `frac` is the sixteenth of its cycle in which a Sync leaves (R44). -/
inductive PtpTx where
  | sync (frac : Fin 16)
  | delayReq
  | announce
  deriving DecidableEq, Repr

/-- What a time leader sends: its count at the egress point in 1/16 cy (R400), and whether its servo is LOCKED (R49). -/
structure LeaderTime where
  count : Int
  locked : Bool
  deriving DecidableEq, Repr

/-- The quality levels that the part tells apart (R45): PRC or better, EEC1, another level, DNU. -/
inductive Ql where
  | prc | eec1 | other (code : Fin 16) | dnu
  deriving DecidableEq, Repr

/-- What the frame's check of the time finds (log entry 206). -/
inductive FrameFault where
  /-- the value that a local copy holds, stops 0-71 and rim dies 72-75 (R59) -/
  | copy (at_ : Fin 76) (value : W64)
  /-- a parity error in the master ATB (R468) -/
  | master
  /-- a parity error in the staged-commit unit (R468) -/
  | commitUnit
  deriving DecidableEq, Repr

/-- A reading of the temperatures (R345, R539): the hottest junction and its sensor, the hottest GDDR7 case and its device. -/
structure Temps where
  tj : Byte
  sensor : Fin 72
  case : Byte
  device : Fin 40
  deriving DecidableEq, Repr

/-- The kinds of array error that R85 and ARR_FAULT.KIND tell apart. -/
inductive ParityKind where
  /-- parity error of a cell's accumulator or operand register -/
  | cell
  /-- parity error of a drain latch or drain lane -/
  | latch
  deriving DecidableEq, Repr

/-- The relation of a link that R196 speaks of: a die-to-die link at a mesh edge stop (rim die and
stop 9y + x), or the Krovbem link of a clutch port. -/
inductive LinkId where
  | d2d (rim : Fin 4) (stop : Fin 72)
  | krovbem (port : Fin 7)
  deriving DecidableEq, Repr

/-- A flow of the slot table (R192): a declared flow of a slice's image, a rim leg of a radio MEMX of
an image (R247), or the flow of a landing zone fed by a parser (R300). -/
inductive FlowId where
  | declared (slice : Fin 64) (flow : Nat)
  | leg (slice : Fin 64) (memx : Nat) (rim : Fin 4)
  | zone (tile : LTile) (zone : Fin 16)
  deriving DecidableEq, Repr

/-- A line operation that a source asks a memory channel for (R252, R254). -/
inductive LineOp where
  | read
  | write (data : Row) (poisoned : Bool)
  /-- a partial write of the bytes whose mask bit is set (R510) -/
  | merge (data : Row) (mask : BitVec 64)
  | accInt (data : Row)
  | accFp (data : Row)
  deriving DecidableEq, Repr

/-- The sources of tenant and fabric line operations (R252). -/
inductive MemSource where
  | memx (tile : LTile) (ctx : CtxNo)
  | gather (half : Fin 2)
  | fabric
  | host
  | seal
  | scrub
  deriving DecidableEq, Repr

/-- One section of a U-plane message (R289, R295): first PRB, number of PRBs (0 for all), the width and
method of its udCompHdr when it has one, and the PRBs' bytes. -/
structure USection where
  startPrb : Nat
  numPrb : Nat
  hdr : Option (Nat × Nat)
  prbs : List Bytes
  rb : Bool := false
  symInc : Bool := false
  deriving DecidableEq, Repr

/-- A frame received on a fronthaul port (R270, R289, R292): its length from destination address through FCS, its tag and
EtherType, its timestamp at the message timestamp point in 1/16 cy before correction (R271), its eCPRI common header, its eAxC,
sequence number, application header and sections; or the body of an eCPRI delay measurement (message type 5). -/
structure FhFrame where
  port : Fin 16
  ts16 : Nat
  len : Nat
  fcsOk : Bool := true
  tagged : Bool
  vid : BitVec 12
  /-- more than one tag -/
  stacked : Bool := false
  etherType : BitVec 16 := 0xAEFE
  revision : BitVec 4 := 1
  concat : Bool := false
  msgType : Byte := 0
  eaxc : BitVec 16
  seqId : Byte
  /-- the byte after ecpriSeqid: E bit and subsequence -/
  subSeq : Byte := 0x80
  payloadVersion : BitVec 3 := 1
  /-- what follows the eCPRI header of a message of type 5 -/
  body : Bytes := []
  frameId : Byte
  subframeId : BitVec 4
  slotId : BitVec 6
  symbolId : BitVec 6
  downlink : Bool
  sections : List USection
  /-- uncorrectable FEC codewords that the PCS met since the port's last frame, and whether it reports a high bit error
  rate (R288) -/
  fecUc : Nat := 0
  highBer : Bool := false
  deriving DecidableEq, Repr

/-- A Krovbem frame after its link layer (R365). -/
structure KFrame where
  src : Fin 8
  dst : Fin 8
  hasData : Bool
  poison : Bool
  relay : Bool
  key : BitVec 16
  tag : BitVec 32
  /-- the home-local byte address -/
  addr : Nat
  data : Row
  /-- a DATA grants E; an answer to FWD says that the owner had the line in E (R377). The layout of R365 names no field
  for it, nor for the next (log entry 36) -/
  excl : Bool := false
  /-- a DATA or ACK answers the home's FWD or INV -/
  forHome : Bool := false
  /-- every reserved field is 0 and CTL names the channel of the frame's TYPE (R366, code 0x0302 of R481) -/
  ctlOk : Bool := true
  deriving DecidableEq, Repr

/-- A Leapfrog packet after its Ethernet, IPv6 and UDP layers (R270, R390): its frame's length, FCS and kind (`pause`, or `other`
for stacked tags and unsupported frames), what the port's PCS reports with it (R288), and `valid`, false when one of those layers or
the header breaks a condition of code 0x0309 of R481. -/
structure LPacket where
  fcsOk : Bool := true
  len : Nat := 64
  pause : Bool := false
  other : Bool := false
  fecUc : Nat := 0
  highBer : Bool := false
  valid : Bool
  peer : Fin 64
  key : BitVec 16
  credit : Nat
  tag : BitVec 32
  status : Nat
  /-- the device address of the block -/
  addr : Nat
  mask : BitVec 64
  pmask : BitVec 64
  lines : List Row
  deriving DecidableEq, Repr

/-- The transports of SPDM (R496): MCTP on PCIe, and MCTP on the card's I3C target. -/
inductive Transport where
  | pcie | i3c
  deriving DecidableEq, Repr

/-- The instructions of the test access port that R503 tells apart. -/
inductive TapInstr where
  | idcode | bypass
  /-- reads a device address with the rights of the debug path -/
  | read (addr : Nat)
  /-- EXTEST, CLAMP and the others that take over pins -/
  | pins
  deriving DecidableEq, Repr

/-- The operations of IDE key management (R515). -/
inductive IdeKm where
  | program (key : BitVec 256) (base limit : Nat)
  | start
  | stop
  deriving DecidableEq, Repr

/-- How a host request of the part ended (R512). -/
inductive HostError where
  | ur | ca | poisoned
  deriving DecidableEq, Repr

/-- What a host request of the part belonged to (R512), or a request of the host that the part does not support (R3, R506). -/
inductive HostReq where
  /-- a reply write of the slot -/
  | reply (slot : SlotId)
  /-- an event-record write of the ring of an owner (0-63 a slice, 64 the tenant) -/
  | event (owner : Fin 65)
  /-- a read or write of the buffer that the message of the slot names -/
  | message (slot : SlotId)
  /-- no request of the part: one of the host that asks for a capability which R506 does not list -/
  | unsupported
  deriving DecidableEq, Repr

/-- The commands: one constructor per row of the table, families in the table's order, those without an operand last. -/
inductive Instr where
  -- time base (02)
  | memoryFrameBoundary (bad : List FrameFault) (retrain : List (Fin 160))
  | atbSnap (a : Agent) (value : W64)
  | ptpMessageReceive (m : PtpMsg)
  | ptpMessageTransmit (port : Fin 16) (k : PtpTx)
  | esmcReceive (ql : Option Ql)
  | esmcInfoTransmit (port : Fin 16)
  | ppsInEdge (ts16 : Nat)
  | todFrameReceive (frame : Bytes)
  -- sequencer and arrays (03, 07)
  | seqNop (t : LTile) (c : CtxNo)
  | seqPass (t : LTile) (c : CtxNo)
  | passStart (t : LTile) (part : Fin 7)
  | preemptFreeze (t : LTile)
  | preemptRestore (t : LTile)
  | arrayParityError (t : LTile) (kind : ParityKind) (row col : Fin 128)
  | arrPark (t : LTile) (a : Agent)
  | seqSge (t : LTile) (c : CtxNo)
  -- Signal Engine (05): the engine of tile t issues the next instruction of its block
  | sgeNop (t : LTile)
  | setxl (t : LTile)
  | setxh (t : LTile)
  | xop (t : LTile) (parity : Bool)
  | rep (t : LTile)
  | clracc (t : LTile)
  | ldtb (t : LTile) (parity : Bool)
  | add (t : LTile) (parity : Bool)
  | sub (t : LTile) (parity : Bool)
  | mul (t : LTile) (parity : Bool)
  | mla (t : LTile) (parity : Bool)
  | mls (t : LTile) (parity : Bool)
  | mac (t : LTile) (parity : Bool)
  | macc (t : LTile) (parity : Bool)
  | accout (t : LTile) (parity : Bool)
  | min (t : LTile) (parity : Bool)
  | max (t : LTile) (parity : Bool)
  | abs (t : LTile) (parity : Bool)
  | shr (t : LTile) (parity : Bool)
  | and (t : LTile) (parity : Bool)
  | or (t : LTile) (parity : Bool)
  | xor (t : LTile) (parity : Bool)
  | cmp (t : LTile) (parity : Bool)
  | sel (t : LTile) (parity : Bool)
  | bxd (t : LTile) (parity : Bool)
  | norm (t : LTile) (parity : Bool)
  | expx (t : LTile) (parity : Bool)
  | msstepForward (t : LTile) (parity : Bool)
  | msstepBackward (t : LTile) (parity : Bool)
  | rotz (t : LTile) (parity : Bool)
  | zip (t : LTile) (parity : Bool)
  | unzip (t : LTile) (parity : Bool)
  | perm (t : LTile) (parity : Bool)
  | bgath (t : LTile) (parity : Bool)
  | luti (t : LTile) (parity : Bool)
  | bfpd (t : LTile) (parity : Bool)
  | bfpc (t : LTile) (parity : Bool)
  | pkfl (t : LTile) (parity : Bool)
  | cvt (t : LTile) (parity : Bool)
  | sgePark (t : LTile) (a : Agent)
  | sgeFlagsClear (t : LTile) (a : Agent) (value : W64)
  -- compare unit, sends and the rest of the sequencer (06, 07, 08, 12)
  | cmpcnt (t : LTile)
  | cmpinc (t : LTile)
  | seqSendRadio (t : LTile) (c : CtxNo)
  | seqSendTenant (t : LTile) (c : CtxNo)
  | seqCret (t : LTile) (c : CtxNo)
  | seqFlags (t : LTile) (c : CtxNo)
  | seqPost (t : LTile) (c : CtxNo)
  | postFabricRequest (t : LTile) (c : CtxNo)
  | seqKbnd (t : LTile) (c : CtxNo)
  | fenceL (t : LTile) (c : CtxNo)
  | fenceC (t : LTile) (c : CtxNo)
  | fenceG (t : LTile) (c : CtxNo)
  | fenceRelease (t : LTile) (c : CtxNo)
  | seqEnd (t : LTile) (c : CtxNo)
  | memxRead (t : LTile) (c : CtxNo)
  | memxWrite (t : LTile) (c : CtxNo)
  | memxAccumulateInt32 (t : LTile) (c : CtxNo)
  | memxAccumulateFp32 (t : LTile) (c : CtxNo)
  | radioWindowOpen (t : LTile)
  | radioFlitInject (f : FlowId)
  | tenantFlitInject (id : Nat)
  -- landing zones and pads (06)
  | landingWrite (t : LTile) (zone : Nat) (unit : BitVec 32) (mask : BitVec 4) (owner : BitVec 7) (src : BitVec 7) (data : BitVec 2048)
  | landingNackReceive (t : LTile) (c : CtxNo)
  | creditGrantReceive (t : LTile) (zone : Fin 16)
  | zoneRemoteRead (t : LTile) (zone : Fin 16) (unit : BitVec 32) (src : BitVec 7) (owner : BitVec 7)
  | zoneEnable (t : LTile) (zone : Fin 16) (a : Agent) (value : W64)
  | zoneRdWrite (t : LTile) (zone : Fin 16) (a : Agent) (value : W64)
  | padSweep (t : LTile) (a : Agent) (value : W64)
  | tagSweepComplete (p : PTile)
  | heldSweepStart (p : PTile)
  | patrolVisit (t : LTile) (upset : BitVec 528) (metaUpset : BitVec 13)
  | regrow (t : LTile) (bank : Fin 48) (row : Fin 4096)
  -- links (07, 15)
  | linkReplay (l : LinkId)
  | d2dLinkRetrainComplete (rim : Fin 4) (stop : Fin 72)
  | lateFrameDiscard (f : FlowId)
  -- tasks and events (07, 14, 15)
  | taskContextRelease (t : LTile) (c : CtxNo)
  | postDelivery (id : Nat)
  | completionRecordDelivery (id : Nat)
  | eventRecordWrite (owner : Fin 65) (consumer : Option W64)
  | contextReclaim (t : LTile) (c : CtxNo)
  | schPark (t : LTile) (a : Agent)
  | taskTimeout (t : LTile) (c : CtxNo)
  -- external memory (08)
  | dramLineAccept (channel : Fin 160)
  | dramLineSlot (channel : Fin 160) (line : Nat) (upset : BitVec 528)
  | checkLineWriteback (rim : Fin 4) (channel : Fin 160) (block : Nat)
  | dramRowRepair (channel : Fin 160)
  | memRepairGo (a : Agent) (value : W64)
  | memScrubGo (a : Agent) (value : W64)
  -- fronthaul, egress and ports (09, 10)
  | fhFrameReceive (f : FhFrame)
  | recordFlush (rim : Fin 4) (stream : Fin 8192) (symbol : W64)
  | gainDecision (rim : Fin 4) (stream : Fin 8192)
  | egressMessagePlace (rim : Fin 4) (tile : LTile) (header : Bytes) (body : Bytes)
  | egressFrameEnqueue (port : Fin 24) (q : Fin 256) (frame : Bytes)
  | egressFrameStart (port : Fin 24)
  | ttWindowOpen (port : Fin 24) (w : Fin 64)
  | ttWindowClose (port : Fin 24) (w : Fin 64)
  | portLinkUp (port : Fin 24)
  | portLinkDown (port : Fin 24)
  -- tenancy (11)
  | runEntryDispatch (entry : BitVec 32)
  | fabricBulkBurst (id : Nat)
  | creditedRemoteWrite (t : LTile) (zone : Fin 16) (unit : BitVec 32) (data : List (BitVec 2048))
  | sealChunk (iv : BitVec 96) (slow : Bool)
  | unsealChunk (chunk : Bytes)
  | thermalReading (t : Temps)
  | gatherJobEnqueue (a : Agent) (value : W64)
  | gatherLookup (half : Fin 2)
  | gatherInstall (half : Fin 2)
  | gatherEvict (half : Fin 2)
  | gatherAccumulateInt32 (half : Fin 2)
  | gatherAccumulateFp32 (half : Fin 2)
  | gatherJobComplete (half : Fin 2)
  -- clutch and gateways (12)
  | krovbemRd (port : Fin 7) (f : KFrame)
  | krovbemRdx (port : Fin 7) (f : KFrame)
  | krovbemWr (port : Fin 7) (f : KFrame)
  | krovbemWb (port : Fin 7) (f : KFrame)
  | krovbemEv (port : Fin 7) (f : KFrame)
  | krovbemFwd (port : Fin 7) (f : KFrame)
  | krovbemInv (port : Fin 7) (f : KFrame)
  | krovbemData (port : Fin 7) (f : KFrame)
  | krovbemAck (port : Fin 7) (f : KFrame)
  | krovbemNack (port : Fin 7) (f : KFrame) (reason : Nat)
  | krovbemAccept (port : Fin 7) (f : KFrame)
  | krovbemTime (port : Fin 7) (t1 : LeaderTime) (t2 t3 t4 : Int)
  | krovbemHeart (port : Fin 7) (src : Fin 8) (vector : Byte)
  | krovbemBar (port : Fin 7) (src : Fin 8) (barrier : Fin 16) (kind : Fin 3)
  | krovbemTwin (port : Fin 7) (kernel : BitVec 32) (tile : LTile) (count : Nat) (record : List W64) (hashes : List (BitVec 16 × W64))
  | twinRecordTimeout (kernel : BitVec 32) (tile : LTile)
  | twinMismatchClear (a : Agent) (value : W64)
  | busyLineRelease (addr : Nat)
  | clutchRequestTimeout (home : Fin 8) (tag : BitVec 32)
  | heartTimeout (port : Fin 7)
  | memberDead (n : Fin 8)
  | contextMirrorCopy (slice : Fin 64) (cell : Fin 512)
  | gatewayResend (peer : Fin 64) (tag : BitVec 32)
  | gatewayRequestExpire (peer : Fin 64) (tag : BitVec 32)
  | leapfrogRdreq (p : LPacket)
  | leapfrogRddata (p : LPacket)
  | leapfrogWrite (p : LPacket)
  | leapfrogDone (p : LPacket)
  | leapfrogNack (p : LPacket)
  | leapfrogKeepalive (p : LPacket)
  | barrierDecide (b : Fin 16)
  | barrierGoDeadline (b : Fin 16)
  | barrierRelease (b : Fin 16)
  -- staged commit, roles, moult (13)
  | heartbeatWrite (role : Fin 8)
  | heartbeatTimeout (role : Fin 8)
  -- mailboxes (14)
  | slotArm (slot : SlotId) (header : BitVec 512)
  | mailboxSlotWrite (slot : SlotId) (offset : Nat) (bytes : Bytes)
  | sysInfo (slot : SlotId)
  | sysTime (slot : SlotId)
  | sysMgrPasid (slot : SlotId)
  | eventRing (slot : SlotId)
  | sliceCreate (slot : SlotId)
  | sliceAlloc (slot : SlotId)
  | sliceDelete (slot : SlotId)
  | sliceStatus (slot : SlotId)
  | cellStage (slot : SlotId)
  | cellState (slot : SlotId)
  | streamStage (slot : SlotId)
  | templateStage (slot : SlotId)
  | imageStage (slot : SlotId) (buffer : Bytes)
  | standbyStage (slot : SlotId)
  | shedOrder (slot : SlotId)
  | fhSend (slot : SlotId) (buffer : Bytes)
  | cellStats (slot : SlotId)
  | stageCheck (slot : SlotId)
  | stageCommit (slot : SlotId)
  | stageCancel (slot : SlotId)
  | stageClear (slot : SlotId)
  | stageStatus (slot : SlotId)
  | deviceStageTileSwap (slot : SlotId)
  | deviceStageFrameOffset (slot : SlotId)
  | epochOpen (slot : SlotId)
  | epochClose (slot : SlotId)
  | imageLoad (slot : SlotId) (buffer : Bytes)
  | runSubmit (slot : SlotId)
  | epochSuspend (slot : SlotId)
  | epochResume (slot : SlotId)
  | seal (slot : SlotId)
  | unseal (slot : SlotId)
  | keyInstall (slot : SlotId)
  | keyCurrent (slot : SlotId)
  | keyRetire (slot : SlotId)
  | gtableSet (slot : SlotId)
  | gatherSubmit (slot : SlotId)
  | epochStatus (slot : SlotId)
  | regionSet (slot : SlotId)
  | okeySet (slot : SlotId)
  | lpeerSet (slot : SlotId)
  | lmapSet (slot : SlotId)
  | fabSet (slot : SlotId)
  | frtRegister (slot : SlotId) (buffer : Bytes)
  | barrierArm (slot : SlotId)
  | regRead (slot : SlotId)
  | regWrite (slot : SlotId)
  | memRead (slot : SlotId)
  | logRead (slot : SlotId)
  | imageVerify (slot : SlotId) (buffer : Bytes)
  | recoveryImage (slot : SlotId) (buffer : Bytes)
  | moultStart (slot : SlotId)
  | moultStatus (slot : SlotId)
  | padRegrow (slot : SlotId)
  | dramRepair (slot : SlotId)
  | selftest (slot : SlotId)
  -- self-test, timeouts, power and pins (15, 16, 18)
  | selftestStart (id : Nat)
  | selftestComplete (id : Nat) (pass : Bool) (detail : Nat)
  | eyeMarginReport (lane : Fin 24) (margin : Nat)
  | legTimeout (t : LTile) (c : CtxNo) (id : Nat)
  | runEntryNoProgress (entry : BitVec 32)
  | bootMilestoneMissed (detail : BitVec 32)
  | railReading (rail : Fin 13) (millivolt : BitVec 16) (deciamp : BitVec 16)
  | coolantReading (inlet : Option (BitVec 12)) (flow : Option (BitVec 12))
  -- PCIe (17)
  | bar4Read (offset length : Nat)
  | bar4Write (offset : Nat) (bytes : Bytes) (poisoned : Bool)
  /-- a read of PF0 BAR0 but for its mirror's first register; the debug window is 0x100_0000–0x1FF_FFFF (R508) -/
  | debugWindowRead (offset length : Nat)
  | ideUnprotectedTlp (stream : Fin 4)
  | pcieLinkRetrain (speed : Fin 7) (width : Fin 17) (flit : Bool)
  | msixUnmask (vector : Fin 2048)
  | hostRequestError (r : HostReq) (e : HostError)
  | hostCompletionTimeout (slot : SlotId)
  -- registers and the rows the table lists last
  | registerWrite (a : Agent) (addr : Nat) (value : W64)
  | registerReadClear (a : Agent) (addr : Nat)
  | seqPadop (t : LTile) (c : CtxNo)
  | radioWindowClose (t : LTile)
  | bootStageComplete (pass : Bool) (reason : Nat) (detail : BitVec 32)
  | tapInstructionLoad (code : TapInstr)
  | ideKmRequest (tr : Transport) (stream : Fin 4) (op : IdeKm)
  | atsInvalidateRequest (lo hi : Nat)
  -- SPDM (16)
  | spdmGetVersion (tr : Transport)
  | spdmGetCapabilities (tr : Transport)
  | spdmNegotiateAlgorithms (tr : Transport) (offered : Bool)
  | spdmGetDigests (tr : Transport)
  | spdmGetCertificate (tr : Transport) (slot : Nat) (offset length : Nat)
  | spdmChallenge (tr : Transport) (nonce : BitVec 256)
  | spdmGetMeasurements (tr : Transport) (nonce : BitVec 256) (index : Nat) (signed : Bool)
  | spdmKeyExchange (tr : Transport) (exchange : Bytes)
  | spdmFinish (tr : Transport) (session : Fin 2) (verify : Bytes)
  | spdmHeartbeat (tr : Transport) (session : Fin 2)
  | spdmKeyUpdate (tr : Transport) (session : Fin 2)
  | spdmEndSession (tr : Transport) (session : Fin 2)
  | spdmChunkSend (tr : Transport) (seq : Nat) (last : Bool) (bytes : Bytes)
  | spdmChunkGet (tr : Transport) (seq : Nat)
  | getPqDigest (tr : Transport)
  | getPqCert (tr : Transport) (offset length : Nat)
  | spdmUnsupportedRequest (tr : Transport) (code : Byte)
  -- commands without an operand
  | atbTick
  | atbMirrorRead
  | ptpSourceTimeout
  | esmcTimeout
  | synceLockLoss
  | freqInputOutOfWindow
  | ppsEdgeMissing
  | ppsOutRise
  | holdoverLimitExceeded
  | scrubComplete
  | epochEndReached
  | preemptionTimeout
  | epochCloseDrainEnd
  | throttleInterval
  | cellShedStep
  | isolationMute
  | regionRecallComplete
  | stageCommitApply
  | tileSwapTenantSuspend
  | handoverPrepare
  | handoverConfirm
  | m0Moult
  | mailboxSweep
  | m0WatchdogExpiry
  | pllLockLoss
  | porstRelease
  | porstAssert
  | mgmtPwrokLow
  | mainPwrokDeassert
  | thermtrip
  | pf0Flr
  | pf1Flr
  | pcieLinkDown
  | perstAssert
  | busMasterDisable
  | mainPwrokAssert
  | m0RestartComplete
  | spareImageLoaded
  | tileSwapCopyComplete
  | gatherDirectoryClearComplete
  | ppsOutFall
  | freqInputQualified
  deriving DecidableEq, Repr

end Sys2Proof
end

