-- ==== Sys2Proof/Decode.lean ====
section
/-!
DEFINITION. The commands that a word spells. The table gives no row of the part any bits: commands are events of the
block and not encoded words (log entry 33).
-/
namespace Sys2Proof

/-- The command of a word: none, since no row has bits. -/
def decodeTableWord (_nbits _w : Nat) : Option Instr := none

end Sys2Proof
end

