-- ==== Sys2Proof/Machine/Bits.lean ====
section
/-!
DEFINITION. Bit fields, byte order, saturation and the sparse tables' operations.
-/
namespace Sys2Proof.Machine

/-! ## Bit fields (the conventions of 00_scope: [hi:lo], bit 0 least significant) -/

/-- `x[hi:lo]` as an unsigned number (R13). -/
def bits {n : Nat} (x : BitVec n) (hi lo : Nat) : Nat := x.toNat / 2 ^ lo % 2 ^ (hi + 1 - lo)

/-- Bit `i` of `x`. -/
def bit {n : Nat} (x : BitVec n) (i : Nat) : Bool := x.getLsbD i

/-- `x` with `x[hi:lo]` replaced by the low bits of `v`. -/
def putBits {n : Nat} (x : BitVec n) (hi lo v : Nat) : BitVec n :=
  BitVec.ofNat n (x.toNat - bits x hi lo * 2 ^ lo + v % 2 ^ (hi + 1 - lo) * 2 ^ lo)

/-- `x` with bit `i` set to `b`. -/
def putBit {n : Nat} (x : BitVec n) (i : Nat) (b : Bool) : BitVec n := putBits x i i b.toNat

/-- `x[hi:lo]` plus `k`, saturating at the field's largest value (the counters of the register maps). -/
def satAdd {n : Nat} (x : BitVec n) (hi lo k : Nat) : BitVec n :=
  putBits x hi lo (Nat.min (2 ^ (hi + 1 - lo) - 1) (bits x hi lo + k))

/-- `x[hi:lo]` read as a two's complement number. -/
def sbits {n : Nat} (x : BitVec n) (hi lo : Nat) : Int :=
  (BitVec.ofNat (hi + 1 - lo) (bits x hi lo)).toInt

/-! ## Lanes of a wide word: lane `i` of width `w` is bits `w * i` to `w * i + w - 1` -/

/-- Lane `i` of width `w`. -/
def lane {n : Nat} (x : BitVec n) (w i : Nat) : BitVec w := x.extractLsb' (w * i) w

/-- A wide word from its lanes, lane 0 first. -/
def ofLanes (n : Nat) {w : Nat} (l : List (BitVec w)) : BitVec n :=
  BitVec.ofNat n (l.foldr (fun a r => a.toNat + 2 ^ w * r) 0)

/-- `x` with lane `i` of width `w` replaced. -/
def putLane {n : Nat} (x : BitVec n) (w i : Nat) (v : BitVec w) : BitVec n :=
  if w = 0 then x else putBits x (w * i + w - 1) (w * i) v.toNat

/-! ## Byte order (little-endian in registers, pads, DRAM and payloads; 00_scope) -/

/-- The little-endian value of a byte string. -/
def leNat : Bytes → Nat
  | [] => 0
  | b :: r => b.toNat + 256 * leNat r

/-- The big-endian value of a byte string (network byte order). -/
def beNat (b : Bytes) : Nat := b.foldl (fun a x => 256 * a + x.toNat) 0

/-- `k` bytes of `v`, least significant first. -/
def leBytes : Nat → Nat → Bytes
  | 0, _ => []
  | k + 1, v => BitVec.ofNat 8 v :: leBytes k (v / 256)

/-- `k` bytes of `v`, most significant first. -/
def beBytes (k v : Nat) : Bytes := (leBytes k v).reverse

/-- The `len` bytes of `b` from offset `off`; a byte beyond the end reads 0. -/
def slice (b : Bytes) (off len : Nat) : Bytes :=
  (List.range len).map fun i => b.getD (off + i) 0

/-- The little-endian field of `len` bytes at offset `off`. -/
def fld (b : Bytes) (off len : Nat) : Nat := leNat (slice b off len)

/-- The bytes of a wide word, byte 0 first. -/
def toBytes {n : Nat} (x : BitVec n) (k : Nat) : Bytes := leBytes k x.toNat

/-- A wide word from bytes, byte 0 in the least significant place. -/
def ofBytes (n : Nat) (b : Bytes) : BitVec n := BitVec.ofNat n (leNat b)

/-- `b` padded with zeros, or cut, to `k` bytes. -/
def padTo (k : Nat) (b : Bytes) : Bytes := slice b 0 k

/-- A byte string cut into pieces of `k` bytes, the last one padded with zeros. -/
def chunks (k : Nat) (b : Bytes) : List Bytes :=
  (List.range ((b.length + k - 1) / k)).map fun i => slice b (k * i) k

/-! ## Arithmetic -/

/-- `sat(x, lo, hi)` (R13). -/
def sat (x lo hi : Int) : Int := if x < lo then lo else if hi < x then hi else x

/-- `floor(x / 2^s)` (R13, R103, R122). -/
def floorShift (x : Int) (s : Nat) : Int := x / (2 ^ s : Int)

/-- The sum of a list. -/
def sumNat (l : List Nat) : Nat := l.foldl (· + ·) 0

/-- Rounded up to a multiple of `m`. -/
def ceilDiv (a m : Nat) : Nat := (a + m - 1) / m

/-- `n` as a `Fin` of a positive size, taken modulo the size. -/
def fin (n k : Nat) (h : 0 < n := by decide) : Fin n := ⟨k % n, Nat.mod_lt k h⟩

/-! ## Sparse tables -/

/-- The value listed for `k`. -/
def tfind {α : Type} (k : Nat) : Tab α → Option α
  | [] => none
  | (j, v) :: r => if j = k then some v else tfind k r

/-- What key `k` reads as: its entry, or `d`. -/
def tget {α : Type} (d : α) (t : Tab α) (k : Nat) : α := (tfind k t).getD d

/-- The table without an entry for `k`. -/
def tdel {α : Type} (k : Nat) : Tab α → Tab α
  | [] => []
  | (j, v) :: r => if j = k then tdel k r else (j, v) :: tdel k r

/-- The table with the entry `(k, v)`, keys rising. -/
def tput {α : Type} (k : Nat) (v : α) : Tab α → Tab α
  | [] => [(k, v)]
  | (j, w) :: r =>
    if k < j then (k, v) :: (j, w) :: r
    else if j = k then (k, v) :: r
    else (j, w) :: tput k v r

/-- A write of `v` at `k` where an unlisted key reads as `d`: writing `d` removes the entry. -/
def tset {α : Type} [DecidableEq α] (d : α) (t : Tab α) (k : Nat) (v : α) : Tab α :=
  if v = d then tdel k t else tput k v t

/-- The canonical form: keys strictly rising, above `lo`, and no entry equal to what an unlisted key reads as. -/
def twfFrom {α : Type} [DecidableEq α] (d : Nat → α) : Nat → Tab α → Bool
  | _, [] => true
  | lo, (k, v) :: r => decide (lo ≤ k) && decide (v ≠ d k) && twfFrom d (k + 1) r

/-- The canonical form of a table whose unlisted key `k` reads as `d k`. -/
def twf {α : Type} [DecidableEq α] (d : Nat → α) (t : Tab α) : Bool := twfFrom d 0 t

/-! ## Lists -/

/-- The list with element `i` changed by `f`. -/
def lmod {α : Type} (f : α → α) : Nat → List α → List α
  | _, [] => []
  | 0, a :: r => f a :: r
  | i + 1, a :: r => a :: lmod f i r

/-- The first element that passes, and the list without it. -/
def takeFirst {α : Type} (p : α → Bool) : List α → Option (α × List α)
  | [] => none
  | a :: r => if p a then some (a, r) else (takeFirst p r).map fun (x, l) => (x, a :: l)

/-- The list with the first element that passes replaced. -/
def replaceFirst {α : Type} (p : α → Bool) (v : α) : List α → List α
  | [] => []
  | a :: r => if p a then v :: r else a :: replaceFirst p v r

/-- Every element that passes `p` changed by `f`. -/
def mapIf {α : Type} (p : α → Bool) (f : α → α) (l : List α) : List α :=
  l.map fun a => if p a then f a else a

/-- Whether two spans `[a, b)` and `[c, d)` share a point. -/
def overlaps (a b c d : Nat) : Bool := decide (Nat.max a c < Nat.min b d)

/-- The list with `v` added at the end, for queues (oldest first). -/
def enq {α : Type} (l : List α) (v : α) : List α := l ++ [v]

/-- A vector with element `i` changed by `f`. -/
def vmod {α : Type} {n : Nat} (v : Vector α n) (i : Fin n) (f : α → α) : Vector α n :=
  v.set i (f (v.get i))

end Sys2Proof.Machine
end

