-- ==== Sys2Proof/Machine/LineCode.lean ====
section
/-!
DEFINITION. The line code RS(66,64) over GF(2^8) of pad rows and DRAM lines (R177, R231-R233).
-/
namespace Sys2Proof.Machine

/-- Multiplication by alpha = 0x02 in the field of 0x11D (R231). -/
def gx (b : Byte) : Byte := if b.msb then (b <<< 1) ^^^ 0x1D#8 else b <<< 1

/-- One step of the division by g(x) = x^2 + 0x03 x + 0x02: the remainder (coefficients of x and 1). -/
def rsStep (r : Byte × Byte) (d : Byte) : Byte × Byte :=
  let f := d ^^^ r.1
  (r.2 ^^^ gx f ^^^ f, gx f)

/-- The check bytes of 64 data bytes: check byte 0 is the coefficient of x, check byte 1 of 1 (R231). -/
def rsCheck (data : Bytes) : Byte × Byte := data.foldl rsStep (0, 0)

/-- A codeword: data byte b at bits 8b, check byte 0 at bits 512, check byte 1 at bits 520. -/
def rsEncode (d : Row) : BitVec 528 :=
  let c := rsCheck (toBytes d 64)
  BitVec.ofNat 528 (d.toNat + 2 ^ 512 * c.1.toNat + 2 ^ 520 * c.2.toNat)

/-- The check pair of a line as 16 bits. -/
def rsPair (d : Row) : BitVec 16 := (rsEncode d).extractLsb' 512 16

/-- The syndromes of a received word: its values at 1 and at alpha (R232). -/
def rsSyndromes (c : BitVec 528) : Byte × Byte :=
  (toBytes c 66).foldl (fun (s : Byte × Byte) b => (s.1 ^^^ b, gx s.2 ^^^ b)) (0, 0)

/-- The exponent p < 66, counted from `p`, with value * alpha^p = target. -/
def rsFind (target : Byte) : Nat → Nat → Byte → Option Nat
  | 0, _, _ => none
  | n + 1, p, v => if v = target then some p else rsFind target n (p + 1) (gx v)

/-- What the decoder makes of a received word (R232): unchanged, one symbol corrected, or uncorrectable. -/
inductive Decoded where
  | clean (d : Row)
  | corrected (d : Row)
  | uncorrectable
  deriving DecidableEq, Repr

/-- The decoder (R232). -/
def rsDecode (c : BitVec 528) : Decoded :=
  let s := rsSyndromes c
  if s = (0, 0) then .clean (c.setWidth 512)
  else if s.1 = 0 then .uncorrectable
  else match rsFind s.2 66 0 s.1 with
    | none => .uncorrectable
    | some p => .corrected ((c ^^^ (s.1.setWidth 528 <<< (8 * (65 - p)))).setWidth 512)

/-- A line written poisoned: its check bytes each XORed with 0x01 (R233). -/
def rsPoison (d : Row) : BitVec 528 := rsEncode d ^^^ (0x0101#528 <<< 512)

end Sys2Proof.Machine
end

