-- ==== Sys2Proof/Config.lean ====
section
/-!
DEFINITION. What the spec leaves open or names by an outside standard, as constants without a body: nothing in
Lean can evaluate them, and a statement holds for every value of them. Each is named in the assumption log.
-/
namespace Sys2Proof.Config

/-- Free values (log entry 1): the n-th one drawn, as `w` bits. -/
opaque freeBits (w : Nat) (n : Nat) : BitVec w

/-- The number of a CODE that the rule R<r> writing the record does not give (log entry 16). -/
opaque eventCode (r k : Nat) : BitVec 16

/-- SHA-384, its first byte in bits [7:0] (log entry 10). -/
opaque sha384 (b : Bytes) : BitVec 384

/-- The SHA-384 values of the root keys in the boot ROM, Ed25519 (false) and ML-DSA-65 (true) (R487; log entry 10). -/
opaque romHash (pq : Bool) : BitVec 384

/-- Verification of an Ed25519 signature, and of an ML-DSA-65 signature with context "LX9640-SIG" (R486; log entry 10). -/
opaque edVerify (key message signature : Bytes) : Bool
opaque pqVerify (key message signature : Bytes) : Bool

/-- The part's own Ed25519 signature (R494; log entry 10). -/
opaque signEd (b : Bytes) : Bytes

/-- The part's own ML-DSA-65 signature (R498; log entry 10). -/
opaque signPq (b : Bytes) : Bytes

/-- AES-256-GCM encryption (R355): ciphertext and tag (log entry 10). -/
opaque gcmSeal (key : BitVec 256) (iv : BitVec 96) (aad plain : Bytes) : Bytes × BitVec 128

/-- AES-256-GCM decryption (R357): the plaintext where the tag verifies (log entry 10). -/
opaque gcmOpen (key : BitVec 256) (iv : BitVec 96) (aad cipher : Bytes) (tag : BitVec 128) : Option Bytes

/-- HKDF with SHA-384 (R501; log entry 10). -/
opaque hkdf (salt ikm info : Bytes) (len : Nat) : Bytes

/-- The public wrap keys of the n-th epoch: X25519 and ML-KEM-768 (R501; log entry 10). -/
opaque wrapPublic (n : Nat) : Bytes

/-- The two shared secrets of a wrapped key under the n-th epoch's wrap keys, in order (R501; log entry 10). -/
opaque decapsulate (n : Nat) (x25519 mlkem : Bytes) : Option Bytes

/-- The handover format that an image's payload declares, and those that a running image accepts (R430; log entry 10). -/
opaque imageFormat (payload : Bytes) : Nat
opaque formatAccepted (running new : Nat) : Bool

/-- The part's own public keys, PK_ED then PK_MLDSA, of the alias certificates (R494; log entry 10). -/
opaque aliasKeys (m0 board : BitVec 384) : Bytes

/-- The certificate chains of R495, Ed25519 (false) and ML-DSA-65 (true): the DevID certificate names the serial number and the
stepping (R4), the alias certificate the measurements (log entry 10). -/
opaque chain (pq : Bool) (serial : Bytes) (stepping : Nat) (m0 board : BitVec 384) : Bytes

/-- The shared secret of an ECDHE exchange with the part's key (R497; log entry 10). -/
opaque ecdhe (exchange : Bytes) : Bytes

/-- The part's exchange data of its n-th SPDM session (R497; log entry 10). -/
opaque exchangeData (n : Nat) : Bytes

/-- SHA-384 of the boot ROM (R499; log entry 10). -/
opaque bootRom : BitVec 384

/-- HMAC with SHA-384, for SPDM verify data (R496; log entry 10). -/
opaque hmac (key data : Bytes) : Bytes

/-- The phases that the slot table gives a flow that is placed anew, from what is placed already (R192; log
entry 11). The model accepts them only if R193 holds. -/
opaque placePhases (src dst rate : Nat) (placed : List (Nat × Nat × List Nat)) : List Nat

/-- Whether a radio route runs along x first (R22 fixes one dimension order and does not say which; log entry 12). -/
opaque routeXFirst : Bool

/-- The filtered phase estimate of the servo after a history of samples, newest first, in 2^-16 cy, at a loop
bandwidth code (ATB_SERVO.BW; log entry 13). -/
opaque servoFilter (bw : Nat) (history : List Int) : Int

/-- The applied frequency correction in 0.001 ppb (R35; log entry 13), before its limits. -/
opaque servoFreq (bw : Nat) (history : List Int) : Int

/-- The frequency that locks the clock to the reference, in 0.001 ppb (R35; log entry 13). -/
opaque servoLock (history : List Int) : Int

/-- The frequency correction in 0.001 ppb that locks the clock to a frequency input (1 SyncE, 2 the 10 MHz input) at an ATB
count, and what the frequency loop applies there when the phase loop has a history of samples (R42; log entry 157). -/
opaque freqInput (sel : Nat) (now : BitVec 64) : Int
opaque hybridFreq (bw sel : Nat) (now : BitVec 64) (history : List Int) : Int

/-- Whether the alternate BMCA of G.8275.1 prefers the first data set, heard on a port with its localPriority, to the second
(R43; log entry 158). -/
opaque bmcaBetter (port : Nat) (a : Bytes) (port' : Nat) (b : Bytes) : Bool

/-- An eCPRI type 5 reply with its transmit time in 1/16 cy put in (R273, R289; log entry 14). -/
opaque delayStamp (reply : Bytes) (sent16 : Nat) : Bytes

/-- Serialisation of a structure whose byte layout the spec does not give (log entry 14): `k` names it. -/
opaque serial (k : Nat) (fields : List Nat) : Bytes

/-- The first line of window 0 of a standby slice on a peer: the peer's configuration (R407; log entry 37). -/
opaque peerWindow (peer slice : Nat) : Nat

/-- The chip whose cell a cell of this chip stands by for: no message of the part says it (R409; log entry 38). -/
opaque primaryOf (slice cell : Nat) : Option Nat

/-- Bytes of the IPv6 header that the spec does not give: traffic class and flow label, and hop limit (R390; log entry 14). -/
opaque ipv6Flow : Nat
opaque ipv6Hops : Nat

/-- Whether the n-th time asked the twin holds a tile eligible, and where the twin's primary placed an entry (R404): the
table has no row for what the twin sends of it (log entry 44). -/
opaque twinEligible (n tile : Nat) : Bool
opaque twinPlacement (n : Nat) : Nat

/-- The manufacturer field of the IDCODE with its bit 0, which the BSDL file gives (R503; log entry 43). -/
opaque tapMaker : Nat

/-- The C-plane frame bytes of a template in a mu1 slot, which R323 counts and the spec does not give (log entry 31), from
the cell's parameters and the template. -/
opaque cplaneBytes (cell template : Bytes) : Nat

end Sys2Proof.Config
end

