-- ==== Sys2Proof/Machine/BoardState.lean ====
section
/-!
DEFINITION. The signed board description (R487, R268 and the rules that load a field from it) as plain data: the
spec gives its fields' meaning and no byte layout (log entry 5).
-/
namespace Sys2Proof.Machine

/-- A port of the board description (R267, R288): its number's first lane is its block; role 1 FH, 2 CL, 3 GW as FHP_CFG.ROLE has it. -/
structure PortCfg where
  role : Nat := 0
  rate : Nat := 0
  width : Nat := 0
  first : Nat := 0
  index : Nat := 0
  deriving DecidableEq, Repr

/-- The board description. -/
structure Board where
  /-- SHA-384 of the description (R494, R499) -/
  hash : BitVec 384 := 0
  version : Nat := 0
  rollback : Nat := 0
  chip : Fin 8 := 0
  members : BitVec 8 := 0
  /-- the member that leads clutch time (R364) -/
  leader : Fin 8 := 0
  serial : Bytes := []
  /-- the ports by first lane (R268) -/
  ports : List PortCfg := []
  /-- the lane rate of each lane, used or not (R266) -/
  rates : List Nat := []
  /-- clutch ports by index: asymmetry, trace delay D and peer (R364, R365, R400) -/
  clinks : List (Nat × Nat × Nat) := []
  /-- the gateway port's MAC and IPv6 addresses, and the MAC of its next hop (R390) -/
  gwMac : Nat := 0
  gwNext : Nat := 0
  gwIp : Nat := 0
  /-- residual frequency error in 0.001 ppb, ageing in 0.001 ppb per second, SyncE wander in 0.001 ppb (R55) -/
  f0 : Nat := 0
  ageing : Nat := 0
  wander : Nat := 0
  /-- fronthaul ports with SyncE enabled (R45) -/
  synce : BitVec 16 := 0
  /-- the 10 MHz input is PRC-traceable (R45) -/
  tenMhzPrc : Bool := false
  /-- 1PPS input correction in 1/16 cy and output correction in cy (R46, R47) -/
  ppsIn : Int := 0
  ppsOut : Nat := 0
  /-- ING and EGR of each fronthaul port in 1/16 cy (R44) -/
  tscorr : List (Nat × Nat) := []
  /-- thresholds TJ_THR, TJ_SUSP, TJ_SHED (R345) -/
  tjThr : Nat := 95
  tjSusp : Nat := 100
  tjShed : Nat := 105
  /-- energy coefficients of R342 in nJ per count (depth cycles 8, 4, 16 bit and complex, engine, DRAM line, flit,
  sealed byte), radio allowance and static power in W (R343) -/
  energy : List Nat := []
  radioAllowance : Nat := 0
  staticPower : Nat := 0
  /-- eye margin threshold (R482) -/
  eye : Nat := 0
  /-- operating set-points of the rails in mV (R522, R523) -/
  rails : List Nat := []
  /-- boot voltages of the rails in mV, and the PMB bus addresses of their regulators (R523) -/
  railBoot : List Nat := []
  railAddr : List Nat := []
  /-- oscillator code of PKG_CLK.OSC (R528) -/
  osc : Nat := 0
  /-- log2 of the BAR4 size (R508) -/
  bar4 : Nat := 30
  deriving DecidableEq, Repr, Inhabited

end Sys2Proof.Machine

namespace Sys2Proof.Config

/-- The board description that a payload's bytes spell (log entry 5). -/
opaque boardOf (payload : Bytes) : Machine.Board

end Sys2Proof.Config
end

