-- ==== Sys2Proof/Machine/PortState.lean ====
section
/-!
DEFINITION. The state of the Ethernet ports' egress (R273-R287) and of the rim dies' radio services (R291-R307,
R313-R316), beside their registers.
-/
namespace Sys2Proof.Machine

/-- The egress of one port, kept under its first lane. A frame is its bytes from the destination address, without FCS. -/
structure PortSt where
  /-- held frames of each queue, oldest first -/
  queues : Tab (List Bytes) := []
  /-- deficits of the DRR queues (R283) -/
  deficit : Tab Nat := []
  cur : List Nat := []
  nxt : List Nat := []
  visiting : Option Nat := none
  /-- the earliest instant of the next frame (R277) -/
  freeAt : W64 := 0
  /-- time-triggered windows that are open -/
  opened : List Nat := []
  /-- the cells of the port by their C-plane queue, and by their U-plane queue from 64 on (R306, log entry 30) -/
  cells : List (Fin 64 × Fin 512) := []
  ucells : List (Fin 64 × Fin 512) := []
  /-- frames that arrived in cycle `freshAt`, first first: they join their queues for the decisions of later cycles (R285) -/
  fresh : List (Nat × Bytes) := []
  freshAt : W64 := 0
  deriving DecidableEq, Repr

/-- A record under assembly (R295-R297): its stream and air symbol, the stored bytes of the PRBs placed, FLAGS, the
sum of their levels (R313). -/
structure AsmBuf where
  stream : Nat
  sym : W64
  prbs : Tab Bytes := []
  flags : Nat := 0
  lsum : Nat := 0
  deriving DecidableEq, Repr

/-- A recorded width (R307): symbols from one air instant up to another, PRBs from one up to another, width, method. -/
structure WidthRec where
  from_ : W64
  upto : W64
  prb0 : Nat
  prb1 : Nat
  width : Nat
  meth : Nat
  deriving DecidableEq, Repr

/-- A stream-table entry's four registers. -/
structure StreamRegs where
  key : W64
  fact : W64
  ftime : W64
  fgain : W64
  deriving DecidableEq, Repr

/-- What the rim die keeps of a stream beside its registers. -/
structure StreamSt where
  cell : Nat := 0
  /-- the last ecpriSeqid (code 0x0109) -/
  seq : Option Nat := none
  /-- a late or early frame was seen since the last flush -/
  lateSeen : Bool := false
  /-- the symbol of the last record flushed -/
  flushed : Option W64 := none
  widths : List WidthRec := []
  /-- sum of the levels and count of the PRBs of the present slot (R313) -/
  gsum : Nat := 0
  gn : Nat := 0
  /-- the entries that commits replaced, last first, with the commits' instants, while symbols before them remain (R302) -/
  olds : List (W64 × StreamRegs) := []
  deriving DecidableEq, Repr

/-- Units of a flushed record that wait for their zone's flow (R300). -/
structure ZoneRec where
  tile : LTile
  zone : Fin 16
  rim : Fin 4
  owner : Nat
  earliest : W64
  units : List (BitVec 32 × BitVec 2048)
  deriving DecidableEq, Repr

/-- A rim die's radio services. -/
structure RimSt where
  streams : Tab StreamSt := []
  asm : List AsmBuf := []
  /-- templates in force: TMPL to (slice, entry) (R303, R459) -/
  templates : Tab (Nat × Bytes) := []
  /-- ecpriSeqid of the next message, keyed 2 * eAxC + plane (R304) -/
  seq : Tab Nat := []
  /-- units in the egress builder's input rings with their cycles of arrival, keyed 16 * tile + ring (R303, R305) -/
  rings : Tab (List (BitVec 2048 × W64)) := []
  /-- the cycle in which the classification queue will be empty (R544) -/
  clsFree : W64 := 0
  deriving DecidableEq, Repr

/-- The radio services. -/
structure Radio where
  rims : Vector RimSt 4 := Vector.replicate 4 {}
  /-- the activating commits' instants of each fed zone, last first, keyed 16 * tile + zone (R299) -/
  zoneX : Tab (List W64) := []
  zoneQ : List ZoneRec := []
  deriving DecidableEq, Repr

end Sys2Proof.Machine
end

