-- ==== Sys2Proof/Machine/Formats.lean ====
section
/-!
DEFINITION. The number formats and their conversions (R89-R109): element encodings, exact products,
accumulation with one rounding, output conversions, O-RAN block floating point.
-/
namespace Sys2Proof.Machine

/-! ## Values -/

/-- An exact value: (-1)^neg * m * 2^e, an infinity, or NaN (R91). -/
inductive Fv where
  | fin (neg : Bool) (m : Nat) (e : Int)
  | inf (neg : Bool)
  | nan
  deriving DecidableEq, Repr

/-- The integer `x` times 2^e as a value. -/
def Fv.ofInt (x e : Int) : Fv := .fin (decide (x < 0)) x.natAbs e

/-- A floating-point encoding (R91): exponent bits, mantissa bits, bias, the code of the largest finite
magnitude, the code of infinity if there is one, and the lowest magnitude code that is NaN if there is one. -/
structure Enc where
  eb : Nat
  mb : Nat
  bias : Nat
  maxFin : Nat
  infCode : Option Nat
  nanFrom : Option Nat
  deriving DecidableEq, Repr

def encE4M3 : Enc := ⟨4, 3, 7, 0x7E, none, some 0x7F⟩
def encE5M2 : Enc := ⟨5, 2, 15, 0x7B, some 0x7C, some 0x7D⟩
def encE2M3 : Enc := ⟨2, 3, 1, 0x1F, none, none⟩
def encE3M2 : Enc := ⟨3, 2, 3, 0x1F, none, none⟩
def encE2M1 : Enc := ⟨2, 1, 1, 0x7, none, none⟩
def encBF16 : Enc := ⟨8, 7, 127, 0x7F7F, some 0x7F80, some 0x7F81⟩
def encFP32 : Enc := ⟨8, 23, 127, 0x7F7FFFFF, some 0x7F800000, some 0x7F800001⟩

/-- The one NaN an FP32 accumulator holds (R101). -/
def nan32 : BitVec 32 := 0x7FC00000#32

/-- The value of a magnitude code: 0.mantissa or 1.mantissa (R91). -/
def Enc.mag (f : Enc) (c : Nat) : Nat × Int :=
  let e := c / 2 ^ f.mb
  let m := c % 2 ^ f.mb
  if e = 0 then (m, 1 - (f.bias : Int) - f.mb)
  else (2 ^ f.mb + m, (e : Int) - f.bias - f.mb)

/-- The value of a code (R91). -/
def Enc.decode (f : Enc) (code : Nat) : Fv :=
  let w := f.eb + f.mb
  let neg := decide (code / 2 ^ w % 2 = 1)
  let c := code % 2 ^ w
  if (f.nanFrom.any fun n => decide (n ≤ c)) then .nan
  else if f.infCode = some c then .inf neg
  else .fin neg (f.mag c).1 (f.mag c).2

/-- `m * 2^e` rounded to a multiple of 2^u, nearest, ties to even, in units of 2^u. -/
def rne (m : Nat) (e u : Int) : Nat :=
  if u ≤ e then m * 2 ^ (e - u).toNat
  else
    let s := (u - e).toNat
    let q := m / 2 ^ s
    let r := 2 * (m % 2 ^ s)
    if r < 2 ^ s then q else if 2 ^ s < r then q + 1 else q + q % 2

/-- The magnitude code nearest to `m * 2^e`, ties to even, with an unbounded exponent (R100, R103). -/
def Enc.round (f : Enc) (m : Nat) (e : Int) : Nat :=
  if m = 0 then 0
  else
    let top := (m.log2 : Int) + e
    let emin : Int := 1 - f.bias
    let x := if top < emin then emin else top
    (x - emin).toNat * 2 ^ f.mb + rne m e (x - f.mb)

/-- Whether `m * 2^e` is above `n * 2^d`. -/
def magGt (m : Nat) (e : Int) (n : Nat) (d : Int) : Bool :=
  if e ≤ d then decide (n * 2 ^ (d - e).toNat < m) else decide (n < m * 2 ^ (e - d).toNat)

/-- A code with its sign bit. -/
def Enc.sign (f : Enc) (neg : Bool) (c : Nat) : Nat := (if neg then 2 ^ (f.eb + f.mb) else 0) + c

/-- A finite value converted to a format (R103): a value beyond the largest finite one saturates. Answers
the code and whether it saturated. -/
def Enc.convert (f : Enc) (neg : Bool) (m : Nat) (e : Int) : Nat × Bool :=
  let top := f.mag f.maxFin
  if magGt m e top.1 top.2 then (f.sign neg f.maxFin, true)
  else (f.sign neg (f.round m e), false)

/-! ## Format codes (R90) -/

/-- The rate classes (R64). -/
inductive RateClass where
  | c8 | c4 | c16 | cx
  deriving DecidableEq, Repr

/-- The class of an input format code. -/
def inClass (c : Nat) : Option RateClass :=
  if 1 ≤ c ∧ c ≤ 8 then some .c8
  else if c = 9 ∨ c = 0xA then some .c4
  else if c = 0xB ∨ c = 0xC then some .c16
  else if c = 0xD then some .cx
  else none

/-- The formats with an E8M0 scale per 32 elements. -/
def isMx (c : Nat) : Bool := decide (4 ≤ c ∧ c ≤ 8) || decide (c = 0xA)

/-- The floating encoding of an element format, if it is a floating one. -/
def elemEnc (c : Nat) : Option Enc :=
  if c = 2 ∨ c = 4 then some encE4M3
  else if c = 3 ∨ c = 5 then some encE5M2
  else if c = 6 then some encE2M3
  else if c = 7 then some encE3M2
  else if c = 0xA then some encE2M1
  else if c = 0xC then some encBF16
  else if c = 0xE then some encFP32
  else none

/-- The number of element bits. -/
def elemBits (c : Nat) : Nat :=
  if c = 6 ∨ c = 7 then 6 else if c = 9 ∨ c = 0xA then 4 else if c = 0xB ∨ c = 0xC then 16 else 8

/-- A two's complement reading of the low `w` bits of `n`. -/
def sInt (w n : Nat) : Int := (BitVec.ofNat w n).toInt

/-- The value of an element (R91, R92) from its bits, with its block's scale byte (R93). -/
def elemValue (c : Nat) (raw : Nat) (scale : Option Nat) : Fv :=
  let raw := raw % 2 ^ elemBits c
  let v := match elemEnc c with
    | some f => f.decode raw
    | none => if c = 8 then Fv.ofInt (sInt 8 raw) (-6) else Fv.ofInt (sInt (elemBits c) raw) 0
  match scale with
  | none => v
  | some s =>
    if s = 255 then .nan
    else match v with
      | .fin n m e => .fin n m (e + s - 127)
      | w => w

/-- The accumulator kinds (R97). -/
inductive AccKind where
  | int32 | int64 | cint64 | fp32
  deriving DecidableEq, Repr

/-- The accumulator kind of two input formats of one class (R97). -/
def accKind (a b : Nat) : AccKind :=
  if a = 1 ∧ b = 1 ∨ a = 9 ∧ b = 9 then .int32
  else if a = 0xB ∧ b = 0xB then .int64
  else if a = 0xD ∧ b = 0xD then .cint64
  else .fp32

/-- Whether FMT_OUT is allowed for an accumulator kind and class (R102). -/
def outAllowed (k : AccKind) (cl : RateClass) (o : Nat) : Bool :=
  match k with
  | .int32 => decide (0x40 ≤ o ∧ o ≤ 0xFF)
  | .int64 | .cint64 => decide (0x80 ≤ o ∧ o ≤ 0xFF)
  | .fp32 =>
    if cl = .c16 then decide (o = 2 ∨ o = 3 ∨ o = 0xC ∨ o = 0xE)
    else decide (2 ≤ o ∧ o ≤ 8 ∨ o = 0xA ∨ o = 0xC ∨ o = 0xE)

/-! ## Products and FP32 accumulation (R100, R101) -/

/-- An exact product: NaN, an infinity, or finite. -/
def Fv.mul : Fv → Fv → Fv
  | .nan, _ => .nan
  | _, .nan => .nan
  | .inf a, .inf b => .inf (a ^^ b)
  | .inf a, .fin b m _ => if m = 0 then .nan else .inf (a ^^ b)
  | .fin b m _, .inf a => if m = 0 then .nan else .inf (a ^^ b)
  | .fin a m e, .fin b n d => .fin (a ^^ b) (m * n) (e + d)

/-- The exact sum of two finite values; a sum of zeros follows IEEE 754 (R100). -/
def Fv.addFin (a : Bool) (m : Nat) (e : Int) (b : Bool) (n : Nat) (d : Int) : Bool × Nat × Int :=
  let u := if e ≤ d then e else d
  let x : Int := (m * 2 ^ (e - u).toNat : Nat)
  let y : Int := (n * 2 ^ (d - u).toNat : Nat)
  let r := (if a then -x else x) + (if b then -y else y)
  if r = 0 then (if m = 0 ∧ n = 0 then a && b else false, 0, u)
  else (decide (r < 0), r.natAbs, u)

/-- One depth step of an FP32 accumulator: the accumulator, whether it was set to a largest finite value,
and whether it became NaN. `none` as the old accumulator is depth cycle 0 (R76, R100, R101). -/
def fpStep (acc : Option (BitVec 32)) (p : Fv) : BitVec 32 × Bool × Bool :=
  let old : Fv := match acc with
    | none => .fin false 0 0
    | some a => encFP32.decode a.toNat
  match old, p with
  | .nan, _ => (nan32, false, false)
  | _, .nan => (nan32, false, true)
  | _, .inf n => (BitVec.ofNat 32 (encFP32.sign n encFP32.maxFin), true, false)
  | .inf n, .fin _ _ _ => (BitVec.ofNat 32 (encFP32.sign n encFP32.maxFin), true, false)
  | .fin a m e, .fin b n d =>
    let r := if acc.isNone then (b, n, d) else Fv.addFin a m e b n d
    let c := encFP32.round r.2.1 r.2.2
    if encFP32.maxFin < c then (BitVec.ofNat 32 (encFP32.sign r.1 encFP32.maxFin), true, false)
    else (BitVec.ofNat 32 (encFP32.sign r.1 c), false, false)

/-- One accumulator: the integer kinds hold one or two exact sums, the FP32 kind its code. -/
inductive Accum where
  | int (re im : Int)
  | fp (a : BitVec 32)
  deriving DecidableEq, Repr

/-! ## Output conversion (R103-R105) -/

/-- The output of one accumulator of an integer kind: width in bytes, parts, and whether one saturated. -/
def outInt (o : Nat) (parts : List Int) : Bytes × Bool :=
  let w := if o < 0x80 then 1 else if o < 0xC0 then 2 else 4
  let s := o % 64
  let lim : Int := 2 ^ (8 * w - 1)
  parts.foldl (fun (b, f) x =>
    let q := floorShift x s
    let y := sat q (-lim) (lim - 1)
    (b ++ leBytes w (BitVec.ofInt (8 * w) y).toNat, f || decide (y ≠ q))) ([], false)

/-- The output code of one FP32 accumulator in a non-MX format. -/
def outFp (o : Nat) (a : BitVec 32) : Nat × Bool :=
  match elemEnc o, encFP32.decode a.toNat with
  | some f, .fin n m e => if o = 0xE then (a.toNat, false) else f.convert n m e
  | _, _ => (if o = 2 then 0x7F else if o = 3 then 0x7F else if o = 0xC then 0x7FC0 else nan32.toNat, false)

/-- emax of an MX element (R104). -/
def emax (o : Nat) : Int :=
  if o = 4 then 8 else if o = 5 then 15 else if o = 6 then 2 else if o = 7 then 4 else if o = 0xA then 2 else 0

/-- The binary exponent of a non-zero FP32 magnitude: floor(log2). -/
def log2Fv (m : Nat) (e : Int) : Int := (m.log2 : Int) + e

/-- One MX output block (R103, R104): the scale byte, the element codes, and whether one saturated. -/
def mxBlock (o : Nat) (accs : List (BitVec 32)) : Nat × List Nat × Bool :=
  let vs := accs.map fun a => encFP32.decode a.toNat
  if vs.any (fun v => match v with | .fin _ _ _ => false | _ => true) then
    (0xFF, accs.map fun _ => 0, false)
  else
    let tops := vs.filterMap fun v => match v with
      | .fin _ m e => if m = 0 then none else some (log2Fv m e)
      | _ => none
    let x : Int := match tops with
      | [] => -127
      | t :: r => r.foldl (fun a b => if a < b then b else a) t - emax o
    let x := sat x (-127) 127
    let codes := vs.map fun v => match v with
      | .fin n m e =>
        if o = 8 then
          let k := e - (x - 6)
          let y : Int := if n then -(m : Int) else m
          let q := if 0 ≤ k then y * 2 ^ k.toNat else floorShift y (-k).toNat
          let z := sat q (-128) 127
          ((BitVec.ofInt 8 z).toNat, decide (z ≠ q))
        else match elemEnc o with
          | some f => f.convert n m (e - x)
          | none => (0, false)
      | _ => (0, false)
    ((x + 127).toNat, codes.map (·.1), codes.any (·.2))

/-- A list cut into runs of `k`. -/
def runs {α : Type} (k : Nat) (l : List α) : List (List α) :=
  (List.range ((l.length + k - 1) / k)).map fun i => (l.drop (k * i)).take k

/-- The nibbles of an MXFP4 row packed two to a byte (R105). -/
def packNibbles : List Nat → Bytes
  | [] => []
  | [a] => [BitVec.ofNat 8 a]
  | a :: b :: r => BitVec.ofNat 8 (a + 16 * b) :: packNibbles r

/-- An output row of `n` accumulators (R105): the (offset, bytes) pieces written, and whether one saturated. -/
def outRow (o : Nat) (accs : List Accum) : List (Nat × Bytes) × Bool :=
  if 0x40 ≤ o then
    let r := accs.map fun a => match a with
      | .int re _ => outInt o [re]
      | .fp _ => outInt o [0]
    ([(0, (r.map (·.1)).flatten)], r.any (·.2))
  else
    let codes := accs.map fun a => match a with | .fp x => x | .int _ _ => 0#32
    if isMx o then
      let bs := (runs 32 codes).map (mxBlock o)
      let els := (bs.map fun b => b.2.1).flatten
      let body := if o = 0xA then packNibbles els else els.map (BitVec.ofNat 8)
      ([(0, body), (128, bs.map fun b => BitVec.ofNat 8 b.1)], bs.any fun b => b.2.2)
    else
      let w := if o = 0xE then 4 else if o = 0xC then 2 else 1
      let r := codes.map (outFp o)
      ([(0, (r.map fun c => leBytes w c.1).flatten)], r.any (·.2))

/-- An output row of the complex class: real and imaginary parts of each element (R105). -/
def outRowCx (o : Nat) (accs : List Accum) : List (Nat × Bytes) × Bool :=
  let r := accs.map fun a => match a with
    | .int re im => outInt o [re, im]
    | .fp _ => outInt o [0, 0]
  ([(0, (r.map (·.1)).flatten)], r.any (·.2))

/-- The length in bytes of an active output row of `n` elements (R105). -/
def rowLen (o n : Nat) (complex : Bool) : Nat :=
  let k := if complex then 2 else 1
  if 0xC0 ≤ o then 4 * n * k else if 0x80 ≤ o then 2 * n * k else if 0x40 ≤ o then n
  else if isMx o then 128 + (n + 31) / 32
  else if o = 0xE then 4 * n else if o = 0xC then 2 * n else n

/-! ## O-RAN block floating point (R107-R109) -/

/-- The bits of a byte string, most significant bit of each byte first. -/
def msbBits (b : Bytes) : List Bool :=
  (b.map fun x => (List.range 8).map fun i => x.getLsbD (7 - i)).flatten

/-- The bytes of a bit string, most significant bit first. -/
def ofMsbBits (l : List Bool) : Bytes :=
  (runs 8 l).map fun r => BitVec.ofNat 8 ((r ++ List.replicate (8 - r.length) false).foldl (fun a b => 2 * a + b.toNat) 0)

/-- An unsigned number from bits, most significant first. -/
def natOfMsb (l : List Bool) : Nat := l.foldl (fun a b => 2 * a + b.toNat) 0

/-- The `w` bits of a number, most significant first. -/
def msbOfNat (w n : Nat) : List Bool := (List.range w).map fun i => n.testBit (w - 1 - i)

/-- The 24 values of a BFP PRB of width `w` (R107, R108), exponent bits [3:0] only; and whether one saturated. -/
def bfpDecode (w : Nat) (prb : Bytes) : List Int × Bool :=
  let e := (prb.getD 0 0).toNat % 16
  let bs := msbBits (prb.drop 1)
  let ms := (List.range 24).map fun i => sInt w (natOfMsb ((bs.drop (w * i)).take w))
  let vs := ms.map fun m => m * 2 ^ e
  (vs.map fun v => sat v (-32768) 32767, vs.any fun v => decide (v < -32768 ∨ 32767 < v))

/-- The smallest exponent from `e` on that fits every value (R109). -/
def bfpExp (w : Nat) (vs : List Int) : Nat → Nat → Nat
  | 0, e => e
  | f + 1, e =>
    if vs.all fun v => decide (-(2 ^ (w - 1) : Int) ≤ floorShift v e ∧ floorShift v e ≤ 2 ^ (w - 1) - 1) then e
    else bfpExp w vs f (e + 1)

/-- A BFP PRB from 24 values at width `w` (R107, R109). -/
def bfpEncode (w : Nat) (vs : List Int) : Bytes :=
  let e := bfpExp w vs 15 0
  BitVec.ofNat 8 e ::
    ofMsbBits ((vs.map fun v => msbOfNat w (BitVec.ofInt w (floorShift v e)).toNat).flatten)

/-! ## The result hash (R87) -/

/-- One bit of the CRC-64: polynomial 0x42F0_E1EB_A9EA_3693, no reflection. -/
def crc64Bit (c : W64) : W64 := if c.msb then (c <<< 1) ^^^ 0x42F0E1EBA9EA3693#64 else c <<< 1

/-- One byte folded into the CRC-64. -/
def crc64Byte (c : W64) (b : Byte) : W64 :=
  let c0 := c ^^^ (b.zeroExtend 64 <<< 56)
  crc64Bit (crc64Bit (crc64Bit (crc64Bit (crc64Bit (crc64Bit (crc64Bit (crc64Bit c0)))))))

/-- A byte string folded into the CRC-64. -/
def crc64 (c : W64) (b : Bytes) : W64 := b.foldl crc64Byte c

/-- CRC-16 with polynomial 0x1021, for ToD frames (R46). -/
def crc16Byte (c : BitVec 16) (b : Byte) : BitVec 16 :=
  let f (x : BitVec 16) : BitVec 16 := if x.msb then (x <<< 1) ^^^ 0x1021#16 else x <<< 1
  f (f (f (f (f (f (f (f (c ^^^ (b.zeroExtend 16 <<< 8)))))))))

/-- CRC-16 of a byte string, initial value 0xFFFF. -/
def crc16 (b : Bytes) : BitVec 16 := b.foldl crc16Byte 0xFFFF#16

end Sys2Proof.Machine
end

