-- ==== Sys2Proof/Machine/EngineAlu.lean ====
section
/-!
DEFINITION. What each Signal Engine instruction computes from its captured operands (R118-R139): the
instruction word's fields, the field checks of R120, lane arithmetic (R122), and the result of every opcode.
Results are computed exactly and converted once; the Bool beside a result says that a value saturated.
-/
namespace Sys2Proof.Machine

/-! ## The instruction word (R118) -/

abbrev opOf (w : W64) : Nat := bits w 7 0
abbrev modeOf (w : W64) : Nat := bits w 9 8
abbrev accOf (w : W64) : Nat := bits w 11 10
abbrev dOf (w : W64) : Nat := bits w 17 12
abbrev s1Of (w : W64) : Nat := bits w 23 18
abbrev s2Of (w : W64) : Nat := bits w 29 24
abbrev s3Of (w : W64) : Nat := bits w 34 30
abbrev shOf (w : W64) : Nat := bits w 39 35
abbrev immOf (w : W64) : Nat := bits w 55 40

/-- One row of the instruction table (R125): which specifiers it uses, the modes it accepts as a mask of
mode codes (7 where the table gives none), whether it is scalar, the most bank reads and writes, issue
interval and latency. -/
structure OpRow where
  d : Bool := false
  s1 : Bool := false
  s2 : Bool := false
  s3 : Bool := false
  modes : Nat := 7
  scalar : Bool := false
  br : Nat := 2
  bw : Nat := 1
  lat : Nat := 2
  iss : Nat := 2
  deriving DecidableEq, Repr

/-- The instruction table (R125). -/
def opRow (op : Nat) : Option OpRow :=
  match op with
  | 0x00 => some { lat := 1, iss := 1 }
  | 0x01 => some { scalar := true, d := true, lat := 1, iss := 1 }
  | 0x02 => some { scalar := true, d := true, lat := 1, iss := 1 }
  | 0x03 => some { scalar := true, d := true, s1 := true, lat := 1, iss := 1 }
  | 0x04 => some { scalar := true, lat := 1, iss := 1 }
  | 0x05 => some { modes := 6, lat := 1 }
  | 0x06 => some { s1 := true, s2 := true, bw := 0 }
  | 0x10 => some { d := true, s1 := true, s2 := true }
  | 0x11 => some { d := true, s1 := true, s2 := true }
  | 0x12 => some { d := true, s1 := true, s2 := true, modes := 6, lat := 4 }
  | 0x13 => some { d := true, s1 := true, s2 := true, s3 := true, modes := 6, lat := 4 }
  | 0x14 => some { d := true, s1 := true, s2 := true, s3 := true, modes := 6, lat := 4 }
  | 0x15 => some { s1 := true, s2 := true, modes := 6, bw := 0 }
  | 0x16 => some { s1 := true, s2 := true, modes := 4, bw := 0 }
  | 0x17 => some { d := true, modes := 6, br := 0, lat := 3 }
  | 0x18 => some { d := true, s1 := true, s2 := true, modes := 3 }
  | 0x19 => some { d := true, s1 := true, s2 := true, modes := 3 }
  | 0x1A => some { d := true, s1 := true, br := 1 }
  | 0x1B => some { d := true, s1 := true, br := 1 }
  | 0x1C => some { d := true, s1 := true, s2 := true, modes := 1 }
  | 0x1D => some { d := true, s1 := true, s2 := true, modes := 1 }
  | 0x1E => some { d := true, s1 := true, s2 := true, modes := 1 }
  | 0x1F => some { d := true, s1 := true, s2 := true, modes := 3 }
  | 0x20 => some { d := true, s1 := true, s2 := true, s3 := true }
  | 0x30 => some { d := true, s1 := true, br := 1, lat := 3 }
  | 0x31 => some { d := true, s1 := true, br := 1, lat := 3 }
  | 0x32 => some { d := true, s1 := true, br := 1 }
  | 0x33 => some { d := true, s1 := true, s2 := true, s3 := true, modes := 1, lat := 3 }
  | 0x34 => some { d := true, s1 := true, s2 := true, modes := 3 }
  | 0x35 => some { d := true, s1 := true, s2 := true }
  | 0x36 => some { d := true, s1 := true, s2 := true }
  | 0x37 => some { d := true, s1 := true, s2 := true, s3 := true, modes := 6, lat := 3 }
  | 0x38 => some { d := true }
  | 0x39 => some { d := true, s1 := true, modes := 2, br := 1, lat := 4 }
  | 0x3A => some { d := true, s1 := true, modes := 4, br := 1, bw := 0, lat := 4 }
  | 0x3B => some { d := true, s1 := true, modes := 4, br := 0, lat := 5 }
  | 0x3C => some { d := true, br := 0 }
  | 0x3D => some { d := true, s1 := true, modes := 2, br := 1, lat := 3 }
  | _ => none

/-- Rows read by a BGATH (R134). -/
def bgathRows (imm : Nat) : Nat := if imm / 64 % 2 = 0 then 2 * (imm % 32) else imm % 32 + 1

/-- The latency of an instruction (R125, R134). -/
def latOf (w : W64) : Nat :=
  if opOf w = 0x38 then bgathRows (immOf w) + 4 else ((opRow (opOf w)).map (·.lat)).getD 1

/-- The issue interval of an instruction (R125, R134). -/
def issOf (w : W64) : Nat :=
  if opOf w = 0x38 then
    (if immOf w / 64 % 2 = 0 then 2 * (immOf w % 32) else 2 * ((immOf w % 32 + 2) / 2))
  else ((opRow (opOf w)).map (·.iss)).getD 1

/-- A specifier that names a bank row (R119). -/
def isBank (used : Bool) (v : Nat) : Bool := used && decide (32 ≤ v)

/-- The immediate values that are reserved or outside the range an instruction gives them (R125, R129,
R132, R134, R137; log entry 17). -/
def immOk (op imm : Nat) : Bool :=
  match op with
  | 0x03 => decide (imm / 4096 ≤ 4)
  | 0x1F => decide (imm % 8 ≤ 3)
  | 0x33 => decide (imm / 16384 % 2 = 0) || decide (1 ≤ imm / 32 % 32 ∧ imm / 32 % 32 ≤ 16)
  | 0x35 | 0x36 => decide (imm % 8 ≤ 5)
  | 0x38 => decide (1 ≤ imm % 32 ∧ imm % 32 ≤ 16 ∧ imm / 256 % 16 + 2 ≤ 15)
  | 0x3A | 0x3B => decide (imm / 4096 ≤ 10)
  | _ => true

/-- The field checks of R120: opcode, reserved fields and codes, mode, and the bank accesses the
instruction may make. -/
def wordOk (w : W64) : Bool :=
  match opRow (opOf w) with
  | none => false
  | some r =>
    decide (bits w 63 56 = 0)
    && r.modes.testBit (modeOf w)
    && (!r.scalar || decide (dOf w < 16 ∧ s1Of w < 16 ∧ s2Of w < 16 ∧ s3Of w = 0))
    && (r.scalar || (decide ((isBank r.s1 (s1Of w)).toNat + (isBank r.s2 (s2Of w)).toNat ≤ r.br)
      && decide ((isBank r.d (dOf w)).toNat ≤ r.bw)))
    && immOk (opOf w) (immOf w)

/-! ## Lanes (R110) -/

/-- The width in bits of one part of a vector in a mode: an INT8 lane, an INT16 lane or a CI16 part. -/
def partW (mode : Nat) : Nat := if mode = 0 then 8 else 16

/-- The parts of a vector in a mode, part 0 first: 512 of 8 bits or 256 of 16 bits. -/
def parts (mode : Nat) (v : Vec) : List Int :=
  (List.range (4096 / partW mode)).map fun i => (lane v (partW mode) i).toInt

/-- A vector from its parts, reduced modulo the part width. -/
def ofParts (mode : Nat) (l : List Int) : Vec :=
  ofLanes 4096 (l.map fun x => BitVec.ofInt (partW mode) x)

/-- Saturation of a list to the part width of a mode, and whether a value saturated (R122). -/
def satParts (mode : Nat) (l : List Int) : List Int × Bool :=
  let h : Int := 2 ^ (partW mode - 1)
  let r := l.map fun x => sat x (-h) (h - 1)
  (r, decide (r ≠ l))

/-- A vector from exact part values, saturated (R122). -/
def satVec (mode : Nat) (l : List Int) : Vec × Bool :=
  let r := satParts mode l
  (ofParts mode r.1, r.2)

/-- Pairs of neighbours: the parts of CI16 lanes. -/
def pairs {α : Type} : List α → List (α × α)
  | a :: b :: r => (a, b) :: pairs r
  | _ => []

/-- Pairs laid out as parts again. -/
def unpairs {α : Type} (l : List (α × α)) : List α := (l.map fun (a, b) => [a, b]).flatten

/-- Exact products in a mode, per part (R126): lane products, or complex products. -/
def products (mode : Nat) (a b : List Int) : List Int :=
  if mode = 2 then
    unpairs (List.zipWith (fun (x : Int × Int) (y : Int × Int) => (x.1 * y.1 - x.2 * y.2, x.1 * y.2 + x.2 * y.1)) (pairs a) (pairs b))
  else List.zipWith (· * ·) a b

/-- Exact products with the conjugate of the second operand (MACC). -/
def conjProducts (a b : List Int) : List Int :=
  unpairs (List.zipWith (fun (x : Int × Int) (y : Int × Int) => (x.1 * y.1 + x.2 * y.2, x.2 * y.1 - x.1 * y.2)) (pairs a) (pairs b))

/-! ## Accumulators: 256 lanes of 40 bits (R111) -/

/-- An accumulator register. In complex mode lane 2n is the real part of lane n and lane 2n + 1 its imaginary part. -/
abbrev Acc := BitVec 10240

/-- The 256 values of an accumulator. -/
def accLanes (a : Acc) : List Int := (List.range 256).map fun i => (lane a 40 i).toInt

/-- An accumulator from 256 values saturated to 40 bits, and whether one saturated (R122). -/
def satAcc (l : List Int) : Acc × Bool :=
  let r := l.map fun x => sat x (-(2 ^ 39)) (2 ^ 39 - 1)
  (ofLanes 10240 (r.map fun x => BitVec.ofInt 40 x), decide (r ≠ l))

/-! ## Headroom (R127, R128) -/

/-- nrs of a value of `b` bits: the bits below the sign bit that equal it. -/
def nrs (b : Nat) (v : Int) : Nat :=
  let m := (if v < 0 then -v - 1 else v).toNat
  b - 1 - (if m = 0 then 0 else m.log2 + 1)

/-- nrs of every lane: for CI16 the smaller of its parts'. -/
def laneNrs (mode : Nat) (v : Vec) : List Nat :=
  let p := (parts mode v).map (nrs (partW mode))
  if mode = 2 then (pairs p).map fun (a, b) => Nat.min a b else p

/-- One value per lane as parts: in complex mode written to both parts. -/
def lanesToParts (mode : Nat) (l : List Nat) : List Int :=
  let z : List Int := l.map Int.ofNat
  if mode = 2 then unpairs (z.map fun n => (n, n)) else z

/-- The least element of a list, `d` when it is empty. -/
def minNat (d : Nat) (l : List Nat) : Nat := l.foldl Nat.min d

/-! ## Results -/

/-- What an instruction writes besides its vector result. -/
structure EngOut where
  /-- the vector for D, and whether D is written at all -/
  vec : Option Vec := none
  /-- the vector for register S3 (backward MSSTEP) -/
  s3 : Option Vec := none
  acc : Option Acc := none
  /-- scalar register writes -/
  x : List (Nat × BitVec 32) := []
  lut : Option (BitVec 8192) := none
  /-- a saturation occurred (R123) -/
  sat : Bool := false
  deriving DecidableEq, Repr

/-- The operands an instruction captured: its vectors, accumulator, scalar registers and table. -/
structure EngIn where
  s1 : Vec := 0
  s2 : Vec := 0
  s3 : Vec := 0
  acc : Acc := 0
  xs : List (BitVec 32) := []
  lut : BitVec 8192 := 0
  rows : List Vec := []
  /-- the number of the free value drawn for this instruction (log entry 1) -/
  seed : Nat := 0
  deriving DecidableEq, Repr

/-- A scalar register's value. -/
def EngIn.x (i : EngIn) (n : Nat) : BitVec 32 := i.xs.getD n 0

/-- A scalar result, saturated to 32 bits (R122; log entry 18), and whether it saturated. -/
def sat32 (v : Int) : BitVec 32 × Bool :=
  let r := sat v (-(2 ^ 31)) (2 ^ 31 - 1)
  (BitVec.ofInt 32 r, decide (r ≠ v))

/-- XOP (R125). -/
def xop (f : Nat) (a b : BitVec 32) : BitVec 32 × Bool :=
  if f = 0 then sat32 (a.toInt + b.toInt)
  else if f = 1 then sat32 (a.toInt - b.toInt)
  else if f = 2 then (if a.toInt < b.toInt then a else b, false)
  else if f = 3 then (if a.toInt < b.toInt then b else a, false)
  else (a &&& b, false)

/-- ADD and SUB: saturating, or wrapping with IMM[15] (R122). -/
def addSub (mode imm : Nat) (l : List Int) : EngOut :=
  if imm / 32768 % 2 = 1 then { vec := some (ofParts mode l) }
  else let r := satVec mode l; { vec := some r.1, sat := r.2 }

/-- The shift P of MLA and MLS (R126). -/
def shiftP (i : EngIn) (imm : Nat) : Nat :=
  if imm / 32 % 2 = 1 then bits (i.x (imm / 64 % 16)) 4 0 else imm % 32

/-- MLA and MLS (R125, R126). -/
def mlaMls (neg : Bool) (i : EngIn) (mode sh imm : Nat) : EngOut :=
  let p := shiftP i imm
  let pr := products mode (parts mode i.s1) (parts mode i.s2)
  let r := satVec mode (List.zipWith (fun a b => floorShift a p + (if neg then -floorShift b sh else floorShift b sh)) (parts mode i.s3) pr)
  { vec := some r.1, sat := r.2 }

/-- MAC and MACC (R125, R126). -/
def macOut (i : EngIn) (pr : List Int) : EngOut :=
  let r := satAcc (List.zipWith (· + ·) (accLanes i.acc) pr)
  { acc := some r.1, sat := r.2 }

/-- CMP (R125). -/
def cmpRel (r : Nat) (a b : Int) : Bool :=
  if r = 0 then decide (a = b) else if r = 1 then decide (a ≠ b) else if r = 2 then decide (a < b) else decide (b ≤ a)

/-- SEL: lane by lane, in complex mode a lane is both parts (R110, R125). -/
def selOut (i : EngIn) (mode : Nat) : Vec :=
  if mode = 2 then
    ofLanes 4096 ((List.range 128).map fun n => if lane i.s3 32 n ≠ 0 then lane i.s1 32 n else lane i.s2 32 n)
  else
    ofParts mode (List.zipWith (fun c (p : Int × Int) => if c ≠ 0 then p.1 else p.2) (parts mode i.s3) (List.zip (parts mode i.s1) (parts mode i.s2)))

/-- BXD (R128): the group minima as lanes, and the new BXR. -/
def bxd (i : EngIn) (mode imm : Nat) : EngOut :=
  let g := if imm % 512 = 0 then 512 else imm % 512
  let l := laneNrs mode i.s1
  let mins := (runs g l).map fun r => (r, minNat 31 r)
  let all := minNat 31 l
  let old := (i.x 15).toNat
  let new := if imm / 32768 % 2 = 1 then all else Nat.min old all
  { vec := some (ofParts mode (lanesToParts mode ((mins.map fun (r, m) => r.map fun _ => m).flatten))),
    x := [(15, BitVec.ofNat 32 new)] }

/-- NORM (R127). -/
def norm (i : EngIn) (mode : Nat) : EngOut :=
  { vec := some (ofParts mode (List.zipWith (fun v (n : Int) => v * 2 ^ n.toNat) (parts mode i.s1) (lanesToParts mode (laneNrs mode i.s1)))) }

/-! ## The min-sum step (R129) -/

/-- One lane's min-sum state. -/
structure Mss where
  min1 : Nat
  min2 : Nat
  idx : Nat
  sgn : Bool
  deriving DecidableEq, Repr

/-- The state of lane `i`: MIN1 [6:0], MIN2 [13:7], IDX [18:14], SGN [19] (R111). -/
def mssGet (m : BitVec 10240) (i : Nat) : Mss :=
  let l := lane m 20 i
  ⟨bits l 6 0, bits l 13 7, bits l 18 14, bit l 19⟩

/-- A lane's state as its 20 bits. -/
def Mss.pack (m : Mss) : BitVec 20 :=
  BitVec.ofNat 20 (m.min1 + 2 ^ 7 * m.min2 + 2 ^ 14 * m.idx + 2 ^ 19 * m.sgn.toNat)

/-- The forward update of one lane: the new state and q. -/
def mssForward (reset : Bool) (c : Nat) (s : Mss) (l r : Int) : Mss × Int :=
  let s : Mss := if reset then ⟨127, 127, 31, false⟩ else s
  let q := sat (l - r) (-127) 127
  let m := q.natAbs
  let s := if m < s.min1 then { s with min2 := s.min1, min1 := m, idx := c }
    else if m < s.min2 then { s with min2 := m } else s
  (if q < 0 then { s with sgn := !s.sgn } else s, q)

/-- The backward step of one lane: the new APP LLR and the new message. -/
def mssBackward (c alpha beta : Nat) (s : Mss) (q : Int) : Int × Int :=
  let mag : Int := if c = s.idx then s.min2 else s.min1
  let mag := mag * alpha / 16 - beta
  let mag := if mag < 0 then 0 else mag
  let r := if s.sgn ^^ decide (q < 0) then -mag else mag
  (sat (q + r) (-127) 127, r)

/-- MSSTEP (R129, R130): the output and the new min-sum state. -/
def msstep (i : EngIn) (imm : Nat) (st : BitVec 10240) : EngOut × BitVec 10240 :=
  let c := imm % 32
  let ss := (List.range 512).map (mssGet st)
  if imm / 16384 % 2 = 0 then
    let r := List.zipWith (fun s (p : Int × Int) => mssForward (decide (imm / 8192 % 2 = 1)) c s p.1 p.2) ss (List.zip (parts 0 i.s1) (parts 0 i.s2))
    ({ vec := some (ofParts 0 (r.map (·.2))) }, ofLanes 10240 (r.map fun p => p.1.pack))
  else
    let r := List.zipWith (mssBackward c (imm / 32 % 32) (imm / 1024 % 8)) ss (parts 0 i.s1)
    ({ vec := some (ofParts 0 (r.map (·.1))), s3 := some (ofParts 0 (r.map (·.2))) }, st)

/-! ## Permutes and gathers (R131-R134) -/

/-- ROTZ (R131). For a Z outside its range, or a k that is not less than Z, the spec gives no result: a free value. -/
def rotz (i : EngIn) (mode imm : Nat) : Vec :=
  let z := bits (i.x 14) 9 0
  let k := imm % 512
  let n := 4096 / partW mode
  let src := if mode = 0 then parts 0 i.s1 ++ parts 0 i.s2 else parts 1 i.s1
  if 1 ≤ z ∧ z ≤ n ∧ k < z then
    ofParts mode ((List.range n).map fun l => if l < z then src.getD ((l + k) % z) 0 else 0)
  else Config.freeBits 4096 i.seed

/-- The bytes of a vector. -/
def vecBytes (v : Vec) : Bytes := toBytes v 512

/-- A vector from bytes, missing ones 0. -/
def vecOf (b : Bytes) : Vec := ofBytes 4096 (b.take 512)

/-- ZIP (R132). -/
def zip (i : EngIn) (imm : Nat) : Vec :=
  let u := 2 ^ (imm % 8)
  let l := (List.zipWith (fun a b => a ++ b) (runs u (vecBytes i.s1)) (runs u (vecBytes i.s2))).flatten
  vecOf (if imm / 8 % 2 = 0 then l.take 512 else l.drop 512)

/-- UNZIP (R132). -/
def unzip (i : EngIn) (imm : Nat) : Vec :=
  let u := 2 ^ (imm % 8)
  let us := runs u (vecBytes i.s1 ++ vecBytes i.s2)
  vecOf (((pairs us).map fun (a, b) => if imm / 8 % 2 = 0 then a else b).flatten)

/-- PERM (R133): the index is the S3 lane as an unsigned 16-bit value; in complex mode that of its low half. -/
def perm (i : EngIn) (mode : Nat) : Vec :=
  let w := if mode = 2 then 32 else 16
  let n := 4096 / w
  let src := ((List.range n).map fun k => lane i.s1 w k) ++ ((List.range n).map fun k => lane i.s2 w k)
  ofLanes 4096 ((List.range n).map fun k => src.getD (bits (lane i.s3 w k) 15 0 % (2 * n)) 0)

/-- The source position of output element `n` of a BGATH (R134). -/
def bgathPos (b s cnt : Int) (imm n : Nat) : Int :=
  let r : Int := ((imm % 32 : Nat) : Int)
  if imm / 64 % 2 = 0 then b + (cnt + n) % r * s + (cnt + n) / r else b + (cnt + n) * r

/-- Elements of one row: bits or bytes (R134). -/
def bgathT (imm : Nat) : Nat := if imm / 32 % 2 = 0 then 4096 else 512

/-- The bank rows a BGATH reads, in order (R134). A row gather reads two rows from the first element of each
segment; a strided gather R + 1 rows from its first element. -/
def bgathReads (b s cnt : Int) (imm : Nat) : List Int :=
  let t : Int := bgathT imm
  let r := imm % 32
  if imm / 64 % 2 = 0 then
    ((List.range r).map fun (seg : Nat) =>
      -- the first output element that takes its source from this segment
      let n : Int := (Int.ofNat seg - cnt) % (r : Int)
      let first : Int := b + seg * s + (cnt + n) / (r : Int)
      [first / t, first / t + 1]).flatten
  else
    (List.range (r + 1)).map fun (k : Nat) => (b + cnt * (r : Int)) / t + (k : Int)

/-- The row of a BGATH: each element taken from the rows read; a source row not among them gives 0. -/
def bgath (i : EngIn) (imm : Nat) (rowNos : List Int) (b s cnt : Int) : EngOut :=
  let t := bgathT imm
  let tab := List.zip rowNos i.rows
  let src (n : Nat) : Nat :=
    let p := bgathPos b s cnt imm n
    match tab.find? (fun e => decide (e.1 = p / t)) with
    | none => 0
    | some e =>
      let k := (p % t).toNat
      if t = 4096 then (bit e.2 k).toNat else (lane e.2 8 k).toNat
  let vec : Vec :=
    if t = 4096 then ofLanes 4096 ((List.range 4096).map fun n => BitVec.ofNat 1 (src n))
    else ofLanes 4096 ((List.range 512).map fun n => BitVec.ofNat 8 (src n))
  let xn := imm / 256 % 16 + 2
  let nx := sat32 (cnt + t)
  { vec := some vec, x := [(xn, nx.1)], sat := nx.2 }

/-! ## Tables and conversion (R135, R136) -/

/-- LUTI (R135): VALUE [15:0] and SLOPE [31:16] of the entry. -/
def luti (i : EngIn) : EngOut :=
  let l := (List.range 256).map fun n =>
    let x := (lane i.s1 16 n).toNat
    let e := lane i.lut 32 (x / 256)
    sbits e 15 0 + floorShift (sbits e 31 16 * (x % 256 : Nat)) 8
  let r := satVec 1 l
  { vec := some r.1, sat := r.2 }

/-- BF16 to INT16: sat(floor(v * 2^P)), NaN gives 0 with SAT (R136, R103). -/
def cvtToInt (p : Int) (c : Nat) : Int × Bool :=
  match encBF16.decode c with
  | .nan => (0, true)
  | .inf n => (if n then -32768 else 32767, true)
  | .fin n m e =>
    let k := e + p
    let y : Int := if n then -(m : Int) else m
    let q := if 0 ≤ k then y * 2 ^ k.toNat else floorShift y (-k).toNat
    let z := sat q (-32768) 32767
    (z, decide (z ≠ q))

/-- CVT (R136). -/
def cvt (i : EngIn) (imm : Nat) : EngOut :=
  let p := sInt 6 (imm / 256 % 64)
  if imm % 2 = 0 then
    let r := (List.range 256).map fun n => cvtToInt p (lane i.s1 16 n).toNat
    { vec := some (ofParts 1 (r.map (·.1))), sat := r.any (·.2) }
  else
    let r := (parts 1 i.s1).map fun v => (encBF16.convert (decide (v < 0)) v.natAbs (-p))
    { vec := some (ofLanes 4096 (r.map fun c => BitVec.ofNat 16 c.1)), sat := r.any (·.2) }

/-! ## BFP packing (R137-R139) -/

/-- The width and the PRB count of BFPD and BFPC (R137). -/
def bfpW (i : EngIn) (imm : Nat) : Nat :=
  let w := if imm / 16 % 2 = 1 then bits (i.x (imm / 256 % 16)) 3 0 else imm % 16
  if w = 0 then 16 else w

/-- The PRB count of BFPD and BFPC (R137). -/
def bfpP (imm : Nat) : Nat := if imm / 4096 = 0 then 10 else imm / 4096

/-- The lanes BFPD writes from `p` PRBs (R137, R138). -/
def bfpdOut (w p : Nat) (b : Bytes) : EngOut :=
  let prbs := (List.range p).map fun k => bfpDecode w (slice b (k * (1 + 3 * w)) (1 + 3 * w))
  let vals := (prbs.map (·.1)).flatten
  { vec := some (ofParts 1 (vals ++ List.replicate (256 - vals.length) 0)), sat := prbs.any (·.2) }

/-- The bytes BFPC appends to the pack stage (R139). -/
def bfpcBytes (w p : Nat) (s1 : Vec) : Bytes :=
  ((List.range p).map fun k => bfpEncode w (((parts 1 s1).drop (24 * k)).take 24)).flatten

/-- The result of an instruction from its captured operands, for every opcode that does not use the
min-sum state, the stages or a gather (R125). -/
def engCompute (w : W64) (i : EngIn) : EngOut :=
  let mode := modeOf w
  let imm := immOf w
  let sh := shOf w
  let p1 := parts mode i.s1
  let p2 := parts mode i.s2
  match opOf w with
  | 0x01 => { x := [(dOf w, (i.x (dOf w) &&& 0xFFFF0000#32) ||| BitVec.ofNat 32 imm)] }
  | 0x02 => { x := [(dOf w, (i.x (dOf w) &&& 0x0000FFFF#32) ||| (BitVec.ofNat 32 imm <<< 16))] }
  | 0x03 =>
    let a := i.x (s1Of w)
    let b := (BitVec.ofNat 12 imm).signExtend 32
    let r := xop (imm / 4096) a b
    { x := [(dOf w, r.1)], sat := r.2 }
  | 0x05 => { acc := some 0 }
  | 0x06 => { lut := some (BitVec.ofNat 8192 (i.s1.toNat + 2 ^ 4096 * i.s2.toNat)) }
  | 0x10 => addSub mode imm (List.zipWith (· + ·) p1 p2)
  | 0x11 => addSub mode imm (List.zipWith (· - ·) p1 p2)
  | 0x12 => let r := satVec mode ((products mode p1 p2).map fun x => floorShift x sh); { vec := some r.1, sat := r.2 }
  | 0x13 => mlaMls false i mode sh imm
  | 0x14 => mlaMls true i mode sh imm
  | 0x15 => macOut i (products mode p1 p2)
  | 0x16 => macOut i (conjProducts p1 p2)
  | 0x17 =>
    let r := satVec mode ((accLanes i.acc).map fun x => floorShift x sh)
    { vec := some r.1, sat := r.2, acc := if imm % 2 = 1 then some 0 else none }
  | 0x18 => { vec := some (ofParts mode (List.zipWith (fun a b => if a < b then a else b) p1 p2)) }
  | 0x19 => { vec := some (ofParts mode (List.zipWith (fun a b => if a < b then b else a) p1 p2)) }
  | 0x1A => let r := satVec mode (p1.map fun x => (x.natAbs : Int)); { vec := some r.1, sat := r.2 }
  | 0x1B => { vec := some (ofParts mode (p1.map fun x => floorShift x (imm % 16))) }
  | 0x1C => { vec := some (i.s1 &&& i.s2) }
  | 0x1D => { vec := some (i.s1 ||| i.s2) }
  | 0x1E => { vec := some (i.s1 ^^^ i.s2) }
  | 0x1F => { vec := some (ofParts mode (List.zipWith (fun a b => if cmpRel (imm % 8) a b then -1 else 0) p1 p2)) }
  | 0x20 => { vec := some (selOut i mode) }
  | 0x30 => bxd i mode imm
  | 0x31 => norm i mode
  | 0x32 => { vec := some (ofParts mode (lanesToParts mode (laneNrs mode i.s1))) }
  | 0x34 => { vec := some (rotz i mode imm) }
  | 0x35 => { vec := some (zip i imm) }
  | 0x36 => { vec := some (unzip i imm) }
  | 0x37 => { vec := some (perm i mode) }
  | 0x39 => luti i
  | 0x3D => cvt i imm
  | _ => {}

end Sys2Proof.Machine
end

