-- ==== Sys2Proof/Machine/TileState.lean ====
section
/-!
DEFINITION. The state of a tile: its Signal Engine, array, compare unit and task contexts (R60-R88,
R110-R143, R149, R170-R176, R206-R212), the pad of a physical tile (R144-R160, R177-R184), and a schedule
image (R214-R221, R243) as its sections' raw entries.
-/
namespace Sys2Proof.Machine

/-- A schedule image after its sections are located (R215): raw entries, first entry first. -/
structure Image where
  tenant : Bool := false
  ordered : Bool := false
  length : Nat := 0
  hash : Bytes := []
  recs : List Bytes := []
  ops : List W64 := []
  eng : List W64 := []
  passes : List Bytes := []
  padops : List Bytes := []
  sends : List Bytes := []
  memxs : List Bytes := []
  wins : List Bytes := []
  flows : List Bytes := []
  kernels : List Bytes := []
  /-- byte offset of the pass section from byte 0 of the image (DESC_PTR, R215) -/
  passOff : Nat := 0
  deriving DecidableEq, Repr

/-- A DRAM window (R250, R251), in units of 327,680 bytes. -/
structure DWin where
  base : Nat := 0
  bound : Nat := 0
  valid : Bool := false
  deriving DecidableEq, Repr

/-- Where a task's image is kept: the committed image of a slice, or the epoch's. -/
inductive ImgOf where
  | slice (n : Fin 64) | epoch
  deriving DecidableEq, Repr

/-- A task in a context (R149, R206-R212, R216, R217, R472). -/
structure TaskCtx where
  radio : Bool
  img : ImgOf
  /-- its dispatch record's index -/
  recIdx : Nat
  /-- its owner tag (R153) -/
  owner : Nat
  base : Nat
  bound : Nat
  srow : Nat
  win0 : DWin := {}
  win1 : DWin := {}
  /-- a radio task's window: opening cycle V and V + L (R199) -/
  opens : W64 := 0
  closes : W64 := 0
  seqFirst : Nat := 0
  seqCount : Nat := 0
  /-- index of the next operation within the task, and the issue cycle of the previous one or the task start -/
  pc : Nat := 0
  last : W64 := 0
  started : W64 := 0
  kernel : BitVec 32 := 0
  sat : Bool := false
  nan : Bool := false
  poison : Bool := false
  /-- CODE of its end (R476), and the cycle it ended in -/
  ended : Option Nat := none
  endedAt : W64 := 0
  dropped : Bool := false
  /-- the last cycle of effect of its operations so far -/
  lastEffect : W64 := 0
  /-- the fence it waits at (R385): 0 L, 1 C, 2 G; 3: its context is held for a barrier (R401) -/
  fence : Option Nat := none
  /-- the task timer (R472): cycles the next operation was held on the task's own earlier work -/
  timer : Nat := 0
  timeout : Nat := 0
  /-- the kernel record of the last KBND (R211), and hashes of the passes of the kernel in force by TAG (R405) -/
  hashes : List W64 := []
  passHashes : List (BitVec 16 × W64) := []
  /-- non-poisoned passes of the kernel in force (R405) -/
  passCount : Nat := 0
  /-- it has a poisoned engine result (R142, R143) -/
  engPoison : Bool := false
  /-- its run-list entry -/
  entry : Option (BitVec 32) := none
  /-- its next operation is held and counted (R206) -/
  opHeld : Bool := false
  /-- the next operation issues no earlier than this cycle: the one after a fence's condition held (R385) -/
  notBefore : W64 := 0
  /-- the last cycle in which it had not ended or had an operation under way, and whether that held after it (R212) -/
  busyAt : W64 := 0
  live : Bool := true
  /-- its window failed: its outputs are erasures (R59) -/
  failed : Bool := false
  /-- the reason of the last CREDIT_NACK that a transaction of it completed with (R167) -/
  nacked : Option Nat := none
  deriving DecidableEq, Repr

/-- A pass handed to a partition's pending slot (R209). -/
structure PendPass where
  part : Fin 7
  ctx : CtxNo
  radio : Bool
  idx : Nat
  /-- the start, K_c and last drain cycle of the pass when nothing holds it (R201) -/
  plan : W64
  kc : Nat
  planLast : W64
  /-- the earliest cycle, c + 2 (R209) -/
  earliest : W64
  /-- it was held in the cycle it could have started in, and the hold is counted (R206) -/
  held : Bool := false
  deriving DecidableEq, Repr

/-- A running or frozen pass (R60-R86). -/
structure Pass where
  part : Fin 7
  ctx : CtxNo
  owner : Nat
  radio : Bool
  desc : Bytes
  descPtr : Nat
  start : W64
  kc : Nat
  /-- the pass cycle it is in: pass cycles completed so far (R80) -/
  cyc : Nat := 0
  frozen : Bool := false
  poison : Bool := false
  /-- operand bytes of the depth cycles read so far, depth cycle 0 first: (A, B) -/
  opnds : List (Bytes × Bytes) := []
  /-- scale bytes of the groups of 32 depth steps read so far (R94): (A, B) -/
  scales : List (Bytes × Bytes) := []
  /-- pass cycle of the last freeze it was restored from, and the raw accumulator rows loaded then (R82) -/
  base : Nat := 0
  rows : List Vec := []
  /-- its accumulated flags over the rows drained so far (R106) -/
  sat : Bool := false
  nan : Bool := false
  /-- the flags of the depth steps before the last freeze, of each output row (R101, R106) -/
  events : List (Bool × Bool) := []
  deriving DecidableEq, Repr

/-- What a partition's previous pass was (R70, R71, R78): its start, depth, context, owner and last drain cycle. A freeze
moves the start and the last drain cycle by the cycles that it cost (R83). -/
structure LastPass where
  start : W64
  kc : Nat
  ctx : CtxNo
  owner : Nat
  lastDrain : W64
  deriving DecidableEq, Repr

/-- A save, or the restore after it (R80-R82). -/
structure Freeze where
  /-- the cycle of its raw row 0: V - 160, or a suspend's X (R335) -/
  start : W64
  /-- V + L of the span, where a window caused the freeze -/
  closes : Option W64
  /-- raw rows still to be written (row 0 first), and whether the pass-state record is -/
  rows : List Vec := []
  recordDue : Bool := true
  /-- the cycle of restore row 0, and the rows read back so far -/
  restore : Option W64 := none
  loaded : List Vec := []
  deriving DecidableEq, Repr

/-- The array of a tile. -/
structure MArray where
  pend : List PendPass := []
  run : List Pass := []
  /-- the previous pass of each partition: radio's at the partition's number, the tenant's at 8 + it -/
  last : Tab LastPass := []
  freeze : Option Freeze := none
  /-- parity errors of each quarter: (interval, count) (R86) -/
  parity : Tab (Nat × Nat) := []
  deriving DecidableEq, Repr

/-- An engine instruction in flight (R113, R115): its bank reads still to come and its captured operands. -/
structure Flight where
  ctx : CtxNo
  owner : Nat
  radio : Bool
  word : W64
  index : Nat
  /-- the cycle of its result writes, c + L - 1 -/
  due : W64
  /-- bank rows to read: (cycle, operand 1, 2 or gather 0, pad offset) -/
  reads : List (W64 × Nat × Nat) := []
  ins : EngIn := {}
  /-- the pad offset of its destination row, where D names the bank -/
  bankD : Option Nat := none
  /-- a poisoned operand (R142) -/
  poison : Bool := false
  /-- gather parameters: rows in order, B, S and N at issue (R134) -/
  gRows : List Int := []
  gB : Int := 0
  gS : Int := 0
  gN : Int := 0
  /-- the min-sum state and the stage of the packing instruction as they stood at issue (R115) -/
  mss : BitVec 10240 := 0
  stage : Bytes := []
  deriving DecidableEq, Repr

/-- A block of engine instructions of a task (R209), unrolled (R126): instructions still to issue with their index in
the task's engine program, and whether they belong to a repeated block. -/
structure SgeBlock where
  ctx : CtxNo
  radio : Bool
  todo : List (Nat × W64 × Bool)
  earliest : W64
  held : Bool := false
  deriving DecidableEq, Repr

/-- The Signal Engine (R111). -/
structure Engine where
  v : Vector Vec 32 := Vector.replicate 32 0
  acc : Vector Acc 4 := Vector.replicate 4 0
  x : Vector (BitVec 32) 16 := (Vector.replicate 16 0).set 15 15
  mss : BitVec 10240 := 0
  lut : BitVec 8192 := 0
  unpack : Bytes := []
  pack : Bytes := []
  /-- the contexts whose tasks wrote the table and the stages: every task finds them empty at its start (R135, R139) -/
  lutOf : Option CtxNo := none
  unpackOf : Option CtxNo := none
  packOf : Option CtxNo := none
  /-- blocks that have started: at most one of radio, one of the tenant -/
  blocks : List SgeBlock := []
  /-- blocks in the pending slots (R209) -/
  pend : List SgeBlock := []
  flight : List Flight := []
  /-- the earliest issue cycle that R116 allows -/
  next : W64 := 0
  /-- the owner tag of the last engine task (R140), if there was one, and the context of the last instruction issued -/
  owner : Option Nat := none
  cur : Option CtxNo := none
  deriving DecidableEq, Repr

/-- A pad operation of a task (R170-R176). -/
structure PadOp where
  ctx : CtxNo
  owner : Nat
  radio : Bool
  desc : Bytes
  earliest : W64
  held : Bool := false
  /-- elements done, cycles done, elements that passed -/
  n : Nat := 0
  cyc : Nat := 0
  count : Nat := 0
  deriving DecidableEq, Repr

/-- The compare unit: the operation that runs, and those in the pending slots (R170, R209). -/
structure CompareUnit where
  run : Option PadOp := none
  pend : List PadOp := []
  deriving DecidableEq, Repr

/-- An effect that an operation has in the cycle after its issue (R209). -/
inductive Later where
  | cret (zone : Fin 16) (n : Nat)
  | flags (ctx : CtxNo) (padRow : Nat)
  deriving DecidableEq, Repr

/-- A logical tile. -/
structure Tile where
  eng : Engine := {}
  arr : MArray := {}
  cmp : CompareUnit := {}
  ctx : Vector (Option TaskCtx) 8 := Vector.replicate 8 none
  /-- the tenant context last served (R206) -/
  rr : Nat := 7
  /-- tenant contexts of the tile are not eligible for dispatch (R330, R337, R473) -/
  ineligible : Bool := false
  /-- tenant work on the tile is suspended for a swap (R428) -/
  swapHold : Bool := false
  /-- unit counters of each context and zone (R221), keyed 16 * context + zone -/
  units : Tab Nat := []
  /-- pad allocations (start, size) in 64 KiB units of the slices, and of the tenant epoch (R330, R460) -/
  alloc : Tab (Nat × Nat) := []
  tenAlloc : Option (Nat × Nat) := none
  /-- kernels of the resident set, most recent last (R331) -/
  resident : List (BitVec 32) := []
  /-- consecutive refused periods of each (slice, window): keyed 65536 * slice + window (R467) -/
  refused : Tab Nat := []
  /-- effects due in the next cycle (R209, R210): a credit return of a zone, or a status row of a context -/
  later : List (W64 × Later) := []
  /-- one operation issued already in this cycle (R206) -/
  issued : Bool := false
  deriving DecidableEq, Repr

/-- A pad row of a physical tile (R144): the 66 symbols of its codeword as stored, symbol b at bits 8b, and its metadata field. -/
structure PadRow where
  code : BitVec 528 := 0
  /-- the owner tag and the poison bit as they were written -/
  tag : Nat := 0x7F
  poison : Bool := false
  /-- the bits of the 13-bit metadata field, tag, poison and check bits, that have changed since (R144, R177; log entry 175) -/
  flips : BitVec 13 := 0
  /-- corrected patrol visits in a row (R180) -/
  ce : Nat := 0
  deriving DecidableEq, Repr

/-- A write to a pad row that takes effect at the end of the cycle (R117, R157): its rank among the writes of
that cycle, the writer's tag, the bytes and which of them it supplies. -/
structure PadWrite where
  row : Nat
  rank : Nat
  tag : Nat
  data : Row
  mask : BitVec 64
  poison : Bool := false
  deriving DecidableEq, Repr

/-- The standing of a physical tile (R18-R20, R426, R484). -/
inductive PStat where
  | service | spare
  /-- left service by a swap: which of SELFTEST kinds 1 and 2 passed since -/
  | left (bist march : Bool)
  | failed
  deriving DecidableEq, Repr

/-- The pad of a physical tile. -/
structure Pad where
  /-- its rows by number: the addressable ones in ascending pad offset, then the 32 spares of each bank at 196,608 + 32 b + s (R144) -/
  rows : Tab PadRow := []
  /-- writes of the current cycle -/
  writes : List PadWrite := []
  /-- the repair map: the rows regrown, in order; the n-th of a bank went to its spare n (R181, R184) -/
  repair : List Nat := []
  /-- rows awaiting a regrow (R180) -/
  failing : List Nat := []
  /-- the sweep in progress: its tag and first cycle (R160) -/
  sweep : Option (Nat × W64) := none
  held : List Nat := []
  lastSweep : Nat := 0
  /-- the cycle after the last sweep's completion, when the first held one starts (R161) -/
  sweepFree : W64 := 0
  /-- the patrol's next row and the cycle of its last visit (R179) -/
  patrol : Nat := 0
  patrolAt : Option W64 := none
  /-- the regrow in progress: the row, its first cycle, and what its spare will receive (R181) -/
  regrow : Option (Nat × W64 × PadRow) := none
  stat : PStat := .service
  deriving DecidableEq, Repr

end Sys2Proof.Machine
end

