-- ==== Sys2Proof/Machine/MeshState.lean ====
section
/-!
DEFINITION. The state of the mesh and the die-to-die links (R189-R198, R207, R474) and of the external
memory (R226-R263).
-/
namespace Sys2Proof.Machine

/-- One flow of the slot table (R191-R193): its source and destination coded as in R219, its rate and phases. -/
structure FlowSlot where
  flow : FlowId
  src : Nat
  dest : Nat
  rate : Nat
  phases : List Nat
  deriving DecidableEq, Repr

/-- A landing write on its way (R165). -/
structure LandW where
  tile : LTile
  zone : Nat
  unit : BitVec 32
  mask : BitVec 4
  owner : BitVec 7
  src : BitVec 7
  data : BitVec 2048
  /-- a row of it was read poisoned -/
  poison : BitVec 4 := 0
  /-- the class it travels on (R167) -/
  tenant : Bool := false
  /-- the sending context, told of a NACK (R167) -/
  sender : Option (LTile × CtxNo) := none
  deriving DecidableEq, Repr

/-- What a flit carries. -/
inductive Payload where
  | landing (w : List LandW)
  /-- a NACK with a reason to the context that sent (R167) -/
  | nack (src : Nat) (sender : Option (LTile × CtxNo)) (reason : Nat)
  /-- the units of a zone read for its source (R169): rows, poisoned -/
  | zoneData (src : Nat) (tile : LTile) (zone : Fin 16) (unit : BitVec 32) (rows : List (Row × Bool))
  /-- a grant carrying LIMIT to a source (R163) -/
  | grant (src : Nat) (tile : LTile) (zone : Fin 16) (limit : BitVec 32)
  /-- lines of a MEMX read for the pad: (pad offset, data, poisoned) (R246, R249) -/
  | lines (memx : Nat) (tile : LTile) (owner : Nat) (ls : List (Nat × Row × Bool))
  /-- lines of a MEMX write for a rim die: (index, data, poisoned) (R247) -/
  | memxW (memx : Nat) (ls : List (Nat × Row × Bool))
  /-- units for a rim die's egress builder (R303) -/
  | egress (rim : Fin 4) (tile : LTile) (owner : Nat) (zone : Nat) (unit : Nat) (data : List (BitVec 2048))
  /-- units for the control cluster (R463) -/
  | control (tile : LTile) (owner : Nat) (zone : Nat) (unit : Nat) (data : List (BitVec 2048))
  /-- a completion record (R212): the task's flags SAT, NAN, POISON, kernel and CODE -/
  | done (tile : LTile) (owner : Nat) (entry : Option (BitVec 32)) (recIdx : Nat) (flags : Nat) (kernel : BitVec 32) (code : Nat) (started ended : W64)
  /-- an event posted to the owning Fenen core (R209), with its task's context and flags -/
  | post (tile : LTile) (ctx : CtxNo) (owner : Nat) (entry : Option (BitVec 32)) (recIdx : Nat) (kernel : BitVec 32) (code : BitVec 16) (flags : Nat)
  deriving DecidableEq, Repr

/-- A flit in flight: the cycle of its landing, and its deadline if it has one (R197). -/
structure Flit where
  id : Nat
  due : W64
  deadline : Option W64 := none
  payload : Payload
  /-- the rim die whose link it crosses, and the cycle in which that link sends it (R196) -/
  cross : Option (Fin 4 × W64) := none
  /-- the context whose operation sent it (R212) -/
  sender : Option (LTile × CtxNo) := none
  /-- the start of a tenant flit's leg (R469) -/
  start : W64 := 0
  deriving DecidableEq, Repr

/-- A radio frame that a rim die has handed to its link towards the mesh (R196, R197): its flow, and for a record its zone;
the cycle in which it is injected when nothing is replayed, and the one in which the link sends it. -/
structure Crossing where
  rim : Fin 4
  flow : FlowId
  zone : Option (LTile × Fin 16) := none
  tile : LTile
  nominal : W64
  sent : W64
  payload : Payload
  deriving DecidableEq, Repr

/-- What a radio window has put somewhere in the present memory frame (R59): a row of a pad, a line of the memory, or units in
the ring of a rim die's egress builder. -/
inductive Put where
  | row (tile : LTile) (row : Nat)
  | line (n : Nat)
  | ring (rim : Fin 4) (key : Nat) (at_ : W64)
  deriving DecidableEq, Repr

/-- An output of a radio window: the tile that sent it and the window's V + L. -/
structure Output where
  tile : LTile
  closes : W64
  what : Put
  deriving DecidableEq, Repr

/-- Units of a radio SEND, or flits of a radio MEMX leg, waiting for owned phases (R194, R246, R247). -/
structure RadioQ where
  flow : FlowId
  tile : LTile
  ctx : CtxNo
  owner : Nat
  dest : Nat
  zone : Nat
  /-- U of the next unit, the physical pad offset it is read from, and units left -/
  unit : BitVec 32
  addr : Nat
  left : Nat
  /-- the first cycle it may inject in -/
  earliest : W64
  /-- a leg's transfer and the index of its next flit -/
  memx : Option (Nat × Nat) := none
  deriving DecidableEq, Repr

/-- A tenant-class transfer of up to eight flits (R207). -/
structure Xfer where
  id : Nat
  tile : LTile
  ctx : CtxNo
  owner : Nat
  /-- destination coded as in R219 -/
  dest : Nat
  zone : Nat
  unit : BitVec 32
  addr : Nat
  left : Nat
  issued : W64
  /-- the cycle that its 1,536 cycles count from: its issue, or the last cycle in which it lacked credit (R207) -/
  base : W64 := 0
  /-- the cycle in which its next flit may leave, and whether something held it there (R207) -/
  next : W64 := 0
  held : Bool := false
  /-- lines of a reply for the pad instead of units of a pad -/
  lines : List (Nat × Row × Bool) := []
  memx : Option Nat := none
  /-- the rim die that a reply comes from (R228) -/
  rim : Option (Fin 4) := none
  /-- the transfer was completed with TIMEOUT (R474) -/
  dead : Bool := false
  deriving DecidableEq, Repr

/-- One direction of a link after a replay (R196): the frames handed over before `upto` go out again, 64 cycles late, and the
last of them in `tail`. -/
structure Resend where
  upto : W64 := 0
  tail : W64 := 0
  deriving DecidableEq, Repr

/-- A link's state (R196, R474). -/
structure LinkState where
  /-- replays of the present frame, and the cycle of the last one -/
  replays : Nat := 0
  replayAt : W64 := 0
  /-- towards the mesh, and from it -/
  into : Resend := {}
  from_ : Resend := {}
  /-- the retrain ends in this cycle -/
  retrain : Option W64 := none
  /-- link errors of an interval: (interval, count) (R468) -/
  errors : Nat × Nat := (0, 0)
  deriving DecidableEq, Repr

/-- The mesh, its queues and the die-to-die links. -/
structure Mesh where
  slots : List FlowSlot := []
  radioQ : List RadioQ := []
  xfers : List Xfer := []
  flits : List Flit := []
  /-- the next number of a transfer, flit or memory request -/
  nextId : Nat := 0
  /-- die-to-die links that are not as at reset, keyed 72 * rim + stop -/
  links : Tab LinkState := []
  /-- the last LIMIT that each source has received of a zone, keyed 1024 * source + 16 * tile + zone, the source coded as in
  R219 (R164) -/
  grants : Tab Nat := []
  /-- radio frames on a link towards the mesh, first handed over first -/
  crossings : List Crossing := []
  /-- the cycle after a flow's last injection (R194) -/
  flowFree : List (FlowId × W64) := []
  /-- cycles of links and ports that tenant flits have taken (R16, R146) -/
  taken : List (Nat × W64) := []
  /-- the slot tables and tile maps that pending commits bring, in the order of their instants (R192, R195) -/
  soon : List (W64 × List FlowSlot × Vector PTile 64) := []
  /-- what radio windows put somewhere in the present memory frame (R59) -/
  outputs : List Output := []
  deriving DecidableEq, Repr

/-! ## External memory -/

/-- What a line operation answers to: line `i` of a MEMX transfer or of a gather half's present row. The fabric agent, the
host and a seal move their lines in the slots of the cycle of their own commands (log entry 23). -/
inductive ReplyTo where
  | memx (id : Nat) (i : Nat)
  | gather (half : Fin 2) (i : Nat)
  deriving DecidableEq, Repr

/-- A line operation waiting for, or accepted by, a channel (R252-R255). -/
structure LineReq where
  id : Nat
  src : MemSource
  line : Nat
  op : LineOp
  dest : ReplyTo
  issued : W64
  /-- an accumulate-write's sum and poison after its read, and the start of the group of that read (R254, R258) -/
  second : Option (Row × Bool × W64) := none
  deriving DecidableEq, Repr

/-- A MEMX transfer in progress (R243-R249). -/
structure MemX where
  id : Nat
  tile : LTile
  ctx : CtxNo
  owner : Nat
  radio : Bool
  op : Fin 4
  /-- device address of line 0, physical pad offset of line 0, lines in all -/
  addr : Nat
  pad : Nat
  lines : Nat
  /-- lines that have had their last effect -/
  done : Nat := 0
  /-- radio: group start s, first slot and lines per channel, rate and per-leg flits injected -/
  s : W64 := 0
  slot0 : Nat := 0
  m : Nat := 0
  mrate : Nat := 0
  idx : Nat := 0
  /-- lines held by the rim dies: index to (data, poisoned) -/
  buf : Tab (Row × Bool) := []
  issued : W64 := 0
  /-- its task was dropped: its completion is discarded (R475) -/
  dead : Bool := false
  deriving DecidableEq, Repr

/-- A check-line cache entry (R235): a pair and its valid bit for each of 32 data lines. -/
structure ChkEntry where
  pairs : BitVec 512 := 0
  valid : BitVec 32 := 0
  dirty : Bool := true
  /-- one of the entries reserved for radio writes, and the cycle in which it last became dirty (R237) -/
  radio : Bool := false
  made : W64 := 0
  deriving DecidableEq, Repr

/-- A running row repair of a channel (R260): the row and the spare row that will serve it. -/
structure RowRepair where
  row : Nat
  spare : Nat
  /-- copy slots done: reads 0-31, writes 32-63; and the start of the group of the last one -/
  step : Nat := 0
  last : W64 := 0
  /-- lines read and not written by anyone since: place in the row to data, whether they differ from the row's, poison -/
  copy : Tab (Row × Bool × Bool) := []
  deriving DecidableEq, Repr

/-- One memory channel. -/
structure Channel where
  /-- accepted operations in acceptance order, at most 52 (R252) -/
  accepted : List LineReq := []
  /-- the source last served in round-robin order -/
  rr : Nat := 0
  /-- slots used in the group that began in this cycle -/
  group : W64 := 0
  used : Nat := 0
  /-- and by write-backs (R236) -/
  wb : Nat := 0
  repair : Option RowRepair := none
  /-- rows awaiting repair (R259) -/
  failing : List Nat := []
  /-- repairs in order: row and spare row; the last one of a row serves it (R260) -/
  repaired : List (Nat × Nat) := []
  /-- spare rows in use, of 1,675, the running repair's among them -/
  sparesUsed : Nat := 0
  /-- uncorrectable lines of an interval: (interval, count) (R234) -/
  uc : Nat × Nat := (0, 0)
  /-- corrected reads of rows in an interval: row to (interval, count) (R259) -/
  ce : Tab (Nat × Nat) := []
  deriving DecidableEq, Repr

/-- The external memory. -/
structure Mem where
  /-- data of the lines, by line number (address / 64); an unlisted line reads zeros -/
  lines : Tab Row := []
  /-- check pairs of the check lines in DRAM, by line number; an unlisted pair is 0 -/
  checks : Tab (BitVec 16) := []
  /-- check-line cache entries, keyed 2^20 * channel + block (R235) -/
  cache : Tab ChkEntry := []
  chans : Vector Channel 160 := Vector.replicate 160 {}
  /-- operations asked and not yet accepted, oldest first -/
  want : List LineReq := []
  /-- completed lines of the gather unit: reply, data, poison -/
  replies : List (ReplyTo × Row × Bool) := []
  memx : List MemX := []
  /-- the running scrub: windows as (first line, line count), and the slots of each channel that it has used (R263) -/
  scrub : Option (List (Nat × Nat) × Nat) := none
  /-- a scrub that a closing epoch waits for (R264) -/
  scrubEpoch : Bool := false
  deriving DecidableEq, Repr

end Sys2Proof.Machine
end

