-- ==== Sys2Proof/Machine/TenantState.lean ====
section
/-!
DEFINITION. The state of the tenancy (R327-R360): the epoch, its run list, key generations, seals, power and
thermal control, and the gather unit (R348-R352).
-/
namespace Sys2Proof.Machine

/-- The epoch's state (R328), coded as TEN_STATUS.STATE. -/
inductive EpochState where
  | closed | opened | loaded | suspended | closing
  deriving DecidableEq, Repr

/-- TEN_STATUS.STATE of a state (R363). -/
def EpochState.code : EpochState → Nat
  | .closed => 0 | .opened => 1 | .loaded => 2 | .suspended => 3 | .closing => 4

/-- A run-list entry (R332, R461, R473). -/
structure RunEntry where
  entry : BitVec 32
  recIdx : Nat
  in1 : Option (BitVec 32)
  in2 : Option (BitVec 32)
  /-- not dispatched, running on a tile and context, or ended with a CODE -/
  running : Option (LTile × CtxNo) := none
  code : Option Nat := none
  /-- the kernel its task ended with (R212) -/
  kernel : BitVec 32 := 0
  /-- held for a clutch barrier (R401) -/
  barrier : Option (Fin 16) := none
  /-- its completion record has reached F4-F5 -/
  told : Bool := false
  deriving DecidableEq, Repr

/-- A key generation (R356, R359, R501). -/
structure KeyGen where
  key : BitVec 256
  genNum : Nat
  sealed : Nat := 0
  deriving DecidableEq, Repr

/-- Where the bytes of a sealed chunk come from or go to (R354, R355): a record of the kernel state is a piece of the head
(image, run-list position, frozen array state, directory and registry) or 64 KiB of a tile's allocation (log entry 48). -/
inductive SealPart where
  | head (n : Nat) (data : Bytes)
  | alloc (t : LTile) (n : Nat)
  /-- window 0 or 1, byte offset, bytes -/
  | dram (win : Bool) (off len : Nat)
  deriving DecidableEq, Repr

/-- A seal in progress (R354). -/
structure SealRun where
  slot : SlotId
  gen : Fin 4
  id : W64
  seq : Nat := 0
  /-- parts still to seal, first first; none while the suspend it asked for is in progress -/
  todo : Option (List SealPart) := none
  /-- bytes written so far, and the destination buffer -/
  done : Nat := 0
  addr : Nat
  len : Nat
  deriving DecidableEq, Repr

/-- An unseal in progress (R357). -/
structure UnsealRun where
  slot : SlotId
  gen : Option (Fin 4) := none
  id : Option W64 := none
  seq : Nat := 0
  addr : Nat
  len : Nat
  /-- bytes read so far -/
  done : Nat := 0
  /-- the head's bytes received -/
  head : Bytes := []
  /-- DRAM bytes restored, and whether the last DRAM chunk was of the second sealed window -/
  dram : Nat := 0
  second : Bool := false
  deriving DecidableEq, Repr

/-- A gather job (R350): its descriptor, the indices done, and of the row under way the line operations asked for and the
cycle they were asked in. -/
structure GJob where
  desc : Bytes
  next : Nat := 0
  asked : Nat := 0
  since : W64 := 0
  deriving DecidableEq, Repr

/-- A directory entry (R349). -/
structure GEntry where
  table : Fin 64
  row : Nat
  tile : LTile
  zone : Fin 16
  unit : BitVec 32
  deriving DecidableEq, Repr

/-- One half of the gather unit: queued jobs, the first one running. -/
structure GHalf where
  jobs : List GJob := []
  deriving DecidableEq, Repr

/-- The epoch as EPOCH_OPEN gives it (R329, R461). -/
structure EpochCfg where
  pasid : BitVec 20 := 0
  slot0 : Nat := 0
  nslot : Nat := 0
  vec0 : Nat := 0
  nvec : Nat := 0
  /-- A in 64 KiB units -/
  a64k : Nat := 0
  win0 : DWin := {}
  win1 : DWin := {}
  deriving DecidableEq, Repr

/-- The activity counts of the present power interval (R342). -/
structure Activity where
  depth8 : Nat := 0
  depth4 : Nat := 0
  depth16 : Nat := 0
  depthCx : Nat := 0
  engine : Nat := 0
  dram : Nat := 0
  flits : Nat := 0
  sealed : Nat := 0
  deriving DecidableEq, Repr

/-- The fabric request table of the tenant's image (R382): entry e. -/
structure FrtEntry where
  bytes : Bytes
  deriving DecidableEq, Repr

/-- The tenancy. -/
structure Tenancy where
  state : EpochState := .closed
  /-- the open epoch's tag; 0x7F when closed. The tag of the previous epoch, to take the next of (R153, log entry 20) -/
  tag : Nat := 0x7F
  lastTag : Nat := 0x7E
  ordered : Bool := false
  cfg : EpochCfg := {}
  image : Option Image := none
  openedAt : W64 := 0
  /-- TEN_END was written with an instant still to come (R58) -/
  endArmed : Bool := false
  /-- the suspend request's cycle X while it is in progress (R335), and whether a SEAL asked for it -/
  suspendAt : Option W64 := none
  /-- the close began in this cycle; and its Z (R360) -/
  closeAt : Option W64 := none
  drainedAt : Option W64 := none
  runList : List RunEntry := []
  keys : Vector (Option KeyGen) 4 := Vector.replicate 4 none
  sealing : Option SealRun := none
  unsealing : Option UnsealRun := none
  unsealFailed : Bool := false
  /-- thermal stage 0-3, readings in a row at or above TJ_SUSP, and below it by 5 (R345) -/
  therm : Fin 4 := 0
  hot : Nat := 0
  cool : Nat := 0
  /-- the suspension in force was begun by thermal stage 2, and nothing else has asked for one since (R345) -/
  heat : Bool := false
  /-- last cell shedding step (R346) -/
  shedAt : Option W64 := none
  activity : Activity := {}
  /-- instants of the last throttle step and temperature reading (R342, R345) -/
  powerAt : W64 := 0
  /-- last durations of tenant passes, keyed 8 * tile + partition (R344): (T, last drain) -/
  passT : Tab (Nat × W64) := []
  /-- totals since open for the close report (R360, R501): overruns and the largest, kills, charged cycles, freezes -/
  overruns : Nat := 0
  maxOver : Nat := 0
  kills : Nat := 0
  meter : Nat := 0
  freezes : Nat := 0
  /-- the close was caused by a UF record -/
  byUf : Bool := false
  /-- the number of the epoch's wrap key pairs (R501); none with no epoch -/
  wrap : Option Nat := none
  wraps : Nat := 0
  report : Option Bytes := none
  dir : Tab (List (Option GEntry)) := []
  halves : Vector GHalf 2 := Vector.replicate 2 {}
  /-- the directory clear ends in this cycle (R360) -/
  clearing : Option W64 := none
  frt : List FrtEntry := []
  /-- requests of the fabric table outstanding for each task (R383), keyed 8 * tile + context -/
  frtBusy : Tab Nat := []
  deriving DecidableEq, Repr

end Sys2Proof.Machine
end

