-- ==== Sys2Proof/Machine/ControlState.lean ====
section
/-!
DEFINITION. The state of the control cluster (R412-R435): slices, stage sets, pending commits, roles, moult.
-/
namespace Sys2Proof.Machine

/-- A slice's state (R417). -/
inductive SliceState where
  | free | staged | serving | deleting
  deriving DecidableEq, Repr

/-- A standby of a cell on a peer (R407, R455). -/
structure Standby where
  peer : Fin 8
  pslice : Fin 64
  ctxOff : Nat
  ctxLen : Nat
  destOff : Nat
  deriving DecidableEq, Repr

/-- A cell in force (R291, R324, R458): its CELL_STAGE payload, its state (1 active, 2 muted), its standby and the
eight counts of CELL_STATS. -/
structure CellSt where
  payload : Bytes
  st : Nat := 1
  standby : Option Standby := none
  /-- the instant of the commit that brought it into force (R325) -/
  since : W64 := 0
  stats : Vector Nat 8 := Vector.replicate 8 0
  /-- the first cycle of the slot whose context copy to the standby has been made or skipped (R407) -/
  mirrored : Option W64 := none
  deriving DecidableEq, Repr

/-- A slice (R414). -/
structure SliceSt where
  st : SliceState := .free
  pasid : BitVec 20 := 0
  slot0 : Nat := 0
  nslot : Nat := 0
  vec0 : Nat := 0
  nvec : Nat := 0
  win0 : DWin := {}
  win1 : DWin := {}
  image : Option Image := none
  /-- pad allocations, by logical tile: size in units of 64 KiB (their starts stand with the tiles) -/
  pads : Tab Nat := []
  /-- its cells, by cell number -/
  cells : Tab CellSt := []
  deriving DecidableEq, Repr

/-- A staged setting (R418, R422). Settings that a message carries as a table are kept as its payload's bytes. -/
inductive Setting where
  | create (pasid : BitVec 20) (slot0 nslot vec0 nvec : Nat)
  /-- windows, and pad entries (tile, size, start): the start is placed when the commit is accepted (R460) -/
  | alloc (win0 win1 : DWin) (tiles : List (LTile × Nat × Nat))
  | delete
  | cell (n : Fin 512) (payload : Bytes)
  /-- a cell's move: 1 active, 2 muted, 0 deleted (R324) -/
  | cellState (n : Fin 512) (st : Fin 3)
  | stream (cell : Fin 512) (rim : Fin 4) (f : Fin 8192) (regs : StreamRegs)
  | template (rim : Fin 4) (n : Nat) (bytes : Bytes)
  /-- an image, and the checks of R188 that it failed: (item, section TYPE, index) -/
  | image (img : Image) (bad : List (Nat × Nat × Nat))
  | standby (n : Fin 512) (sb : Option Standby)
  | tileSwap (t : LTile) (p : PTile)
  | frameOffset (f : Int)
  | roleMove (role pos : Fin 8)
  | shed (cells : List (Fin 64 × Fin 512))
  | mute (cells : List (Fin 64 × Fin 512))
  | unmute (cells : List (Fin 64 × Fin 512))
  deriving DecidableEq, Repr

/-- A stage set: a slice's, the device's, or one kind of the action stage set in the order of R422. -/
inductive SetId where
  | slice (n : Fin 64) | device | action (k : Fin 4)
  deriving DecidableEq, Repr

/-- A pending commit (R421, R422). -/
structure Pending where
  set : SetId
  x : W64
  accepted : W64
  settings : List Setting
  deriving DecidableEq, Repr

/-- The control cluster. -/
structure Control where
  slices : Vector SliceSt 64 := Vector.replicate 64 {}
  /-- what each slice stage set and the device stage set hold, first staged first -/
  staged : Vector (List Setting) 64 := Vector.replicate 64 []
  device : List Setting := []
  /-- pending commits, in order of acceptance -/
  pend : List Pending := []
  /-- the last committed instant of each slice set, and 64 for the device set (R455) -/
  lastX : Tab W64 := []
  /-- actions that wait for the pending commit of their kind, first staged first (R422) -/
  later : List (Fin 4 × Setting) := []
  /-- the swap copy in progress: logical tile, from, to, the next row to copy (R427) -/
  swap : Option (LTile × PTile × PTile × Nat) := none
  /-- the cycle of the last commit, and the zones whose SRC it wrote, as 16 * tile + zone (R424) -/
  moved : Option (W64 × List Nat) := none
  /-- the cycle of the last management-plane request to the staged-commit unit (R30) -/
  mgmtAt : Option W64 := none
  deriving DecidableEq, Repr

end Sys2Proof.Machine
end

