-- ==== Sys2Proof/Machine/FabricState.lean ====
section
/-!
DEFINITION. The state of the clutch, the gateways, the barriers and the twin (R364-R410).
-/
namespace Sys2Proof.Machine

/-- The states of a fabric-cache line (R376); an absent line is I. -/
inductive CState where
  | m | o | e | s
  deriving DecidableEq, Repr

/-- A line of the fabric cache (R372, R374, R376). -/
structure CLine where
  st : CState
  key : BitVec 16
  data : Row
  poison : Bool := false
  stamp : Nat := 0
  deriving DecidableEq, Repr

/-- A directory entry of a home (R375). -/
structure DirEnt where
  holders : BitVec 8 := 0
  owner : Option (Fin 8) := none
  stamp : Nat := 0
  deriving DecidableEq, Repr

/-- The requests of channel 0 (R366). -/
inductive KReq where
  | rd | rdx | wr
  deriving DecidableEq, Repr

/-- Where a request comes from: a chip, or a peer of the gateway (R370, R380, R392). -/
inductive Origin where
  | chip (n : Fin 8) | gw (peer : Fin 64)
  deriving DecidableEq, Repr

/-- A request at its home (R377-R381). -/
structure HomeReq where
  kind : KReq
  org : Origin
  tag : BitVec 32
  key : BitVec 16
  /-- home-local line number -/
  line : Nat
  data : Row := 0
  poison : Bool := false
  /-- the chip its frames go back to was relayed -/
  relay : Bool := false
  /-- the cycle in which it arrived (R378) -/
  at_ : W64 := 0
  deriving DecidableEq, Repr

/-- A busy line (R378): the request served, the chips whose answer is still to come, the data an owner sent, and
whether the line is being recalled for its directory set (R375) or a region (R373). -/
structure Busy where
  line : Nat
  req : Option HomeReq
  wait : BitVec 8
  got : Option (Row × Bool) := none
  deriving DecidableEq, Repr

/-- Applied tags of a source (R394). -/
structure SrcTags where
  high : BitVec 32 := 0
  applied : List (BitVec 32) := []
  deriving DecidableEq, Repr

/-- What a clutch request belongs to: line `i` of a fabric transfer, a context mirror, a gateway peer's request. -/
inductive Why where
  | frt (id : Nat) (i : Nat)
  | mirror (slice : Fin 64) (cell : Fin 512)
  | gwIn (id : Nat) (i : Nat)
  deriving DecidableEq, Repr

/-- A clutch request of this chip to another home, or waiting to be sent (R380, R393, R396). -/
structure COut where
  dst : Fin 8
  kind : KReq
  line : Nat
  key : BitVec 16
  data : Row := 0
  poison : Bool := false
  why : Why
  /-- its tag and the cycle of its last sending; none while it waits for a credit -/
  sent : Option (BitVec 32 × W64) := none
  reissued : Bool := false
  accepted : Bool := false
  held : Bool := false
  deriving DecidableEq, Repr

/-- A fabric transfer of a task (R382, R383). -/
structure FrtRun where
  id : Nat
  tile : LTile
  ctx : CtxNo
  owner : Nat
  entry : Bytes
  /-- waits behind the task's 64 outstanding ones; handed to the agent; its requests are under way -/
  stage : Fin 3 := 0
  /-- lines read, by index, and lines whose write has its ACK -/
  got : Tab (Row × Bool) := []
  acked : Nat := 0
  /-- its task is gone (R471) -/
  dead : Bool := false
  deriving DecidableEq, Repr

/-- What a Krovbem frame carries (R365): a frame of a line with its TYPE, a HEART, a TIME (the leader's with the t4 of the port's
last reply and whether it is in LOCKED), a BAR (ARRIVE 0, GO 1, ABORT 2), and TWIN: a kernel record with ARR_HASH[0-3], pass count
and log of passes (R211, R405), or the placement of a run-list entry (R404). -/
inductive KMsg where
  | line (type : Nat) (f : KFrame)
  | heart (vector : Byte)
  | time (back : Option W64) (locked : Bool)
  | bar (b : Fin 16) (kind : Fin 3)
  | twin (kernel : BitVec 32) (tile : LTile) (count : Nat) (record : List W64) (hashes : List (BitVec 16 × W64))
  | placement (entry : BitVec 32) (tile : LTile)
  deriving DecidableEq, Repr

/-- A gateway read that finds every landing buffer in flight (R388): its key, owner, block and line, and what it belongs to. -/
structure LandWait where
  key : BitVec 16
  owner : Nat
  block : Nat
  i : Nat
  id : Nat
  k : Nat
  deriving DecidableEq, Repr

/-- A landing buffer of the gateway (R388): its lines once they are there, and the reads that wait. -/
structure LandBuf where
  key : BitVec 16
  block : Nat
  lines : Option (List (Row × Bool)) := none
  waits : List (Nat × Nat) := []
  stamp : Nat := 0
  deriving DecidableEq, Repr

/-- A write-combining buffer (R389). -/
structure CombBuf where
  key : BitVec 16
  block : Nat
  owner : Nat
  lines : Tab Row := []
  stamp : Nat := 0
  deriving DecidableEq, Repr

/-- A request of this gateway to a peer (R391). -/
structure GOut where
  peer : Fin 64
  tag : Option (BitVec 32) := none
  write : Bool
  block : Nat
  key : BitVec 16
  owner : Nat
  lines : Tab Row := []
  first : W64 := 0
  last : W64 := 0
  held : Bool := false
  deriving DecidableEq, Repr

/-- A request of a peer that this gateway applies (R392, R399). -/
structure GIn where
  id : Nat
  peer : Fin 64
  tag : BitVec 32
  write : Bool
  key : BitVec 16
  addr : Nat
  left : Nat
  got : Tab (Row × Bool) := []
  deriving DecidableEq, Repr

/-- A barrier's entries and the members that arrived (R401); its X, MASK and STATE stand in FAB_BAR. -/
structure Barrier where
  entries : List (BitVec 32) := []
  arrived : BitVec 8 := 0
  sent : Bool := false
  decided : Bool := false
  deriving DecidableEq, Repr

/-- A kernel record of a twin (R405), and when it was there. -/
structure TwinRec where
  kernel : BitVec 32
  tile : LTile
  count : Nat
  record : List W64
  hashes : List (BitVec 16 × W64)
  at_ : W64
  deriving DecidableEq, Repr

/-- The running recall of a region (R373): the register, its new value, its first cycle, and the lines still to recall. -/
structure Recall where
  reg : Nat
  value : W64
  at_ : W64
  lines : List Nat
  deriving DecidableEq, Repr

/-- The fabric. -/
structure Fabric where
  cache : Tab CLine := []
  /-- write-back buffers (R379), by clutch line -/
  wb : Tab (Row × Bool) := []
  dir : Tab DirEnt := []
  busy : List Busy := []
  /-- requests that wait for a busy line, in arrival order (R378) -/
  waiting : List HomeReq := []
  /-- applied tags by source: chip n as n, peer p as 8 + p (R394) -/
  tags : Tab SrcTags := []
  /-- the next tag by destination, and the credits in use by home (R380, R393) -/
  nextTag : Tab (BitVec 32) := []
  used : Tab Nat := []
  outs : List COut := []
  frts : List FrtRun := []
  land : List LandBuf := []
  landWait : List LandWait := []
  comb : List CombBuf := []
  gouts : List GOut := []
  gins : List GIn := []
  /-- the last CREDIT received from each peer, and the one advertised to it (R391, R392) -/
  credit : Tab Nat := []
  offered : Tab Nat := []
  /-- cycle of the last HEART on each port, and from each member: (cycle, vector) (R395, R397) -/
  heartOn : Tab W64 := []
  /-- the instant t4 at which the time leader received the last reply on a clutch port (R400) -/
  timeBack : Tab W64 := []
  heartOf : Tab (W64 × Byte) := []
  /-- the last cycle in which a HEART showed each member in its vector (R397) -/
  shownAt : Tab W64 := []
  /-- frames that wait for the link of each clutch port, the first cycle in which it can take the next one, the SEQ of its
  next frame, and the frames received on it (R365, R366) -/
  linkQ : Tab (List KMsg) := []
  linkFree : Tab W64 := []
  seqOut : Tab Nat := []
  seqIn : Tab Nat := []
  /-- region entries that a write has widened: the cycle of the write and the value before it (R373) -/
  regNew : Tab (W64 × W64) := []
  bars : Tab Barrier := []
  twinMine : List TwinRec := []
  twinTheirs : List TwinRec := []
  callBack : Option Recall := none
  /-- every cell with a standby was muted for isolation (R410) -/
  isolated : Bool := false
  /-- counts accesses, for the least recently used line -/
  clock : Nat := 0
  nextId : Nat := 0
  deriving DecidableEq, Repr

end Sys2Proof.Machine
end

