-- ==== Sys2Proof/Machine/HostState.lean ====
section
/-!
DEFINITION. The state of boot, identity and attestation (R485-R503), of the host attachment (R505-R516), of the
package's pins (R525-R538) and of self-tests (R483, R484), beside their registers.
-/
namespace Sys2Proof.Machine

/-- A verified image (R430, R435, R487): its payload's SHA-384 value, version, anti-rollback value and handover format. -/
structure FwImage where
  version : Nat := 0
  rollback : Nat := 0
  hash : BitVec 384 := 0
  format : Nat := 0
  deriving DecidableEq, Repr

/-- Boot (R488-R492). The stage, the stop reason and the counters stand in SEC_STATUS and SEC_CNT. -/
structure Boot where
  /-- PORST# or MGMT_PWROK holds the whole part in reset (R532) -/
  held : Bool := true
  /-- the compute die and the rim dies are held in reset (R503, R527) -/
  dies : Bool := true
  /-- a stage is running -/
  running : Bool := false
  recovery : Bool := false
  detail : BitVec 32 := 0
  /-- MAIN_EN's rise (R535) -/
  enAt : Option W64 := none
  /-- the flash's counters (R492) -/
  fwcnt : Nat := 0
  bdcnt : Nat := 0
  /-- the objects that RECOVERY_IMAGE supplied for this boot (R489) -/
  memFenen : Option FwImage := none
  memM0 : Option FwImage := none
  memBoard : Option Board := none
  /-- the SHA-384 values of the M0 image and the board description that the alias keys name (R494) -/
  aliasOf : BitVec 384 × BitVec 384 := (0, 0)
  deriving DecidableEq, Repr

/-- A session of SPDM: its key, and whether FINISH has completed it (R496). -/
structure Session where
  key : Bytes
  established : Bool := false
  deriving DecidableEq, Repr

/-- One transport's SPDM connection (R496): how far negotiation went (0 none, 1 version, 2 capabilities, 3
algorithms), the transcript, sessions, and a large message in chunks. -/
structure Conn where
  phase : Fin 4 := 0
  transcript : Bytes := []
  sessions : Vector (Option Session) 2 := Vector.replicate 2 none
  /-- chunks of a large request so far, and the next chunk's number -/
  chunkIn : Bytes := []
  inNext : Nat := 0
  /-- what is left of a large response, and the next chunk's number -/
  chunkOut : Bytes := []
  outNext : Nat := 0
  deriving DecidableEq, Repr

/-- Attestation. -/
structure Spdm where
  pcie : Conn := {}
  i3c : Conn := {}
  /-- key exchanges so far (R497) -/
  count : Nat := 0
  /-- index 12 of the measurements: the digest and its instant X, and those before the last commit (R499, R500) -/
  cfg : BitVec 384 × W64 := (0, 0)
  was : BitVec 384 × W64 := (0, 0)
  deriving DecidableEq, Repr

/-- An IDE stream (R515): its key, its address range, and whether it is established. -/
structure Ide where
  key : BitVec 256 := 0
  base : Nat := 0
  limit : Nat := 0
  on : Bool := false
  deriving DecidableEq, Repr

/-- The PCIe state (R506, R514-R516). -/
structure Pci where
  masked : BitVec 2048 := BitVec.allOnes 2048
  pend : BitVec 2048 := 0
  /-- MSI vectors that the host has enabled on PF1 (R514) -/
  msi : Nat := 1
  /-- ranges in the translation cache -/
  ats : List (Nat × Nat) := []
  ide : Vector Ide 4 := Vector.replicate 4 {}
  deriving DecidableEq, Repr

/-- A self-test (R483): its kind, target and start, and whether it runs. -/
structure SelfTest where
  id : Nat
  kind : Nat
  target : Nat
  start : W64
  running : Bool := false
  deriving DecidableEq, Repr

/-- The package's sensors (R526, R538): readings in a row out of band, and reads in a row without an answer. -/
structure Pkg where
  railBad : Tab Nat := []
  inletMiss : Nat := 0
  flowMiss : Nat := 0
  deriving DecidableEq, Repr

end Sys2Proof.Machine
end

