-- ==== Sys2Proof/Machine/LogState.lean ====
section
/-!
DEFINITION. The error log's state (R477-R480): views, rate limits, the counters of the error summary.
-/
namespace Sys2Proof.Machine

/-- The CODE of a record (R478): a number that R481 or another rule gives, or the code of the rule that
writes the record where that rule gives no number (`rule r k`: event k of rule R<r>; Config.eventCode is
its number, log entry 16). -/
inductive Code where
  | num (n : BitVec 16)
  | rule (r k : Nat)
  deriving DecidableEq, Repr

/-- The owner whose scope a record has (R478). -/
inductive Owner where
  | management | manager | slice (n : Fin 64) | tenant
  deriving DecidableEq, Repr

/-- The fault classes (R466). -/
inductive Cls where
  | ce | uc | us | uf
  deriving DecidableEq, Repr

/-- One record of a view (R478). -/
structure LogRec where
  index : Nat
  atb : W64
  cls : Cls
  mgmtOnly : Bool
  scope : Nat
  owner : Nat
  unit : Nat
  code : Code
  suppressed : Nat
  ltile : Nat
  ptile : Nat
  object : Nat
  kernel : Nat
  detail : Bytes
  deriving DecidableEq, Repr

/-- A view (R477): the next INDEX and the records kept, newest first. -/
structure View where
  next : Nat := 0
  recs : List LogRec := []
  deriving DecidableEq, Repr

/-- A rate limit's key (R479): the CODE and the X of "1/s per X", coded as (kind, number). -/
structure LimitKey where
  code : Code
  kind : Nat
  x : Nat
  deriving DecidableEq, Repr

/-- The interval of the last record of a key, and the records withheld since. -/
structure Limit where
  key : LimitKey
  interval : Nat
  withheld : Nat
  deriving DecidableEq, Repr

/-- The error log (R477, R480). -/
structure ErrLog where
  mgmt : View := {}
  manager : View := {}
  slices : Tab View := []
  tenant : View := {}
  limits : List Limit := []
  ufCount : Nat := 0
  usCount : Nat := 0
  ucCount : Nat := 0
  ceCount : Nat := 0
  firstUf : Option LogRec := none
  /-- the cycle of the last management-plane read (R30) -/
  mgmtAt : Option W64 := none
  deriving DecidableEq, Repr

end Sys2Proof.Machine
end

