-- ==== Sys2Proof/Machine/MailState.lean ====
section
/-!
DEFINITION. The state of the mailboxes (R437-R452), the event rings (R462-R464), and of images held for boot and
moult (R430-R435, R487).
-/
namespace Sys2Proof.Machine

/-- Who owns a slot (R443): the manager, a slice, the tenant, or the management plane (PF1). -/
inductive Sender where
  | manager | slice (n : Fin 64) | tenant | mgmt
  deriving DecidableEq, Repr

/-- A message the part has taken (R438, R441): `vec` is the vector after its reply in the function's numbering, `wpasid`
the PASID that its writes carry (R447). -/
structure Msg where
  slot : SlotId
  seq : Nat
  opcode : Nat
  vec : Option Nat
  pasid : Nat
  wpasid : Option Nat
  sender : Sender
  raddr : Nat
  rlen : Nat
  payload : Bytes
  taken : W64
  /-- a duplicate was taken while it executes (R445) -/
  dup : Bool := false
  deriving DecidableEq, Repr

/-- A reply as R446 and R447 have it: LEN is the length of `payload`. -/
structure Reply where
  slot : SlotId
  raddr : Nat
  seq : Nat
  opcode : Nat
  status : Nat
  detail : Nat
  trunc : Bool
  dup : Bool
  /-- the PASID echoed in the header, and the one that the writes carry (R446, R447) -/
  pasid : Nat
  wpasid : Option Nat
  taken : W64
  done : W64
  payload : Bytes
  /-- the MSI-X vector after it, in the function's numbering -/
  vec : Option Nat
  deriving DecidableEq, Repr

/-- A slot (R437-R439, R445): its stored bytes, the cycle it was armed in, and the kept SEQ, OPCODE and reply. -/
structure Slot where
  hdr : BitVec 512 := 0
  body : Tab Byte := []
  armed : Option W64 := none
  kept : Option (Nat × Nat × Option Reply) := none
  deriving DecidableEq, Repr

/-- An event ring (R455, R464). -/
structure Ring where
  base : Nat
  cons : Nat
  prod : Nat
  entries : Nat
  vec : Nat
  irq : Bool
  compl : Bool
  index : Nat := 0
  /-- the consumer index as last read, and the cycle of that read -/
  seen : Nat := 0
  readAt : Option W64 := none
  lost : Nat := 0
  deriving DecidableEq, Repr

/-- An event record that waits to be written (R462). -/
structure Event where
  owner : Fin 65
  kind : Nat
  ltile : Nat
  code : Nat
  flags : Nat
  atb : W64
  kernel : Nat
  ref : Nat
  unit : Option (BitVec 2048)
  deriving DecidableEq, Repr

/-- What a delayed reply waits for. -/
inductive WaitFor where
  | suspend | close | seal | unseal | callBack
  deriving DecidableEq, Repr

/-- The mailboxes: slots keyed by number, 256 + n for PF1 slot n. -/
structure Mailbox where
  slots : Tab Slot := []
  /-- messages taken and not yet executed, in take order (R441, R444) -/
  taken : List Msg := []
  /-- EPOCH_CLOSE messages whose report write failed (R512) -/
  lostReports : List SlotId := []
  /-- messages that execute until something else ends -/
  waiting : List (Msg × WaitFor) := []
  rings : Tab Ring := []
  events : List Event := []
  /-- units held for POSTs: (tile, owner, zone, data), at most 4 for each flow (R463) -/
  units : List (LTile × Nat × Nat × BitVec 2048) := []
  /-- manager's PASID, once M0 has set it (R415) -/
  mgrPasid : Option (BitVec 20) := none
  shedOrder : List (Fin 64 × Fin 512) := []
  deriving DecidableEq, Repr

/-! ## Images (R430, R435, R487) -/

/-- One step of a moult (R431, R432). -/
inductive MoultStep where
  /-- the spare loads and checks the new image -/
  | load
  /-- the role's move is pending -/
  | moving
  /-- the new holder's 2,000 heartbeats -/
  | confirm (from_ : Fin 8) (beats : Nat)
  /-- the last spare loads; then M0 writes the flash -/
  | finish
  /-- M0 moults itself -/
  | m0
  deriving DecidableEq, Repr

/-- The cores and the moult (R412, R413, R430-R435). -/
structure Cores where
  /-- the cycle in which each position last wrote its heartbeat -/
  beatAt : Vector W64 8 := Vector.replicate 8 0
  /-- positions out of service -/
  failed : BitVec 8 := 0
  /-- roles whose holder sweeps no new slot before its move (R431) -/
  away : BitVec 8 := 0
  /-- the image each position runs -/
  image : Vector FwImage 8 := Vector.replicate 8 {}
  m0 : FwImage := {}
  /-- the board flash: Fenen and M0 images and the next boot's board description -/
  flashFenen : FwImage := {}
  flashM0 : FwImage := {}
  flashBoard : Option Board := none
  /-- images verified and held for MOULT_START, and whether the spare has loaded the held one -/
  heldFenen : Option FwImage := none
  heldM0 : Option FwImage := none
  spareLoaded : Bool := false
  /-- the moult in progress: its step and the role it handles -/
  moult : Option (MoultStep × Fin 8) := none
  aborted : Bool := false
  /-- M0 runs; the cycle its restart began -/
  m0Up : Bool := false
  restart : Option W64 := none
  /-- a UF record was written (R468): its cycle -/
  uf : Option W64 := none
  deriving DecidableEq, Repr

end Sys2Proof.Machine
end

