-- ==== Sys2Proof/Machine/Regs.lean ====
section
/-!
DEFINITION. The register map: every register the spec gives the part, with its device address, the bits
that each access code governs and its reset value (R10 and the register tables of R41, R88, R143, R185,
R225, R265, R288, R326, R363, R411, R436, R465, R504, R518, R539). Bits under no code are reserved and
read 0 (R11). A field whose reset the spec gives "per board description", "per flash" or "per repair map"
resets to 0 and is loaded at boot (log entry 5).
-/
namespace Sys2Proof.Machine

/-- The names of the registers. A register wider than 64 bits has one name for each of its 64-bit words. -/
inductive RegName where
  /-- ATB_NOW: current 64-bit count, read atomically -/
  | atbNow
  /-- ATB_CTRL: source selection -/
  | atbCtrl
  /-- ATB_STATE: servo state and holdover estimate -/
  | atbState
  /-- ATB_OFFSET: filtered phase offset, reference minus ATB, signed, units of 2^-16 cy -/
  | atbOffset
  /-- ATB_FREQ: applied frequency correction, signed, units of 0.001 ppb -/
  | atbFreq
  /-- ATB_SERVO: servo parameters -/
  | atbServo
  /-- ATB_HOLD: [31:0] LIMIT: holdover phase-error limit in cy, reset 2,163 (1.1 µs) -/
  | atbHold
  /-- ATB_FRAME_OFFSET: [39:0] F, signed; set only by commit (R38) -/
  | atbFrameOffset
  /-- ATB_SNAP: write 1 to bit 0: capture the count and all derived fields in one cycle -/
  | atbSnap
  /-- ATB_SNAP_NOW: captured count -/
  | atbSnapNow
  /-- ATB_SNAP_F0: captured μ0 fields -/
  | atbSnapF0
  /-- ATB_SNAP_F1: captured μ1 fields -/
  | atbSnapF1
  /-- ATB_SNAP_MF: captured memory-frame fields -/
  | atbSnapMf
  /-- ATB_PSTART: P_k of the current SFN period -/
  | atbPstart
  /-- ATB_TOD: time properties from the active time source -/
  | atbTod
  /-- ATB_PTP_MASTER: [15:0]: bit n set makes FHn a PTP master port -/
  | atbPtpMaster
  /-- ATB_STAT: counters, each saturating -/
  | atbStat
  /-- ATB_TSCORR: timestamp corrections for FHn, loaded from the board description -/
  | atbTscorr
  /-- ARR_ID: tile identity -/
  | arrId
  /-- ARR_STATUS: per-quarter state -/
  | arrStatus
  /-- ARR_CTRL: hash and park control -/
  | arrCtrl
  /-- ARR_SAVE: pre-emption save area -/
  | arrSave
  /-- ARR_FAULT: last fault -/
  | arrFault
  /-- ARR_PASSES: pass counters -/
  | arrPasses
  /-- ARR_MACCY: active cycle counter -/
  | arrMaccy
  /-- ARR_PREEMPT: freeze and restore counters -/
  | arrPreempt
  /-- ARR_HASH: running CRC-64 of quarter q -/
  | arrHash
  /-- SGE_STATUS: engine state -/
  | sgeStatus
  /-- SGE_CTRL: park control -/
  | sgeCtrl
  /-- SGE_FAULT: last fault -/
  | sgeFault
  /-- SGE_FLAGS: sticky flags -/
  | sgeFlags
  /-- SGE_ICOUNT: instruction counter -/
  | sgeIcount
  /-- PAD_STATUS: patrol, sweep and regrow state -/
  | padStatus
  /-- PAD_CTRL: patrol and regrow control -/
  | padCtrl
  /-- PAD_SWEEP: tag sweep -/
  | padSweep
  /-- PAD_ECC: error counters -/
  | padEcc
  /-- PAD_SPARE: spare-row use -/
  | padSpare
  /-- PAD_OPFAULT: last pad-operation fault -/
  | padOpfault
  /-- PAD_WIN: task window of context n -/
  | padWin
  /-- PAD_LZ_CFG: zone configuration -/
  | padLzCfg
  /-- PAD_LZ_RD: zone read pointer -/
  | padLzRd
  /-- PAD_LZ_STATE: zone credit state -/
  | padLzState
  /-- PAD_LZ_CNT: zone counters -/
  | padLzCnt
  /-- SCH_STATUS: context and window state -/
  | schStatus
  /-- SCH_CTRL: park control -/
  | schCtrl
  /-- SCH_NEXTWIN: ATB value of the next window opening -/
  | schNextwin
  /-- SCH_FAULT: last sequencer fault -/
  | schFault
  /-- SCH_STAT: counters -/
  | schStat
  /-- SCH_CTX: state of context n -/
  | schCtx
  /-- MEM_WIN: DRAM window w of context n -/
  | memWin
  /-- MEM_STATUS: controller state -/
  | memStatus
  /-- MEM_CTRL: repair control -/
  | memCtrl
  /-- MEM_SCRUB: scrub control and progress -/
  | memScrub
  /-- MEM_REPAIR: row repair request -/
  | memRepair
  /-- MEM_CHK: check-line cache counters -/
  | memChk
  /-- MEM_STAT: refusal counters -/
  | memStat
  /-- MEM_SCRUB_WIN: windows to scrub -/
  | memScrubWin
  /-- MEM_CH: channel state -/
  | memCh
  /-- MEM_ECC: channel error counters -/
  | memEcc
  /-- FHP_CFG: role and geometry, from the board description -/
  | fhpCfg
  /-- FHP_STATUS: link state -/
  | fhpStatus
  /-- FHP_CTRL: overhead and frame length -/
  | fhpCtrl
  /-- FHP_RXSTAT: receive counters -/
  | fhpRxstat
  /-- FHP_TXSTAT: transmit counters -/
  | fhpTxstat
  /-- FHP_MISC: other counters -/
  | fhpMisc
  /-- FHP_Q: queue settings -/
  | fhpQ
  /-- FHP_TTW: window entries -/
  | fhpTtw
  /-- RAD_STATUS: table state -/
  | radStatus
  /-- RAD_STAT: ingress violation counters -/
  | radStat
  /-- RAD_STAT2: record and egress counters -/
  | radStat2
  /-- RAD_ASM: assembly store use -/
  | radAsm
  /-- RAD_FKEY: stream key -/
  | radFkey
  /-- RAD_FACT: stream action -/
  | radFact
  /-- RAD_FTIME: stream timing -/
  | radFtime
  /-- RAD_FGAIN: gain settings and state -/
  | radFgain
  /-- TEN_STATUS: epoch state -/
  | tenStatus
  /-- TEN_CTRL: freeze and resume control -/
  | tenCtrl
  /-- TEN_END: epoch end instant -/
  | tenEnd
  /-- TEN_PWR: power budget and throttle state -/
  | tenPwr
  /-- TEN_THERM: thermal thresholds and state -/
  | tenTherm
  /-- TEN_KEYS: key generation state -/
  | tenKeys
  /-- TEN_METER: charged array tile-cycles -/
  | tenMeter
  /-- TEN_STAT: counters -/
  | tenStat
  /-- TEN_GDIR: directory state -/
  | tenGdir
  /-- TEN_GSTAT: gather counters -/
  | tenGstat
  /-- TEN_GJQ: job descriptor bytes 8i to 8i + 7; a write to TEN_GJQ[3] enqueues -/
  | tenGjq
  /-- TEN_GTAB: table registry -/
  | tenGtab
  /-- FAB_STATUS: membership and state -/
  | fabStatus
  /-- FAB_CTRL: timeouts and twin control -/
  | fabCtrl
  /-- FAB_STAT: rejection and duplicate counters -/
  | fabStat
  /-- FAB_STAT2: recovery counters -/
  | fabStat2
  /-- FAB_TWIN: first twin mismatch -/
  | fabTwin
  /-- FAB_GW: gateway identity and window -/
  | fabGw
  /-- FAB_PEER: member state -/
  | fabPeer
  /-- FAB_CLINK: clutch port data from the board description -/
  | fabClink
  /-- FAB_BAR: barrier state -/
  | fabBarA
  /-- FAB_BAR: barrier state -/
  | fabBarB
  /-- FAB_LPEER: gateway peers -/
  | fabLpeerA
  /-- FAB_LPEER: gateway peers -/
  | fabLpeerB
  /-- FAB_LPEER: gateway peers -/
  | fabLpeerC
  /-- FAB_LPEER: gateway peers -/
  | fabLpeerD
  /-- FAB_LMAP: Leapfrog span map -/
  | fabLmap
  /-- FAB_OKEY: key of owner tag g -/
  | fabOkey
  /-- FAB_REG: region entries -/
  | fabReg
  /-- CTL_STATUS: cluster state -/
  | ctlStatus
  /-- CTL_ROLE: role map -/
  | ctlRole
  /-- CTL_LAST: last commit instant -/
  | ctlLast
  /-- CTL_LASTSET: stage sets of the last commit -/
  | ctlLastset
  /-- CTL_HB: heartbeat of position n -/
  | ctlHb
  /-- CTL_PEND: pending commits; entries 16–19 hold the action commits of R422, one per kind in the order of its table -/
  | ctlPendA
  /-- CTL_PEND: pending commits; entries 16–19 hold the action commits of R422, one per kind in the order of its table -/
  | ctlPendB
  /-- MBX_ARMED: bit b: slot 64i + b is armed -/
  | mbxArmed
  /-- MBX_STAT: counters -/
  | mbxStat
  /-- MBX_OWNER: owner of slot n -/
  | mbxOwner
  /-- SEC_STATUS: boot and identity state -/
  | secStatus
  /-- SEC_CNT: anti-rollback counters -/
  | secCnt
  /-- SEC_SPDM: attestation counters -/
  | secSpdm
  /-- PCI_STATUS: link state -/
  | pciStatus
  /-- PCI_B4BASE: BAR4 origin -/
  | pciB4base
  /-- PCI_DBGWIN: debug window -/
  | pciDbgwin
  /-- PCI_STAT: counters -/
  | pciStat
  /-- PKG_STATUS: pin and rail state -/
  | pkgStatus
  /-- PKG_TEMP: temperatures -/
  | pkgTemp
  /-- PKG_COOL: coolant readings -/
  | pkgCool
  /-- PKG_CLK: clock state -/
  | pkgClk
  /-- PKG_STAT: counters -/
  | pkgStat
  /-- PKG_RAIL: rail n (R522) -/
  | pkgRail
  deriving DecidableEq, Repr

/-- One register: its name, the number of its block (tile, port's first lane or rim die; 0 for a block
that the part has once) and its index in the block's array of that name. -/
structure Reg where
  name : RegName
  blk : Nat := 0
  idx : Nat := 0
  deriving DecidableEq, Repr

/-- One row of the register map: device address of the block, number of blocks and their distance, offset
in the block, distance and number of array elements, and the bits under each access code (00_scope). -/
structure RegRow where
  base : Nat
  nblk : Nat
  bstep : Nat
  off : Nat
  step : Nat
  count : Nat
  rw : Nat
  ro : Nat
  wo : Nat
  w1c : Nat
  rc : Nat
  reset : Nat
  deriving DecidableEq, Repr

/-- The register map. -/
def regRow : RegName → RegRow
  | .atbNow => .mk 0x4100000000 1 0x0 0x0 8 1 0x0 0xffffffffffffffff 0x0 0x0 0x0 0x0
  | .atbCtrl => .mk 0x4100000000 1 0x0 0x8 8 1 0x3ff1f01ff37 0x0 0x0 0x0 0x0 0x1800000000
  | .atbState => .mk 0x4100000000 1 0x0 0x10 8 1 0x0 0xffffffff00ff03f7 0x0 0x0 0x0 0x0
  | .atbOffset => .mk 0x4100000000 1 0x0 0x18 8 1 0x0 0xffffffffffffffff 0x0 0x0 0x0 0x0
  | .atbFreq => .mk 0x4100000000 1 0x0 0x20 8 1 0x0 0xffffffffffffffff 0x0 0x0 0x0 0x0
  | .atbServo => .mk 0x4100000000 1 0x0 0x28 8 1 0xffffffffffff03 0x0 0x0 0x0 0x0 0x4000280a00c800
  | .atbHold => .mk 0x4100000000 1 0x0 0x30 8 1 0xffffffff 0x0 0x0 0x0 0x0 0x873
  | .atbFrameOffset => .mk 0x4100000000 1 0x0 0x38 8 1 0x0 0xffffffffff 0x0 0x0 0x0 0x0
  | .atbSnap => .mk 0x4100000000 1 0x0 0x40 8 1 0x0 0x0 0x1 0x0 0x0 0x0
  | .atbSnapNow => .mk 0x4100000000 1 0x0 0x48 8 1 0x0 0xffffffffffffffff 0x0 0x0 0x0 0x0
  | .atbSnapF0 => .mk 0x4100000000 1 0x0 0x50 8 1 0x0 0xff03ff0f1ff3ffff 0x0 0x0 0x0 0x0
  | .atbSnapF1 => .mk 0x4100000000 1 0x0 0x58 8 1 0x0 0xff03ff0f1ff3ffff 0x0 0x0 0x0 0x0
  | .atbSnapMf => .mk 0x4100000000 1 0x0 0x60 8 1 0x0 0x3fffff1fff 0x0 0x0 0x0 0x0
  | .atbPstart => .mk 0x4100000000 1 0x0 0x68 8 1 0x0 0xffffffffffffffff 0x0 0x0 0x0 0x0
  | .atbTod => .mk 0x4100000000 1 0x0 0x70 8 1 0x0 0xff0fffff 0x0 0x0 0x0 0x0
  | .atbPtpMaster => .mk 0x4100000000 1 0x0 0x78 8 1 0xffff 0x0 0x0 0x0 0x0 0x0
  | .atbStat => .mk 0x4100000000 1 0x0 0x80 8 1 0x0 0x0 0x0 0x0 0xffffffffffffffff 0x0
  | .atbTscorr => .mk 0x4100000000 1 0x0 0x100 8 16 0x0 0xffffffff 0x0 0x0 0x0 0x0
  | .arrId => .mk 0x4101000000 64 0x1000 0x0 8 1 0x0 0x3f7f 0x0 0x0 0x0 0x0
  | .arrStatus => .mk 0x4101000000 64 0x1000 0x8 8 1 0x0 0x1fff 0x0 0x0 0x0 0x0
  | .arrCtrl => .mk 0x4101000000 64 0x1000 0x10 8 1 0x3 0x0 0x0 0x0 0x0 0x0
  | .arrSave => .mk 0x4101000000 64 0x1000 0x18 8 1 0x100ffffff 0x0 0x0 0x0 0x0 0x0
  | .arrFault => .mk 0x4101000000 64 0x1000 0x20 8 1 0x0 0xffffffffffffffff 0x0 0x0 0x0 0x0
  | .arrPasses => .mk 0x4101000000 64 0x1000 0x28 8 1 0x0 0x0 0x0 0x0 0xffffffffffffffff 0x0
  | .arrMaccy => .mk 0x4101000000 64 0x1000 0x30 8 1 0x0 0x0 0x0 0x0 0xffffffffffff 0x0
  | .arrPreempt => .mk 0x4101000000 64 0x1000 0x38 8 1 0x0 0x0 0x0 0x0 0xffffffffffffffff 0x0
  | .arrHash => .mk 0x4101000000 64 0x1000 0x40 8 4 0x0 0xffffffffffffffff 0x0 0x0 0x0 0x0
  | .sgeStatus => .mk 0x4101100000 64 0x1000 0x0 8 1 0x0 0x7f07 0x0 0x0 0x0 0x0
  | .sgeCtrl => .mk 0x4101100000 64 0x1000 0x8 8 1 0x1 0x0 0x0 0x0 0x0 0x0
  | .sgeFault => .mk 0x4101100000 64 0x1000 0x10 8 1 0x0 0xffffffffffffff0f 0x0 0x0 0x0 0x0
  | .sgeFlags => .mk 0x4101100000 64 0x1000 0x18 8 1 0x0 0x0 0x0 0x1 0x0 0x0
  | .sgeIcount => .mk 0x4101100000 64 0x1000 0x20 8 1 0x0 0x0 0x0 0x0 0xffffffffffff 0x0
  | .padStatus => .mk 0x4101200000 64 0x1000 0x0 8 1 0x0 0xffff7f07 0x0 0x0 0x0 0x0
  | .padCtrl => .mk 0x4101200000 64 0x1000 0x8 8 1 0xff03 0x0 0x0 0x0 0x0 0x203
  | .padSweep => .mk 0x4101200000 64 0x1000 0x10 8 1 0x0 0x0 0x17f 0x0 0x0 0x0
  | .padEcc => .mk 0x4101200000 64 0x1000 0x18 8 1 0x0 0x0 0x0 0x0 0xffffffffffffffff 0x0
  | .padSpare => .mk 0x4101200000 64 0x1000 0x20 8 1 0x0 0x7ff00003f3f 0x0 0x0 0x0 0x0
  | .padOpfault => .mk 0x4101200000 64 0x1000 0x28 8 1 0x0 0xffffffff0000ff0f 0x0 0x0 0x0 0x0
  | .padWin => .mk 0x4101200000 64 0x1000 0x40 8 8 0x0 0xffffffffffffff 0x0 0x0 0x0 0x0
  | .padLzCfg => .mk 0x4101200000 64 0x1000 0x100 32 16 0x1ffffffffffffff 0x0 0x0 0x0 0x0 0x7f00000000
  | .padLzRd => .mk 0x4101200000 64 0x1000 0x108 32 16 0xffffffff 0x0 0x0 0x0 0x0 0x0
  | .padLzState => .mk 0x4101200000 64 0x1000 0x110 32 16 0x0 0xffffffffffffffff 0x0 0x0 0x0 0x0
  | .padLzCnt => .mk 0x4101200000 64 0x1000 0x118 32 16 0x0 0x0 0x0 0x0 0xffffffffffff 0x0
  | .schStatus => .mk 0x4101300000 64 0x1000 0x0 8 1 0x0 0x1fffff 0x0 0x0 0x0 0x0
  | .schCtrl => .mk 0x4101300000 64 0x1000 0x8 8 1 0x1 0x0 0x0 0x0 0x0 0x0
  | .schNextwin => .mk 0x4101300000 64 0x1000 0x10 8 1 0x0 0xffffffffffffffff 0x0 0x0 0x0 0xffffffffffffffff
  | .schFault => .mk 0x4101300000 64 0x1000 0x18 8 1 0x0 0xffffffffffffff7f 0x0 0x0 0x0 0x0
  | .schStat => .mk 0x4101300000 64 0x1000 0x20 8 1 0x0 0x0 0x0 0x0 0xffffffffffffffff 0x0
  | .schCtx => .mk 0x4101300000 64 0x1000 0x40 8 8 0x0 0xffffffffffffff1f 0x0 0x0 0x0 0x0
  | .memWin => .mk 0x4101400000 64 0x1000 0x0 8 16 0x0 0x1ffffe7ffff 0x0 0x0 0x0 0x0
  | .memStatus => .mk 0x4101500000 1 0x0 0x0 8 1 0x0 0x1ffff0f 0x0 0x0 0x0 0x0
  | .memCtrl => .mk 0x4101500000 1 0x0 0x8 8 1 0xff01 0x0 0x0 0x0 0x0 0x401
  | .memScrub => .mk 0x4101500000 1 0x0 0x10 8 1 0x0 0xffffffffffff0000 0x1 0x0 0x0 0x0
  | .memRepair => .mk 0x4101500000 1 0x0 0x18 8 1 0x0 0x0 0x107ffffff 0x0 0x0 0x0
  | .memChk => .mk 0x4101500000 1 0x0 0x20 8 1 0x0 0x0 0x0 0x0 0xffffffffffffffff 0x0
  | .memStat => .mk 0x4101500000 1 0x0 0x28 8 1 0x0 0x0 0x0 0x0 0xffffffff 0x0
  | .memScrubWin => .mk 0x4101500000 1 0x0 0x30 8 2 0x1ffffe7ffff 0x0 0x0 0x0 0x0 0x0
  | .memCh => .mk 0x4101500000 1 0x0 0x100 8 160 0x0 0x1fff 0x0 0x0 0x0 0x0
  | .memEcc => .mk 0x4101500000 1 0x0 0x600 8 160 0x0 0x0 0x0 0x0 0xffffffffffffffff 0x0
  | .fhpCfg => .mk 0x4101600000 24 0x1000 0x0 8 1 0x0 0xf1f7f 0x0 0x0 0x0 0x0
  | .fhpStatus => .mk 0x4101600000 24 0x1000 0x8 8 1 0x0 0x7 0x0 0x0 0x0 0x0
  | .fhpCtrl => .mk 0x4101600000 24 0x1000 0x10 8 1 0x3fff3f 0x0 0x0 0x0 0x0 0x240014
  | .fhpRxstat => .mk 0x4101600000 24 0x1000 0x18 8 1 0x0 0x0 0x0 0x0 0xffffffffffffffff 0x0
  | .fhpTxstat => .mk 0x4101600000 24 0x1000 0x20 8 1 0x0 0x0 0x0 0x0 0xffffffffffffffff 0x0
  | .fhpMisc => .mk 0x4101600000 24 0x1000 0x28 8 1 0x0 0x0 0x0 0x0 0xffffffffffff 0x0
  | .fhpQ => .mk 0x4101600000 24 0x1000 0x100 8 256 0x7ff3fffff 0x0 0x0 0x0 0x0 0x40000000
  | .fhpTtw => .mk 0x4101600000 24 0x1000 0x900 8 64 0xffff1fffffffffff 0x0 0x0 0x0 0x0 0x0
  | .radStatus => .mk 0x4101700000 4 0x80000 0x0 8 1 0x0 0x3fff0001 0x0 0x0 0x0 0x0
  | .radStat => .mk 0x4101700000 4 0x80000 0x8 8 1 0x0 0x0 0x0 0x0 0xffffffffffffffff 0x0
  | .radStat2 => .mk 0x4101700000 4 0x80000 0x10 8 1 0x0 0x0 0x0 0x0 0xffffffffffffffff 0x0
  | .radAsm => .mk 0x4101700000 4 0x80000 0x18 8 1 0x0 0x7ffff0007ffff 0x0 0x0 0x0 0x0
  | .radFkey => .mk 0x4101700000 4 0x80000 0x10000 8 8192 0x7ffffffff 0x0 0x0 0x0 0x0 0x0
  | .radFact => .mk 0x4101700000 4 0x80000 0x20000 8 8192 0xfffffffffffffff 0x0 0x0 0x0 0x0 0x900000222690000
  | .radFtime => .mk 0x4101700000 4 0x80000 0x30000 8 8192 0x7fffffffffff 0x0 0x0 0x0 0x0 0x80000000000
  | .radFgain => .mk 0x4101700000 4 0x80000 0x40000 8 8192 0x1ffff7f00 0xff 0x0 0x0 0x0 0x0
  | .tenStatus => .mk 0x4101a00000 1 0x0 0x0 8 1 0x0 0x1fff07 0x0 0x0 0x0 0x7f00
  | .tenCtrl => .mk 0x4101a00000 1 0x0 0x8 8 1 0x1ffff 0x0 0x0 0x0 0x0 0x120
  | .tenEnd => .mk 0x4101a00000 1 0x0 0x10 8 1 0xffffffffffffffff 0x0 0x0 0x0 0x0 0xffffffffffffffff
  | .tenPwr => .mk 0x4101a00000 1 0x0 0x18 8 1 0x3ff 0x3ff000f0000 0x0 0x0 0x0 0x0
  | .tenTherm => .mk 0x4101a00000 1 0x0 0x20 8 1 0xffffff 0x1ff000000 0x0 0x0 0x0 0x69645f
  | .tenKeys => .mk 0x4101a00000 1 0x0 0x28 8 1 0x0 0xffffffff00000f3f 0x0 0x0 0x0 0x0
  | .tenMeter => .mk 0x4101a00000 1 0x0 0x30 8 1 0x0 0x0 0x0 0x0 0xffffffffffffffff 0x0
  | .tenStat => .mk 0x4101a00000 1 0x0 0x38 8 1 0x0 0x0 0x0 0x0 0xffffffffffff 0x0
  | .tenGdir => .mk 0x4101a00000 1 0x0 0x40 8 1 0x0 0x3ff001fffff 0x0 0x0 0x0 0x0
  | .tenGstat => .mk 0x4101a00000 1 0x0 0x48 8 1 0x0 0x0 0x0 0x0 0xffffffffffffffff 0x0
  | .tenGjq => .mk 0x4101a00000 1 0x0 0x80 8 4 0x0 0x0 0xffffffffffffffff 0x0 0x0 0x0
  | .tenGtab => .mk 0x4101a00000 1 0x0 0x100 8 64 0x3fffffffffffffff 0x0 0x0 0x0 0x0 0x0
  | .fabStatus => .mk 0x4101b00000 1 0x0 0x0 8 1 0x0 0x7ffff07 0x0 0x0 0x0 0x0
  | .fabCtrl => .mk 0x4101b00000 1 0x0 0x8 8 1 0x7fff0000001f 0x0 0x0 0x0 0x0 0x307b00000000
  | .fabStat => .mk 0x4101b00000 1 0x0 0x10 8 1 0x0 0x0 0x0 0x0 0xffffffffffffffff 0x0
  | .fabStat2 => .mk 0x4101b00000 1 0x0 0x18 8 1 0x0 0x0 0x0 0x0 0xffffffffffffffff 0x0
  | .fabTwin => .mk 0x4101b00000 1 0x0 0x20 8 1 0x0 0xffffffffffff3f02 0x0 0x1 0x0 0x0
  | .fabGw => .mk 0x4101b00000 1 0x0 0x28 8 1 0xffffffffff 0x0 0x0 0x0 0x0 0x400000ba71
  | .fabPeer => .mk 0x4101b00000 1 0x0 0x40 8 8 0x0 0x70f 0x0 0x0 0x0 0x0
  | .fabClink => .mk 0x4101b00000 1 0x0 0x100 8 7 0x0 0x73fffff 0x0 0x0 0x0 0x0
  | .fabBarA => .mk 0x4101b00000 1 0x0 0x200 16 16 0x0 0xffffffffffffffff 0x0 0x0 0x0 0x0
  | .fabBarB => .mk 0x4101b00000 1 0x0 0x208 16 16 0x0 0xff07 0x0 0x0 0x0 0x0
  | .fabLpeerA => .mk 0x4101b00000 1 0x0 0x400 32 64 0xffffffffffffffff 0x0 0x0 0x0 0x0 0x0
  | .fabLpeerB => .mk 0x4101b00000 1 0x0 0x408 32 64 0xffffffffffffffff 0x0 0x0 0x0 0x0 0x0
  | .fabLpeerC => .mk 0x4101b00000 1 0x0 0x410 32 64 0x1ffff 0x20000 0x0 0x0 0x0 0x0
  | .fabLpeerD => .mk 0x4101b00000 1 0x0 0x418 32 64 0x0 0x0 0x0 0x0 0x0 0x0
  | .fabLmap => .mk 0x4101b00000 1 0x0 0x1000 8 512 0xfff7f 0x0 0x0 0x0 0x0 0x0
  | .fabOkey => .mk 0x4101b00000 1 0x0 0x2000 8 128 0xffff 0x0 0x0 0x0 0x0 0x0
  | .fabReg => .mk 0x4101b00000 1 0x0 0x8000 8 4096 0xffff000fffff 0x0 0x0 0x0 0x0 0x0
  | .ctlStatus => .mk 0x4101c00000 1 0x0 0x0 8 1 0x0 0xffff 0x0 0x0 0x0 0x0
  | .ctlRole => .mk 0x4101c00000 1 0x0 0x8 8 1 0x0 0x77777777 0x0 0x0 0x0 0x0
  | .ctlLast => .mk 0x4101c00000 1 0x0 0x10 8 1 0x0 0xffffffffffffffff 0x0 0x0 0x0 0x0
  | .ctlLastset => .mk 0x4101c00000 1 0x0 0x18 8 1 0x0 0xffffffffffffffff 0x0 0x0 0x0 0x0
  | .ctlHb => .mk 0x4101c00000 1 0x0 0x40 8 8 0x0 0xffffffffff 0x0 0x0 0x0 0x0
  | .ctlPendA => .mk 0x4101c00000 1 0x0 0x100 16 20 0x0 0xffffffffffffffff 0x0 0x0 0x0 0x0
  | .ctlPendB => .mk 0x4101c00000 1 0x0 0x108 16 20 0x0 0x1ff 0x0 0x0 0x0 0x0
  | .mbxArmed => .mk 0x4101d00000 1 0x0 0x0 8 4 0x0 0xffffffffffffffff 0x0 0x0 0x0 0x0
  | .mbxStat => .mk 0x4101d00000 1 0x0 0x20 8 1 0x0 0x0 0x0 0x0 0xffffffffffffffff 0x0
  | .mbxOwner => .mk 0x4101d00000 1 0x0 0x100 8 256 0x0 0xffffffff7fffffff 0x0 0x0 0x0 0x0
  | .secStatus => .mk 0x4101e00000 1 0x0 0x0 8 1 0x0 0xfff0f 0x0 0x0 0x0 0x0
  | .secCnt => .mk 0x4101e00000 1 0x0 0x8 8 1 0x0 0xffffffffffffffff 0x0 0x0 0x0 0x0
  | .secSpdm => .mk 0x4101e00000 1 0x0 0x10 8 1 0x0 0xfffffffff 0x0 0x0 0x0 0x0
  | .pciStatus => .mk 0x4101f00000 1 0x0 0x0 8 1 0x0 0x7f0fff 0x0 0x0 0x0 0x1e0000
  | .pciB4base => .mk 0x4101f00000 1 0x0 0x8 8 1 0xff 0x0 0x0 0x0 0x0 0x0
  | .pciDbgwin => .mk 0x4101f00000 1 0x0 0x10 8 1 0x1ffffff000000 0x0 0x0 0x0 0x0 0x0
  | .pciStat => .mk 0x4101f00000 1 0x0 0x18 8 1 0x0 0x0 0x0 0x0 0xffffffffffffffff 0x0
  | .pkgStatus => .mk 0x4102000000 1 0x0 0x0 8 1 0x0 0x7f 0x0 0x0 0x0 0x1
  | .pkgTemp => .mk 0x4102000000 1 0x0 0x8 8 1 0x0 0x3fffffff 0x0 0x0 0x0 0x0
  | .pkgCool => .mk 0x4102000000 1 0x0 0x10 8 1 0x0 0x70fff0fff 0x0 0x0 0x0 0x0
  | .pkgClk => .mk 0x4102000000 1 0x0 0x18 8 1 0x0 0x1ff 0x0 0x0 0x0 0x0
  | .pkgStat => .mk 0x4102000000 1 0x0 0x20 8 1 0x0 0x0 0x0 0x0 0xffffffffffff 0x0
  | .pkgRail => .mk 0x4102000000 1 0x0 0x100 8 13 0x0 0x1ffffffffffff 0x0 0x0 0x0 0x0

/-- Every register name. -/
def regNames : List RegName :=
  List.flatten [
    [.atbNow, .atbCtrl, .atbState, .atbOffset, .atbFreq, .atbServo, .atbHold, .atbFrameOffset, .atbSnap, .atbSnapNow, .atbSnapF0, .atbSnapF1],
    [.atbSnapMf, .atbPstart, .atbTod, .atbPtpMaster, .atbStat, .atbTscorr, .arrId, .arrStatus, .arrCtrl, .arrSave, .arrFault, .arrPasses],
    [.arrMaccy, .arrPreempt, .arrHash, .sgeStatus, .sgeCtrl, .sgeFault, .sgeFlags, .sgeIcount, .padStatus, .padCtrl, .padSweep, .padEcc],
    [.padSpare, .padOpfault, .padWin, .padLzCfg, .padLzRd, .padLzState, .padLzCnt, .schStatus, .schCtrl, .schNextwin, .schFault, .schStat],
    [.schCtx, .memWin, .memStatus, .memCtrl, .memScrub, .memRepair, .memChk, .memStat, .memScrubWin, .memCh, .memEcc, .fhpCfg],
    [.fhpStatus, .fhpCtrl, .fhpRxstat, .fhpTxstat, .fhpMisc, .fhpQ, .fhpTtw, .radStatus, .radStat, .radStat2, .radAsm, .radFkey],
    [.radFact, .radFtime, .radFgain, .tenStatus, .tenCtrl, .tenEnd, .tenPwr, .tenTherm, .tenKeys, .tenMeter, .tenStat, .tenGdir],
    [.tenGstat, .tenGjq, .tenGtab, .fabStatus, .fabCtrl, .fabStat, .fabStat2, .fabTwin, .fabGw, .fabPeer, .fabClink, .fabBarA],
    [.fabBarB, .fabLpeerA, .fabLpeerB, .fabLpeerC, .fabLpeerD, .fabLmap, .fabOkey, .fabReg, .ctlStatus, .ctlRole, .ctlLast, .ctlLastset],
    [.ctlHb, .ctlPendA, .ctlPendB, .mbxArmed, .mbxStat, .mbxOwner, .secStatus, .secCnt, .secSpdm, .pciStatus, .pciB4base, .pciDbgwin],
    [.pciStat, .pkgStatus, .pkgTemp, .pkgCool, .pkgClk, .pkgStat, .pkgRail]]

/-- The device address of a register. -/
def Reg.addr (r : Reg) : Nat :=
  let w := regRow r.name
  w.base + r.blk * w.bstep + w.off + r.idx * w.step

/-- Whether the block number and the index name a register that exists. -/
def Reg.valid (r : Reg) : Bool :=
  decide (r.blk < (regRow r.name).nblk) && decide (r.idx < (regRow r.name).count)

/-- The register of a name at a device address. -/
def regAt (a : Nat) (n : RegName) : Option Reg :=
  let w := regRow n
  let o := a - w.base
  let b := if w.bstep = 0 then 0 else o / w.bstep
  let p := o - b * w.bstep - w.off
  let r : Reg := ⟨n, b, p / w.step⟩
  if r.valid && decide (r.addr = a) then some r else none

/-- The register at a device address (R10: no register outside the blocks exists). -/
def Reg.ofAddr (a : Nat) : Option Reg := regNames.findSome? (regAt a)

/-- The reset value of a register. The map's constants, and the fields whose reset names the index. -/
def Reg.reset (r : Reg) : W64 :=
  match r.name with
  | .ctlRole => 0x76543210#64                              -- POS_Fn is n (R436)
  | .ctlHb => BitVec.ofNat 64 (r.idx * 2 ^ 32)             -- ROLE is n (R436)
  | .mbxOwner => if r.idx ≤ 7 then 1#64 else 0#64          -- KIND is manager for n ≤ 7 (R465)
  | .arrId => BitVec.ofNat 64 (r.blk * 2 ^ 8)              -- LTILE is t (R88)
  | n => BitVec.ofNat 64 (regRow n).reset

end Sys2Proof.Machine
end

