-- ==== Sys2Proof/Machine/TimeState.lean ====
section
/-!
DEFINITION. The time base's state beside its registers (R34-R59): the count, its local copies, the
servo and the sources.
-/
namespace Sys2Proof.Machine

/-- The servo's own state (R49-R52). -/
structure Servo where
  /-- samples in a row with |offset| at most LOCK_THR -/
  lockCount : Nat := 0
  /-- LOCKED was reached since reset -/
  everLocked : Bool := false
  /-- the next sample is the first one in ACQUIRING (R50) -/
  first : Bool := false
  /-- outliers in a row that agree, and the first of them (R49) -/
  outliers : Nat := 0
  outlierRef : Int := 0
  /-- the next sample is the first one on a new slave port (R52) -/
  switched : Bool := false
  /-- samples taken so far; the filter's history, newest first (log entry 13) -/
  history : List Int := []
  /-- when the present holdover state was entered, and HOLD_EST then (R55) -/
  holdSince : W64 := 0
  holdBase : Nat := 0
  deriving DecidableEq, Repr

/-- A master heard on a PTP port (R43, R49, R52): its Announces in a row from an acceptable clockClass, up to 3, and the
last one's instant. -/
structure Master where
  port : Fin 16
  sender : BitVec 80
  dataSet : Bytes := []
  count : Nat := 0
  last : W64 := 0
  deriving DecidableEq, Repr

/-- The sources' state (R46, R49, R52). -/
structure Sources where
  /-- the masters heard, and the one that the best master selection chose on the slave port -/
  masters : List Master := []
  selected : Option (BitVec 80) := none
  /-- the time source is qualified -/
  timeOk : Bool := false
  /-- 1PPS edges with a good frame in a row, and edges missing or without one in a row -/
  ppsGood : Nat := 0
  ppsBad : Nat := 0
  /-- SECONDS of the last good ToD frame plus the edges since, and whether a frame came since the last edge -/
  todSeconds : Option Nat := none
  todFresh : Bool := false
  /-- a ToD frame, good or bad, came since the last edge -/
  todCame : Bool := false
  /-- the last 1PPS edge, or the predicted cycle of one that was missing; none before the first one and after a loss -/
  lastPps : Option W64 := none
  synceOk : Bool := false
  tenMhzOk : Bool := false
  /-- the quality level received on the SyncE input -/
  rxQl : Ql := .dnu
  /-- instants of the last Announce of the selected master, usable Sync sample and ESMC message -/
  lastAnnounce : W64 := 0
  lastSample : W64 := 0
  lastEsmc : W64 := 0
  /-- the loss timers are paused while M0 is stopped (R54) -/
  paused : Bool := true
  deriving DecidableEq, Repr

/-- The time base. -/
structure TimeState where
  /-- the master count (R34, R36) -/
  now : W64
  /-- differences of the local copies of the 72 stops and, from 72 up, of the rim dies (R59) -/
  copies : Tab W64 := []
  servo : Servo := {}
  src : Sources := {}
  /-- the quality level that each SyncE-enabled port transmits (R45) -/
  txQl : Vector Ql 16 := Vector.replicate 16 .eec1
  /-- the PPS_OUT pin, and the cycle of its last rise (R47, R530) -/
  ppsOut : Bool := false
  ppsRose : W64 := 0
  /-- the ends of the memory frames whose fronthaul timestamps are invalid, of each rim die (R59) -/
  badFrames : List (Nat × W64) := []
  deriving DecidableEq, Repr

end Sys2Proof.Machine
end

