-- ==== Sys2Proof/Machine/State.lean ====
section
/-!
DEFINITION. The state of the part, what leaves it, the outcomes' reasons, and the state after reset.
-/
namespace Sys2Proof.Machine

/-- What leaves the part (log entry 2), one constructor per kind of output. -/
inductive Emit where
  /-- a PTP message sent on a fronthaul port to the group address that MCAST selects; a Sync carries its egress timestamp
  in 1/16 cy (R43, R44) -/
  | ptp (port : Fin 16) (k : PtpTx) (mcast : Bool) (stamp : Option Nat)
  /-- an ESMC message: its port, quality level, and whether it is an event message (R45) -/
  | esmc (port : Fin 16) (ql : Ql) (event : Bool)
  /-- a PTP Delay_Resp for a Delay_Req that arrived at a master port (R43) -/
  | delayResp (port : Fin 16) (mcast : Bool) (arrival : Int)
  /-- the PPS_OUT pin changes (R47, R530) -/
  | ppsOut (level : Bool)
  /-- the completion of a host read (R41, R510) -/
  | hostData (b : Bytes)
  /-- a mailbox reply is written by DMA (R447) -/
  | reply (r : Reply)
  /-- an event record is written at a host address, and the producer index after it (R462) -/
  | event (addr : Nat) (index lost : Nat) (e : Event) (prod : Nat)
  /-- an MSI-X vector of PF0 is sent -/
  | msix (vec : Nat)
  /-- bytes written to host memory under a PASID: a seal chunk or a report (R511) -/
  | hostWrite (addr : Nat) (b : Bytes) (pasid : Option Nat)
  /-- the rows of a remote zone read reach their source (R169) -/
  | zoneData (src : Nat) (tile : LTile) (zone : Fin 16) (unit : BitVec 32) (rows : List (Row × Bool))
  /-- a frame starts on an Ethernet port: its first lane, its bytes without FCS, its instant (R273) -/
  | frame (lane : Fin 24) (b : Bytes) (at_ : W64) (mdi16 : Nat)
  /-- a Krovbem frame leaves a clutch port: the cycle in which it leaves, which is a TIME frame's t1 or t3 (R400), that in which it
  reaches the peer's rim die, what it carries, and its 96 bytes (R365) -/
  | krovbem (port : Fin 7) (sent reach : W64) (m : KMsg) (bytes : Bytes)
  /-- an MSI vector of PF1 is sent -/
  | msi (vec : Nat)
  /-- the completion of a host read of a poisoned line (R510) -/
  | hostPoison
  /-- the completion of a host request that the part does not support (R3, R506) -/
  | hostUr
  /-- an SPDM response, or ERROR with its code (R496) -/
  | spdm (tr : Transport) (b : Bytes)
  | spdmError (tr : Transport) (code : Nat)
  /-- what the test access port shifts out (R503) -/
  | tap (v : Nat)
  /-- the completion of an ATS invalidation (R506) -/
  | atsDone
  deriving DecidableEq, Repr

/-- Reasons to stop. The part never stops the machine: its faults are records and status (R466); log entry 9. -/
inductive Fault where
  /-- Raised by no command: the interface asks for a fault type, and every command of the part answers a next
  state. Safe: nothing is cut off. -/
  | noFault
  deriving DecidableEq, Repr

/-- Reasons to refuse a command. -/
inductive Refusal where
  /-- Raised by exec for a command without a meaning. Safe: the run ends. -/
  | notModelled (mnemonic : String)
  deriving DecidableEq, Repr

/-- The state of the part. -/
structure State where
  regs : List (Reg × W64)
  time : TimeState
  tiles : Vector Tile 64
  pads : Vector Pad 68
  tileMap : Vector PTile 64
  mesh : Mesh
  mem : Mem
  ten : Tenancy
  ctl : Control
  mbx : Mailbox
  cores : Cores
  log : ErrLog
  ports : Tab PortSt
  radio : Radio
  fab : Fabric
  boot : Boot
  spdm : Spdm
  pci : Pci
  pkg : Pkg
  tests : List SelfTest
  /-- the board description that M0 has loaded (R41) -/
  board : Board
  out : List Emit
  freeCount : Nat
  pending : List Instr
  deriving DecidableEq, Repr

/-- The physical tile of stop (x, y) (R18); 68 for the four stops that are not tiles (R17). -/
def tileAt (x y : Nat) : Nat :=
  if y ≤ 1 then 9 * y + x
  else if y ≤ 5 then
    if x = 4 then 68 else 9 * y + x - (y - 2) - (if 4 < x then 1 else 0)
  else 9 * y + x - 4

/-- The stop (x, y) of a logical tile in the default map (R19). -/
def defaultStop (t : Nat) : Nat × Nat :=
  let q := t / 16
  let r := t % 16
  (r % 4 + (if q % 2 = 1 then 5 else 0), r / 4 + (if 2 ≤ q then 4 else 0))

/-- The default tile map (R19). -/
def defaultMap : Vector PTile 64 :=
  Vector.ofFn fun (t : Fin 64) => fin 68 (tileAt (defaultStop t).1 (defaultStop t).2)

/-- The spares of the default map (R19): p4, p13, p54, p63. -/
def defaultSpares : List Nat := [4, 13, 54, 63]

/-- The pads after reset: every row reads tag 0x7F (R159) and data 0 (log entry 6). -/
def resetPads : Vector Pad 68 :=
  Vector.ofFn fun (p : Fin 68) => if p.val ∈ defaultSpares then { stat := .spare } else {}

/-- The state right after reset (R534: nothing survives PORST# but the board flash, whose contents a log entry 5 gives).
The ATB reads 0 (log entry 4), every register its reset value, memory lists nothing. -/
def State.reset : State :=
  { regs := [], time := { now := 0 }, tiles := Vector.replicate 64 {}, pads := resetPads, tileMap := defaultMap,
    mesh := {}, mem := {}, ten := {}, ctl := {}, mbx := {}, cores := {}, log := {}, ports := [], radio := {}, fab := {},
    boot := {}, spdm := {}, pci := {}, pkg := {}, tests := [], board := {}, out := [], freeCount := 0, pending := [] }

end Sys2Proof.Machine
end

