-- ==== Sys2Proof/Machine/Ops.lean ====
section
/-!
DEFINITION. The named operations that the meanings share: registers, the error log, output, time, tiles.
-/
namespace Sys2Proof.Machine

/-- The outcome of a command. -/
abbrev Res := Host.Outcome State Fault Refusal

/-- A command whose event happens only under a condition: otherwise nothing changes (log entry 8). -/
def guarded (c : Bool) (f : State → State) (s : State) : Res := .next (if c then f s else s)

/-! ## Registers -/

/-- The value listed for a register. -/
def rfind (r : Reg) : List (Reg × W64) → Option W64
  | [] => none
  | (q, v) :: l => if q = r then some v else rfind r l

/-- The list without a register. -/
def rdel (r : Reg) : List (Reg × W64) → List (Reg × W64)
  | [] => []
  | (q, v) :: l => if q = r then rdel r l else (q, v) :: rdel r l

/-- The list with a register's value, in the order of device addresses. -/
def rput (r : Reg) (v : W64) : List (Reg × W64) → List (Reg × W64)
  | [] => [(r, v)]
  | (q, w) :: l =>
    if q = r then (r, v) :: l
    else if r.addr < q.addr then (r, v) :: (q, w) :: l
    else (q, w) :: rput r v l

/-- The stored value of a register: its entry, or its reset value. -/
def State.rget (s : State) (r : Reg) : W64 := (rfind r s.regs).getD r.reset

/-- A register set to a value. -/
def State.rset (s : State) (r : Reg) (v : W64) : State :=
  { s with regs := if v = r.reset then rdel r s.regs else rput r v s.regs }

/-- A field of a register. -/
def State.fget (s : State) (r : Reg) (hi lo : Nat) : Nat := bits (s.rget r) hi lo

/-- A field of a register set. -/
def State.fset (s : State) (r : Reg) (hi lo v : Nat) : State := s.rset r (putBits (s.rget r) hi lo v)

/-- A counter field increased, saturating. -/
def State.finc (s : State) (r : Reg) (hi lo : Nat) (k : Nat := 1) : State := s.rset r (satAdd (s.rget r) hi lo k)

/-- A register of a tile's block. -/
abbrev treg (n : RegName) (t : LTile) (i : Nat := 0) : Reg := ⟨n, t.val, i⟩

/-- A register of a block that the part has once. -/
abbrev creg (n : RegName) (i : Nat := 0) : Reg := ⟨n, 0, i⟩

/-! ## Output, time, free values -/

/-- Something leaves the part. -/
def State.emit (s : State) (e : Emit) : State := { s with out := e :: s.out }

/-- The ATB (R34). -/
abbrev State.now (s : State) : W64 := s.time.now

/-- A free value is drawn: its number, and the counter advanced (log entry 1). -/
def State.draw (s : State) : Nat × State := (s.freeCount, { s with freeCount := s.freeCount + 1 })

/-- The GPS epoch in ATB cycles (R37). -/
def gps : Nat := 621212111339520000

/-- The signed frame offset F (R37, R38). -/
def State.frameOff (s : State) : Int := sbits (s.rget (creg .atbFrameOffset)) 39 0

/-- `off = v - G - F mod 20,132,659,200` (R39) for a frame offset. -/
def sfnOff (f : Int) (v : W64) : Nat := (((v.toNat : Int) - gps - f) % 20132659200).toNat

/-- The offset of `v` in its SFN period. -/
def State.off (s : State) (v : W64) : Nat := sfnOff s.frameOff v

/-- Whether `v` is the start of a memory frame (R40). -/
def State.mfStart (s : State) (v : W64) : Bool := decide (s.off v % 8192 = 0)

/-- Whether `v` is the start of a mu1 slot. -/
def State.slotStart (s : State) (v : W64) : Bool := decide (s.off v % 983040 = 0)

/-- Whether `v` is the start of a mu0 slot. -/
def State.slot0Start (s : State) (v : W64) : Bool := decide (s.off v % 1966080 = 0)

/-- The first mu1 slot start at or after `v`. -/
def State.nextSlot (s : State) (v : W64) : W64 :=
  v + BitVec.ofNat 64 ((983040 - s.off v % 983040) % 983040)

/-- The radio phase of a cycle (R190). -/
def State.phase (s : State) (v : W64) : Nat := s.off v % 64

/-- The interval of R479 that a cycle lies in, for intervals of `sec` seconds. -/
def interval (v : W64) (sec : Nat) : Nat := v.toNat / (1966080000 * sec)

/-! ## The error log (R477-R481) -/

/-- What a rule says of the record it writes; unused fields as R478 has them. -/
structure Rec where
  cls : Cls
  unit : Nat
  code : Code
  owners : List Owner := [.manager]
  ltile : Nat := 0xFF
  ptile : Nat := 0xFF
  object : Nat := 0
  kernel : Nat := 0
  detail : Bytes := []
  /-- the rate limit: (kind of X, X, seconds of the interval) -/
  limit : Option (Nat × Nat × Nat) := none
  deriving DecidableEq, Repr

/-- SCOPE of an owner (R478). -/
def Owner.scope : Owner → Nat
  | .management => 0 | .manager => 1 | .slice _ => 2 | .tenant => 3

/-- OWNER of a record: slice number or epoch tag, else 0xFF (R478). -/
def Owner.number (tag : Nat) : Owner → Nat
  | .slice n => n | .tenant => tag | _ => 0xFF

/-- A record appended to a view with room for `cap` records (R477). -/
def View.add (v : View) (cap : Nat) (r : LogRec) : View :=
  { next := v.next + 1, recs := (({ r with index := v.next } : LogRec) :: v.recs).take cap }

/-- A record written to the view of one owner. -/
def ErrLog.addOwner (l : ErrLog) (r : LogRec) : Owner → ErrLog
  | .slice n => { l with slices := tput n ((tget {} l.slices n).add 256 r) l.slices }
  | .tenant => { l with tenant := l.tenant.add 4096 r }
  | _ => l

/-- The class counters and the first UF record (R480), saturating at 32 bits. -/
def ErrLog.count (l : ErrLog) (r : LogRec) : ErrLog :=
  let inc (n : Nat) : Nat := Nat.min (2 ^ 32 - 1) (n + 1)
  match r.cls with
  | .ce => { l with ceCount := inc l.ceCount }
  | .uc => { l with ucCount := inc l.ucCount }
  | .us => { l with usCount := inc l.usCount }
  | .uf => { l with ufCount := inc l.ufCount, firstUf := if l.firstUf.isNone then some r else l.firstUf }

/-- A record written in the management view, in the manager view unless it is management-only, and in the view of
each owner (R477, R478). -/
def State.writeRec (s : State) (r : Rec) (withheld : Nat) : State :=
  let mo := decide (r.owners = [.management])
  let o := r.owners.headD .manager
  let lr : LogRec := {
    index := s.log.mgmt.next, atb := s.now, cls := r.cls, mgmtOnly := mo, scope := o.scope,
    owner := o.number s.ten.tag, unit := r.unit, code := r.code, suppressed := Nat.min 0xFFFF withheld,
    ltile := r.ltile, ptile := r.ptile, object := r.object, kernel := r.kernel, detail := r.detail }
  let l := s.log.count lr
  let l := { l with mgmt := l.mgmt.add 32768 lr }
  let l := if mo then l else { l with manager := l.manager.add 16384 lr }
  { s with log := r.owners.foldl (fun l o => l.addOwner { lr with scope := o.scope, owner := o.number s.ten.tag } o) l }

/-- The limit kept for a key. -/
def findLimit (k : LimitKey) (l : List Limit) : Option Limit := l.find? fun x => decide (x.key = k)

/-- The limits with one replaced. -/
def putLimit (n : Limit) (l : List Limit) : List Limit := n :: l.filter fun x => decide (x.key ≠ n.key)

/-- An event that writes a record under its rate limit (R479). -/
def State.logRec (s : State) (r : Rec) : State :=
  match r.limit with
  | none => s.writeRec r 0
  | some (kind, x, sec) =>
    let k : LimitKey := ⟨r.code, kind, x⟩
    let i := interval s.now sec
    match findLimit k s.log.limits with
    | some l =>
      if l.interval = i then
        { s with log := { s.log with limits := putLimit { l with withheld := l.withheld + 1 } s.log.limits } }
      else
        let s := s.writeRec r l.withheld
        { s with log := { s.log with limits := putLimit ⟨k, i, 0⟩ s.log.limits } }
    | none =>
      let s := s.writeRec r 0
      { s with log := { s.log with limits := putLimit ⟨k, i, 0⟩ s.log.limits } }

/-- The rate limit "1/s per X": the kinds of X. -/
def perX (kind x : Nat) : Option (Nat × Nat × Nat) := some (kind, x, 1)

/-- The owners of a record about something with an owner tag (R153). -/
def ownersOf (tag : Nat) : List Owner :=
  if h : tag < 64 then [.slice ⟨tag, h⟩] else if tag < 0x7F then [.tenant] else [.manager]

/-! ## Tiles -/

/-- A tile changed. -/
def State.modTile (s : State) (t : LTile) (f : Tile → Tile) : State := { s with tiles := vmod s.tiles t f }

/-- The physical tile of a logical tile (R12). -/
abbrev State.ptile (s : State) (t : LTile) : PTile := s.tileMap.get t

/-- The pad of a logical tile. -/
abbrev State.pad (s : State) (t : LTile) : Pad := s.pads.get (s.ptile t)

/-- A physical pad changed. -/
def State.modPad (s : State) (p : PTile) (f : Pad → Pad) : State := { s with pads := vmod s.pads p f }

/-- A context's task. -/
abbrev State.ctx (s : State) (t : LTile) (c : CtxNo) : Option TaskCtx := (s.tiles.get t).ctx.get c

/-- A context set. -/
def State.setCtx (s : State) (t : LTile) (c : CtxNo) (k : Option TaskCtx) : State :=
  s.modTile t fun x => { x with ctx := x.ctx.set c k }

/-- A context's task changed, where it holds one. -/
def State.modCtx (s : State) (t : LTile) (c : CtxNo) (f : TaskCtx → TaskCtx) : State :=
  match s.ctx t c with
  | some k => s.setCtx t c (some (f k))
  | none => s

/-- The image of a task (R215). -/
def State.imageOf (s : State) : ImgOf → Option Image
  | .slice n => (s.ctl.slices.get n).image
  | .epoch => s.ten.image

/-- Tenant activity of the present power interval (R342). -/
def State.act (s : State) (f : Activity → Activity) : State := { s with ten := { s.ten with activity := f s.ten.activity } }

/-! ## Writes by agents -/

/-- The Fenen role that owns a tile (R21). -/
def tileOwner (t : LTile) : Nat := t.val / 16

/-- The bits of a register that a write can reach. -/
def Reg.writable (r : Reg) : Nat := let w := regRow r.name; w.rw ||| w.wo ||| w.w1c

/-- The bits under some access code; every other bit is reserved (R11). -/
def Reg.defined (r : Reg) : Nat := let w := regRow r.name; w.rw ||| w.ro ||| w.wo ||| w.w1c ||| w.rc

/-- The CE record of code 0x0405 for a register (R11, R481): a reserved bit, or a write without rights. -/
def State.regRec (s : State) (r : Reg) : State :=
  s.logRec { cls := .ce, unit := 12, code := .num 0x0405, limit := perX 0 r.addr }

/-- A write of `v` under the access codes (00_scope): RW bits take the value, W1C bits clear where it is 1. -/
def Reg.store (r : Reg) (old v : W64) : W64 :=
  let w := regRow r.name
  let keep := 2 ^ 64 - 1 - w.rw - w.w1c
  BitVec.ofNat 64 ((old.toNat &&& keep) + (v.toNat &&& w.rw) + (old.toNat &&& w.w1c &&& (2 ^ 64 - 1 - v.toNat % 2 ^ 64)))

end Sys2Proof.Machine
end

