-- ==== Sys2Proof/Machine/Windows.lean ====
section
/-!
DEFINITION. Radio windows and flows in force at an instant (R199-R204, R218, R219), from the committed
images and the pending commits, and what depends on the next window opening of a tile.
-/
namespace Sys2Proof.Machine

/-- The later of two cycles. -/
def later (a b : W64) : W64 := if a < b then b else a

/-! ## Window and flow entries (R218, R219) -/

def winTile (b : Bytes) : Nat := fld b 0 1
/-- PERIOD: 240 memory frames, else 120. -/
def winPeriod (b : Bytes) : Nat := if fld b 1 1 % 2 = 1 then 240 else 120
def winStart (b : Bytes) : Nat := fld b 2 2
def winLen (b : Bytes) : Nat := fld b 4 2
def winTask (b : Bytes) : Nat := fld b 6 2
def winBudget (b : Bytes) : Nat := fld b 8 4

/-- A window in force: its slice, its index in the slice's image, and its entry. -/
structure Win where
  slice : Fin 64
  idx : Nat
  entry : Bytes
  deriving DecidableEq, Repr

/-- The image that settings leave a slice with. -/
def imageAfter (img : Option Image) : List Setting → Option Image
  | [] => img
  | .image i _ :: r => imageAfter (some i) r
  | .delete :: r => imageAfter none r
  | _ :: r => imageAfter img r

/-- The image of a slice in force at instant `v`: the committed one, and every pending commit with an instant at
or before `v` applied (R203). -/
def State.imageAt (s : State) (v : W64) (n : Fin 64) : Option Image :=
  (s.ctl.pend.filter fun p => decide (p.set = .slice n) && decide (p.x ≤ v)).foldl
    (fun i p => imageAfter i p.settings) (s.ctl.slices.get n).image

/-- The slices with an image, now or through a pending commit. -/
def State.imaged (s : State) : List (Fin 64) :=
  (List.finRange 64).filter fun n => (s.ctl.slices.get n).image.isSome || s.ctl.pend.any fun p => decide (p.set = .slice n)

/-- The windows of a tile in force at instant `v`. -/
def State.windowsAt (s : State) (v : W64) (t : LTile) : List Win :=
  (s.imaged.map fun n => match s.imageAt v n with
    | none => []
    | some i => ((List.range i.wins.length).zip i.wins).filterMap fun (k, e) =>
        if winTile e = t.val then some (⟨n, k, e⟩ : Win) else none).flatten

/-- The start of the period of a window that `v` lies in (R199). -/
def State.periodStart (s : State) (v : W64) (period : Nat) : W64 :=
  v - BitVec.ofNat 64 (s.off v % (period * 8192))

/-- The window of a tile that is open in cycle `v`, with its opening cycle and its closing cycle V + L. -/
def State.openWindow (s : State) (v : W64) (t : LTile) : Option (Win × W64 × W64) :=
  (s.windowsAt v t).findSome? fun w =>
    let o := s.periodStart v (winPeriod w.entry) + BitVec.ofNat 64 (8192 * winStart w.entry)
    let c := o + BitVec.ofNat 64 (8192 * winLen w.entry)
    if o ≤ v ∧ v < c then some (w, o, c) else none

/-- Whether a radio window of a tile is open in cycle `v`. -/
def State.inWindow (s : State) (v : W64) (t : LTile) : Bool := (s.openWindow v t).isSome

/-- The first opening at or after `v` of one window. -/
def State.nextOf (s : State) (v : W64) (e : Bytes) : W64 :=
  let o := s.periodStart v (winPeriod e) + BitVec.ofNat 64 (8192 * winStart e)
  if v ≤ o then o else o + BitVec.ofNat 64 (8192 * winPeriod e)

/-- The smaller of two optional instants. -/
def minAt (a b : Option (W64 × W64)) : Option (W64 × W64) :=
  match a, b with
  | none, b => b
  | a, none => a
  | some x, some y => if y.1 < x.1 then some y else some x

/-- The next opening of a window of a tile at or after `v`, and its closing cycle; staged windows of pending
commits count from their instants (R203). -/
def State.nextWin1 (s : State) (t : LTile) (v : W64) : Option (W64 × W64) :=
  let segs := v :: (s.ctl.pend.filterMap fun p => if v < p.x then some p.x else none)
  segs.foldl (fun best a =>
    (s.windowsAt a t).foldl (fun best w =>
      let o := s.nextOf a w.entry
      -- the opening counts only if the window is still in force then
      if (s.windowsAt o t).contains w then minAt best (some (o, o + BitVec.ofNat 64 (8192 * winLen w.entry))) else best) best) none

/-- The end of the run of windows without a gap that starts with one closing in `c` (R202), followed at most `n` times. -/
def State.spanEnd (s : State) (t : LTile) : Nat → W64 → W64
  | 0, c => c
  | n + 1, c => match s.openWindow c t with
    | some (_, _, d) => s.spanEnd t n d
    | none => c

/-- The next span of windows of a tile that opens at or after `v`: V and V + L (R199, R202). -/
def State.nextSpan (s : State) (t : LTile) (v : W64) : Option (W64 × W64) :=
  (s.nextWin1 t v).map fun (o, c) => (o, s.spanEnd t 240 c)

/-- The span that a cycle must be judged against: the open one, else the next. Its V may lie before `v`. -/
def State.spanAt (s : State) (t : LTile) (v : W64) : Option (W64 × W64) :=
  match s.openWindow v t with
  | some (_, o, c) => some (o, s.spanEnd t 240 c)
  | none => s.nextSpan t v

/-- Memory frames that windows hold on a tile in a mu1 slot (R332). -/
def State.heldFrames (s : State) (t : LTile) : Nat :=
  sumNat ((s.windowsAt s.now t).map fun w => if winPeriod w.entry = 240 then winLen w.entry / 2 else winLen w.entry)

/-! ## Candidates for a swap (R59, R86, R183, R467) -/

/-- The slices with a window on a tile. -/
def State.slicesOn (s : State) (t : LTile) : List (Fin 64) := ((s.windowsAt s.now t).map (·.slice)).eraseDups

/-- A free spare remains. -/
def State.spareLeft (s : State) : Bool := s.pads.toList.any fun p => decide (p.stat = .spare)

/-- The cells of a slice, as a US record names them (R467): the spec gives their place in DETAIL no layout (log entry 55). -/
def State.cellNames (s : State) (n : Fin 64) : Bytes := (Config.serial 6 ((s.ctl.slices.get n).cells.map (·.1))).take 32

/-- The tile is reported as a swap candidate: a UC record, and a US record to each slice with windows on it
when no free spare remains (R467). -/
def State.swapCandidate (s : State) (t : LTile) (unit : Nat) (code : Code) (limit : Option (Nat × Nat × Nat) := none)
    (object : Nat := 0) (detail : Bytes := []) : State :=
  let own := (s.slicesOn t).map Owner.slice
  let s := s.logRec { cls := .uc, unit := unit, code := code, ltile := t, ptile := s.ptile t, owners := if own = [] then [.manager] else own, limit := limit,
                      object := object, detail := detail }
  if s.spareLeft then s
  else (s.slicesOn t).foldl (fun s n => s.logRec { cls := .us, unit := 4, code := .rule 467 1, owners := [.slice n], ltile := t, ptile := s.ptile t, detail := s.cellNames n }) s

end Sys2Proof.Machine
end

