-- ==== Sys2Proof/Machine/Routes.lean ====
section
/-!
DEFINITION. The mesh: stops, routes, the links and ports that flits take in a cycle, and flits sent (R16-R18, R22, R23, R146,
R189-R193, R207, R361).
-/
namespace Sys2Proof.Machine

/-! ## Stops (R17, R18, R162) -/

/-- The stop of a physical tile, numbered 9y + x (R18, R162). -/
def stopOf (p : PTile) : Nat :=
  ((List.range 72).find? fun n => decide (tileAt (n % 9) (n / 9) = p.val)).getD 0

/-- Hops between two stops (R189). -/
def hops (a b : Nat) : Nat :=
  let d (x y : Nat) : Nat := (x - y) + (y - x)
  d (a % 9) (b % 9) + d (a / 9) (b / 9)

/-- The stop of the control cluster (R17). -/
def controlStop : Nat := 31

/-- The stop a source identifier stands at: a rim parser at the middle of its edge (R15, R162; log entry 26). -/
def srcStop (src : Nat) : Nat :=
  if src < 72 then src else if src = 72 then 36 else if src = 73 then 4 else if src = 74 then 44 else 67

/-- The stop of a source or destination coded as in R219, under a tile map. -/
def endStop (map : Vector PTile 64) (d : Nat) : Nat :=
  if h : d < 64 then stopOf (map.get ⟨d, h⟩) else if d < 68 then srcStop (d + 8) else controlStop

/-- The stop of a destination under the map in force. -/
def State.destStop (s : State) (d : Nat) : Nat := endStop s.tileMap d

/-- A code for the source that a source identifier of R162 names: that of R219 for the logical tile at its stop, a parser or the
control cluster, and 128 and its stop for a gather half or the fabric agent. -/
def State.srcCode (s : State) (src : Nat) : Nat :=
  if 72 ≤ src then src - 8
  else if src = controlStop then 68
  else ((List.finRange 64).find? fun t => decide (stopOf (s.ptile t) = src)).elim (128 + src) (·.val)

/-! ## Routes (R22, R189, R190) -/

/-- One step from a stop toward another along one dimension: the link left by, and the next stop. 0 north, 1 east,
2 south, 3 west (R457). -/
def stepX (a b : Nat) : Option (Nat × Nat) :=
  if a % 9 < b % 9 then some (4 * a + 1, a + 1) else if b % 9 < a % 9 then some (4 * a + 3, a - 1) else none
def stepY (a b : Nat) : Option (Nat × Nat) :=
  if a / 9 < b / 9 then some (4 * a + 2, a + 9) else if b / 9 < a / 9 then some (4 * a, a - 9) else none

/-- The links of the radio route between two stops. -/
def routeLinks (xFirst : Bool) : Nat → Nat → Nat → List Nat
  | 0, _, _ => []
  | n + 1, a, b =>
    match (if xFirst then (stepX a b).orElse fun _ => stepY a b else (stepY a b).orElse fun _ => stepX a b) with
    | some (l, c) => l :: routeLinks xFirst n c b
    | none => []

/-- The links of the radio route. -/
def radioRoute (a b : Nat) : List Nat := routeLinks Config.routeXFirst 16 a b

/-- The link cycles that a flow holds (R190). -/
def heldLinks (a b : Nat) (phases : List Nat) : List (Nat × Nat) :=
  let ls := radioRoute a b
  phases.flatMap fun p => ((List.range ls.length).zip ls).map fun (k, l) => (l, (p + 2 + 3 * k) % 64)

/-! ## What radio owns (R190, R193, R361) -/

/-- The slot table and the tile map of a cycle: those in force, or those of the last pending commit whose instant has come by
then (R192). -/
def State.tableAt (s : State) (v : W64) : List FlowSlot × Vector PTile 64 :=
  match (s.mesh.soon.filter fun x => decide (x.1 ≤ v)).getLast? with
  | some x => x.2
  | none => (s.mesh.slots, s.tileMap)

/-- Whether a flow of the table owns the phase of cycle `u` and passes a test of its two stops. -/
def State.flowHolds (s : State) (u : W64) (at_ : Nat → Nat → Bool) : Bool :=
  let x := s.tableAt u
  x.1.any fun f => f.phases.contains (s.phase u) && at_ (endStop x.2 f.src) (endStop x.2 f.dest)

/-- Numbers of links and ports: a link left from a stop in a direction, a stop's landing port, a stop's egress port. -/
def landPort (stop : Nat) : Nat := 288 + stop
def outPort (stop : Nat) : Nat := 360 + stop

/-- Whether a radio flow owns a link, or a port of a stop, in a cycle (R146, R190, R361): a flit injected in cycle I is on link k in
I + 2 + 3k, and is landed in I + 64. -/
def State.radioHolds (s : State) (n : Nat) (v : W64) : Bool :=
  if n < 288 then (List.range 16).any fun k => s.flowHolds (v - BitVec.ofNat 64 (2 + 3 * k)) fun a b => (radioRoute a b)[k]? == some n
  else if n < 360 then s.flowHolds (v - 64) fun _ b => b == n - 288
  else s.flowHolds v fun a _ => a == n - 360

/-- Whether a tenant flit may take a link or a port in a cycle: radio does not own it, and no other tenant flit has it. -/
def State.open_ (s : State) (n : Nat) (v : W64) : Bool := !s.mesh.taken.contains (n, v) && !s.radioHolds n v

/-- The first cycle at or after `v`, of `n` tries, that passes a test. -/
def firstCycle (ok : W64 → Bool) : Nat → W64 → W64
  | 0, v => v
  | n + 1, v => if ok v then v else firstCycle ok n (v + 1)

def State.take (s : State) (n : Nat) (v : W64) : State := { s with mesh := { s.mesh with taken := enq s.mesh.taken (n, v) } }

/-! ## The way of a tenant flit (R22, R207) -/

/-- Ordered mode is in force (R223, R257). -/
def State.orderedMode (s : State) : Bool := s.ten.ordered && decide (s.ten.state ≠ .closed)

/-- The links toward a stop that a tenant flit may take next: both dimensions, or in ordered mode the radio route's (R22, R223). -/
def State.waysTo (s : State) (a b : Nat) : List (Nat × Nat) :=
  let both := (stepX a b).toList ++ (stepY a b).toList
  if s.orderedMode then both.filter fun w => decide ((radioRoute a b).head? = some w.1) else both

/-- A tenant flit at a stop from cycle `v` on: the link cycles that it takes, each the first open one of the links toward its
destination, and the cycle in which it reaches it (log entry 174). -/
def State.walk (s : State) : Nat → Nat → Nat → W64 → List (Nat × W64) × W64
  | 0, _, _, v => ([], v)
  | n + 1, a, b, v =>
    let opts := (s.waysTo a b).map fun w => (w, firstCycle (s.open_ w.1) 4096 v)
    match opts with
    | [] => ([], v)
    | o :: r =>
      let best := r.foldl (fun o p => if p.2 < o.2 then p else o) o
      let x := State.walk s n best.1.2 b (best.2 + 3)
      ((best.1.1, best.2) :: x.1, x.2)

/-- A tenant flit that enters the mesh in cycle `v`: the cycle of its landing, with the links and the landing port that it takes. With
nothing in its way it lands 4 + 3h cycles later (R207). -/
def State.transit (s : State) (a b : Nat) (v : W64) : W64 × State :=
  let w := s.walk 16 a b (v + 2)
  let due := firstCycle (s.open_ (landPort b)) 4096 (w.2 + 2)
  (due, { s with mesh := { s.mesh with taken := s.mesh.taken ++ w.1 ++ [(landPort b, due)] } })

/-! ## Die-to-die links (R196) -/

/-- The stop that a rim die's traffic crosses at (log entry 26), and the link's key. -/
def rimStop (r : Fin 4) : Nat := srcStop (72 + r.val)
def linkKey (r : Fin 4) (stop : Nat) : Nat := 72 * r.val + stop

def State.link (s : State) (k : Nat) : LinkState := tget {} s.mesh.links k

def State.setLink (s : State) (k : Nat) (l : LinkState) : State := { s with mesh := { s.mesh with links := tset {} s.mesh.links k l } }

/-- The cycle in which a direction of a link sends a frame handed over in cycle `h`: at once; behind a replayed frame 64 cycles later;
after the retransmission has begun, in the first free cycle after the frames sent again (R196). -/
def Resend.send (x : Resend) (h : W64) : W64 × Resend :=
  if h < x.upto then (h + 64, { x with tail := if x.tail < h + 64 then h + 64 else x.tail })
  else if h ≤ x.tail then (x.tail + 1, { x with tail := x.tail + 1 })
  else (h, x)

/-- A frame handed to a rim die's link toward the mesh, or from it, in cycle `h`: when the link sends it. -/
def State.handTo (s : State) (r : Fin 4) (toMesh : Bool) (h : W64) : W64 × State :=
  let k := linkKey r (rimStop r)
  let l := s.link k
  let x := (if toMesh then l.into else l.from_).send h
  (x.1, if x.1 = h then s else s.setLink k (if toMesh then { l with into := x.2 } else { l with from_ := x.2 }))

/-! ## Flits sent -/

/-- A flit handed to the mesh. -/
def State.flit (s : State) (due : W64) (p : Payload) (deadline : Option W64 := none) (cross : Option (Fin 4 × W64) := none)
    (sender : Option (LTile × CtxNo) := none) (start : W64 := 0) : State :=
  { s with mesh := { s.mesh with
      flits := enq s.mesh.flits { id := s.mesh.nextId, due := due, deadline := deadline, payload := p, cross := cross, sender := sender, start := start }
      nextId := s.mesh.nextId + 1 } }

/-- A flit that leaves the mesh for a rim die in cycle `h` and crosses its link in 24 cycles (R196). -/
def State.flitOut (s : State) (r : Fin 4) (h : W64) (p : Payload) (deadline : Option W64) (sender : LTile × CtxNo) (start : W64 := 0) : State :=
  let x := s.handTo r false h
  x.2.flit (x.1 + 24) p deadline (some (r, x.1)) (some sender) start

/-- A message of one flit that leaves now on a class: the radio class lands it in 64 cycles (R189), the tenant class as a transfer
issued now (R207). -/
def State.sendOn (s : State) (tenant : Bool) (a b : Nat) (p : Payload) : State :=
  if tenant then let x := s.transit a b (s.now + 1); x.2.flit x.1 p else s.flit (s.now + 64) p

end Sys2Proof.Machine
end

