-- ==== Sys2Proof/Machine/PadOps.lean ====
section
/-!
DEFINITION. The pads (R144-R185): reads and writes under owner tags, sweeps, patrol, regrow, landing zones
and credits.
-/
namespace Sys2Proof.Machine

/-! ## Rows -/

/-- The row number of pad offset `a`: rows in ascending pad offset (R145, R160). -/
abbrev rowOf (a : Nat) : Nat := a / 64

/-- The bank and the row within it of a pad offset (R145). -/
def bankRow (a : Nat) : Nat × Nat := (8 * (a / 2097152) + a / 64 % 8, a / 512 % 4096)

/-- The row number of a bank's row (R145). -/
def rowOfBank (bank row : Nat) : Nat := (bank / 8) * 32768 + row * 8 + bank % 8

/-- The bank of a row number. -/
def bankOf (row : Nat) : Nat := (bankRow (64 * row)).1

/-- The regrown rows of a bank, in order. -/
def Pad.bankMap (p : Pad) (bank : Nat) : List Nat := p.repair.filter fun r => decide (bankOf r = bank)

/-- The spare that serves a row: that of its last regrow (R181). -/
def Pad.spareOf (p : Pad) (r : Nat) : Option Nat :=
  let l := p.bankMap (bankOf r)
  (List.range l.length).reverse.find? fun i => decide (l[i]? = some r)

/-- Where a row's contents stand: in the row itself, or in the spare that serves it. -/
def Pad.place (p : Pad) (r : Nat) : Nat := match p.spareOf r with | some i => 196608 + 32 * bankOf r + i | none => r

/-- The row that a place serves, if it serves one. -/
def Pad.served (p : Pad) (n : Nat) : Option Nat :=
  if n < 196608 then (if p.place n = n then some n else none)
  else ((p.bankMap ((n - 196608) / 32))[(n - 196608) % 32]?).filter fun r => decide (p.place r = n)

/-- The stored row. -/
def Pad.row (p : Pad) (r : Nat) : PadRow := tget {} p.rows (p.place r)

/-- The row set. -/
def Pad.setRow (p : Pad) (r : Nat) (x : PadRow) : Pad := { p with rows := tset {} p.rows (p.place r) x }

/-- Every row under a function of its place and contents. -/
def Pad.mapRows (p : Pad) (f : Nat → PadRow → PadRow) : Pad :=
  { p with rows := (p.rows.map fun x => (x.1, f x.1 x.2)).filter fun x => decide (x.2 ≠ {}) }

/-- What the stored metadata decodes as: 0 clean, 1 one wrong bit, 2 uncorrectable (R177). -/
def PadRow.metaBad (r : PadRow) : Nat := Nat.min 2 ((List.range 13).filter fun i => r.flips.getLsbD i).length

/-- A row whose tag cannot be known (R155). -/
def PadRow.unknown (r : PadRow) : Bool := decide (r.metaBad = 2) || (decide (r.tag = 0x7F) && r.poison)

/-- What a read of a row under an owner tag returns: 64 data bytes (zeros where poisoned) and the poison mark. -/
structure RdRow where
  data : Row := 0
  poison : Bool := false
  deriving DecidableEq, Repr

/-- The read of R155 and R178. -/
def PadRow.read (r : PadRow) (tag : Nat) : RdRow :=
  if r.unknown then { poison := true }
  else if r.tag ≠ tag ∨ r.tag = 0x7F then {}
  else if r.poison then { poison := true }
  else match rsDecode r.code with
    | .clean d => { data := d }
    | .corrected d => { data := d }
    | .uncorrectable => { poison := true }

/-- A row's data as the debug path or a copy sees it: corrected where the code allows, else as stored. -/
def PadRow.raw (r : PadRow) : Row :=
  match rsDecode r.code with
  | .corrected d => d
  | _ => r.code.setWidth 512

/-- A row is added to those awaiting a regrow (R180). -/
def Pad.fail (p : Pad) (r : Nat) : Pad :=
  if p.failing.contains r then p else { p with failing := enq p.failing r }

/-- The counters, records and regrow requests of reading a row of a tile's pad with a tag (R178, R180). A row whose poison bit is
set over a clean codeword reads as uncorrectable (R182); it holds nothing that a regrow could mend (log entry 176). -/
def State.noteRead (s : State) (t : LTile) (r : Nat) (tag : Nat) : State :=
  let row := (s.pad t).row r
  let auto := bit (s.rget (treg .padCtrl t)) 1
  let mgmt (s : State) (k : Nat) : State :=
    s.logRec { cls := .uc, unit := 3, code := .rule 178 k, owners := [.management], ltile := t, ptile := s.ptile t,
                object := bankOf r, detail := leBytes 4 (64 * r) }
  let s := if row.metaBad = 0 then s else s.finc (treg .padEcc t) 47 32
  if row.metaBad = 2 then
    let s := mgmt s 1
    if auto then s.modPad (s.ptile t) (·.fail r) else s
  else match rsDecode row.code with
    | .clean _ =>
      if !row.poison then s
      else
        let s := s.finc (treg .padEcc t) 31 16
        if row.tag = tag ∧ tag ≠ 0x7F then s else mgmt s 0
    | .corrected _ => s.finc (treg .padEcc t) 15 0
    | .uncorrectable =>
      let s := s.finc (treg .padEcc t) 31 16
      let s := if row.tag = tag then s else mgmt s 0
      if auto then s.modPad (s.ptile t) (·.fail r) else s

/-- A read of a row of a logical tile's pad. -/
def State.padRead (s : State) (t : LTile) (r : Nat) (tag : Nat) : RdRow × State :=
  (((s.pad t).row r).read tag, s.noteRead t r tag)

/-- Reads of `n` consecutive rows. -/
def State.padReads (s : State) (t : LTile) (tag : Nat) : Nat → Nat → List RdRow × State
  | _, 0 => ([], s)
  | r, n + 1 =>
    let x := s.padRead t r tag
    let y := x.2.padReads t tag (r + 1) n
    (x.1 :: y.1, y.2)

/-! ## Writes (R117, R156, R157) -/

/-- Ranks of the writers of R117: landing, drain (R75: the higher quarter), engine; the others below. -/
def rankLanding : Nat := 40
def rankDrain (q : Nat) : Nat := 30 + q
def rankEngine : Nat := 20
def rankOther : Nat := 10

/-- A write queued for the end of the cycle. -/
def State.padWrite (s : State) (t : LTile) (w : PadWrite) : State :=
  s.modPad (s.ptile t) fun p => { p with writes := enq p.writes w }

/-- The bytes of `new` where the mask is set, else of `old`. -/
def mergeBytes (old new : Row) (mask : BitVec 64) : Row :=
  ofLanes 512 ((List.range 64).map fun i => if mask.getLsbD i then lane new 8 i else lane old 8 i)

/-- A full mask. -/
def fullMask : BitVec 64 := 0xFFFFFFFFFFFFFFFF#64

/-- A row after a write (R156). -/
def PadRow.write (r : PadRow) (w : PadWrite) : PadRow :=
  if r.tag = w.tag ∧ !r.unknown then
    let d := mergeBytes r.raw w.data w.mask
    let bad := r.poison || decide (rsDecode r.code = .uncorrectable)
    { r with code := rsEncode d, poison := w.poison || (decide (w.mask ≠ fullMask) && bad), flips := 0 }
  else
    { code := rsEncode (mergeBytes 0 w.data w.mask), tag := w.tag, poison := w.poison, flips := 0, ce := 0 }

/-- The write that remains of those of one row in one cycle (R117): the highest rank, the later of equals. -/
def winner (ws : List PadWrite) (r : Nat) : Option PadWrite :=
  ws.foldl (fun b w => if w.row ≠ r then b else match b with
    | none => some w
    | some x => if x.rank ≤ w.rank then some w else b) none

/-- Whether a row is written in this cycle. -/
def Pad.written (p : Pad) (r : Nat) : Bool := p.writes.any fun w => decide (w.row = r)

/-- The rows a sweep treats in cycle `now` (R160): those of tag `tag` with numbers 64 j to 64 j + 63 become 0x7F, a regrown one
through its spare, but for rows written in this cycle. -/
def Pad.sweepCycle (p : Pad) (now : W64) : Pad :=
  match p.sweep with
  | none => p
  | some (tag, start) =>
    let j := (now - start).toNat
    if 3072 ≤ j then p
    else
      p.mapRows fun n x =>
        if decide (x.tag = tag) && (match p.served n with | some r => decide (r / 64 = j) && !p.written r | none => false) then
          { x with tag := 0x7F, poison := false, flips := 0 } else x

/-- A regrow's second cycle ends: the spare has the contents and serves the row from the next cycle on (R181). -/
def Pad.endRegrow (p : Pad) (now : W64) : Pad :=
  match p.regrow with
  | none => p
  | some (r, c, x) =>
    let y := match winner p.writes r with | some w => x.write w | none => x
    if now = c then { p with regrow := some (r, c, y) }
    else { p with repair := enq p.repair r, regrow := none }.setRow r y

/-- The end of a cycle for a pad: the sweep's rows, the cycle's writes, and a regrow's (R117, R157, R160, R181). -/
def Pad.endCycle (p : Pad) (now : W64) : Pad :=
  let q := p.sweepCycle now
  let rs := (p.writes.map (·.row)).eraseDups
  let q := rs.foldl (fun q r => match winner p.writes r with
    | none => q
    | some w => q.setRow r ((p.row r).write w)) q
  { q.endRegrow now with writes := [] }

/-- A span of bytes written under a tag: one queued write for each row it touches. -/
def State.padStore (s : State) (t : LTile) (rank tag : Nat) (addr : Nat) (b : Bytes) : State :=
  let first := addr / 64
  let n := (addr + b.length + 63) / 64 - first
  if b = [] then s
  else (List.range n).foldl (fun s k =>
    let row := first + k
    let data : Bytes := (List.range 64).map fun i =>
      let a := 64 * row + i
      if addr ≤ a ∧ a < addr + b.length then b.getD (a - addr) 0 else 0
    let mask := ofLanes 64 ((List.range 64).map fun i =>
      let a := 64 * row + i
      BitVec.ofBool (decide (addr ≤ a ∧ a < addr + b.length)))
    s.padWrite t { row := row, rank := rank, tag := tag, data := ofBytes 512 data, mask := mask }) s

/-- The bytes of a span read under a tag, the poison mark of any row of it, and the state after the reads. -/
def State.padBytes (s : State) (t : LTile) (tag : Nat) (addr len : Nat) : Bytes × Bool × State :=
  let first := addr / 64
  let n := if len = 0 then 0 else (addr + len + 63) / 64 - first
  let r := s.padReads t tag first n
  let all := (r.1.map fun x => toBytes x.data 64).flatten
  (slice all (addr - 64 * first) len, r.1.any (·.poison), r.2)

/-! ## Sweeps (R160, R161) -/

/-- Who may write a tile's RW and WO registers: its owner under R21 and M0 (R88). -/
def mayTile (a : Agent) (t : LTile) : Bool :=
  match a with
  | .m0 => true
  | .fenen r => decide (r.val = tileOwner t)
  | _ => false

/-- F4 or F5 (R185, R363). -/
def isTenantCore (a : Agent) : Bool :=
  match a with
  | .fenen r => decide (r.val = 4 ∨ r.val = 5)
  | _ => false

/-- The tag of the open epoch, if one is open (R153). -/
def State.epochTag (s : State) : Option Nat := if s.ten.state = .closed then none else some s.ten.tag

/-- A sweep falls due on a physical tile: it starts, or is held behind the one that runs (R161). -/
def Pad.dueSweep (p : Pad) (now : W64) (tag : Nat) : Pad :=
  if p.sweep.isNone ∧ p.held = [] then { p with sweep := some (tag, now), lastSweep := tag }
  else { p with held := enq p.held tag }

/-- A sweep of a tag on all 64 tiles (R161). -/
def State.sweepAll (s : State) (tag : Nat) : State :=
  (List.finRange 64).foldl (fun s t => s.modPad (s.ptile t) fun p => p.dueSweep s.now tag) s

/-- Whether a sweep of a tag runs or is held on some tile (R161, R416). -/
def State.sweeping (s : State) (tag : Nat) : Bool :=
  s.pads.toList.any fun p => decide (p.held.contains tag) || (match p.sweep with | some (g, _) => decide (g = tag) | none => false)

/-- PAD_SWEEP (R160, R185). -/
def execPadSweep (t : LTile) (a : Agent) (value : W64) (s : State) : Res :=
  let r := treg .padSweep t
  let tag := bits value 6 0
  if mayTile a t ∨ (isTenantCore a ∧ s.epochTag = some tag) then
    let s := if value.toNat &&& (2 ^ 64 - 1 - 0x17F) = 0 then s else s.regRec r
    if bit value 8 then
      if (s.pad t).sweep.isSome then .next (s.regRec r)
      else if tag = 0x7F then .next s
      else .next (s.modPad (s.ptile t) fun p => { p with sweep := some (tag, s.now), lastSweep := tag })
    else .next s
  else .next (s.regRec r)

/-- A sweep ends 3,072 cy after its start (R160). -/
def sweepOver (p : PTile) (s : State) : Bool :=
  match (s.pads.get p).sweep with
  | some (_, st) => decide (s.now = st + 3072)
  | none => false

def execTagSweepComplete (p : PTile) (s : State) : Res :=
  guarded (sweepOver p s) (fun s => s.modPad p fun x => { x with sweep := none, sweepFree := s.now + 1 }) s

/-- The first held sweep starts in the cycle after SWEEP_BUSY clears (R161). -/
def execHeldSweepStart (p : PTile) (s : State) : Res :=
  guarded ((s.pads.get p).sweep.isNone && decide ((s.pads.get p).held ≠ []) && decide (s.now = (s.pads.get p).sweepFree))
    (fun s => s.modPad p fun x => { x with sweep := some (x.held.headD 0, s.now), lastSweep := x.held.headD 0, held := x.held.tail }) s

/-! ## Patrol and regrow (R179-R183) -/

/-- CE_THR, where 0 acts as 1 (R185). -/
def thr (n : Nat) : Nat := if n = 0 then 1 else n

/-- The row as physics left it before a visit: symbols flipped, metadata bits flipped. -/
def PadRow.upset (r : PadRow) (x : BitVec 528) (m : BitVec 13) : PadRow := { r with code := r.code ^^^ x, flips := r.flips ^^^ m }

/-- A patrol visit (R179, R180): corrected rows are written back with their tag; errors are counted. -/
def patrol (t : LTile) (x : BitVec 528) (m : BitVec 13) (s : State) : State :=
  let p := s.ptile t
  let n := (s.pad t).patrol
  let ctrl := s.rget (treg .padCtrl t)
  let s := s.modPad p fun q => { q.setRow n ((q.row n).upset x m) with patrol := (n + 1) % 196608, patrolAt := some s.now }
  let row := (s.pad t).row n
  if row.metaBad = 2 then s.noteRead t n row.tag
  else
    let s := s.noteRead t n row.tag
    match rsDecode row.code with
    | .clean _ => s.modPad p fun q => q.setRow n { row with flips := 0, ce := 0 }
    | .corrected d =>
      let k := row.ce + 1
      let s := s.modPad p fun q => q.setRow n { row with code := rsEncode d, flips := 0, ce := k }
      if bit ctrl 1 ∧ thr (bits ctrl 15 8) ≤ k then s.modPad p (·.fail n) else s
    | .uncorrectable => s.modPad p fun q => q.setRow n { row with flips := 0, ce := 0 }

/-- The swaps under way, from the acceptance of their commit to its instant: logical tile and spare (R427). -/
def State.swaps (s : State) : List (LTile × PTile) :=
  s.ctl.pend.flatMap fun p => p.settings.filterMap fun x => match x with | .tileSwap t q => some (t, q) | _ => none

/-- A visit happens with PATROL_EN, outside the tile's windows and a swap copy, 64 cy after the last (R179, R427). -/
def patrolDue (t : LTile) (s : State) : Bool :=
  bit (s.rget (treg .padCtrl t)) 0 && !s.inWindow s.now t && !(s.ctl.swap.any fun c => decide (c.1 = t))
  && (match (s.pad t).patrolAt with | none => true | some v => decide (64 ≤ (s.now - v).toNat))

def execPatrolVisit (t : LTile) (upset : BitVec 528) (metaUpset : BitVec 13) (s : State) : Res :=
  guarded (patrolDue t s) (patrol t upset metaUpset) s

/-- Spares of a bank that have been used, the one of a regrow in progress among them (R144, R181). -/
def Pad.bankSpares (p : Pad) (bank : Nat) : Nat :=
  (p.bankMap bank).length + (match p.regrow with | some (r, _) => if bankOf r = bank then 1 else 0 | none => 0)

/-- A row after its regrow (R181, R182): corrected where the code allows; poisoned after an uncorrectable read; tag
0x7F and poisoned after a metadata double error. -/
def PadRow.regrown (r : PadRow) : PadRow :=
  if r.metaBad = 2 then { code := rsEncode r.raw, tag := 0x7F, poison := true, flips := 0, ce := 0 }
  else { r with code := rsEncode r.raw, poison := r.poison || decide (rsDecode r.code = .uncorrectable), flips := 0, ce := 0 }

/-- A cycle of the copy of a swap (R427): the writes and the sweep of the old pad `p`, as they are applied to the spare's; and row `n`
as the old pad, `p'`, holds it after the cycle, poisoned where it reads as uncorrectable. -/
def Pad.mirror (q p p' : Pad) (now : W64) (n : Nat) : Pad :=
  let x : Pad := { ({ q with writes := p.writes, sweep := p.sweep } : Pad).endCycle now with sweep := q.sweep }
  if n < 196608 then x.setRow n (p'.row n).regrown else x

/-- A row of a tile changed outside the cycle's writes, on the tile and on the spare of a swap under way. -/
def State.changeRow (s : State) (t : LTile) (r : Nat) (f : PadRow → PadRow) : State :=
  (s.swaps.foldl (fun (s : State) x => if x.1 = t then s.modPad x.2 fun p => p.setRow r (f (p.row r)) else s) s).modPad (s.ptile t)
    fun p => p.setRow r (f (p.row r))

/-- The regrow of a failing row (R181), or the report that its bank has no spare left (R183). -/
def regrowRow (t : LTile) (bank row : Nat) (s : State) : State :=
  let n := rowOfBank bank row
  let p := s.ptile t
  let pad := s.pad t
  let s := s.modPad p fun q => { q with failing := q.failing.filter fun x => decide (x ≠ n) }
  if 32 ≤ pad.bankSpares bank then s.swapCandidate t 3 (.rule 183 0) none bank (leBytes 4 (64 * n))
  else
    (s.modPad p fun q => { q with regrow := some (n, s.now, (q.row n).regrown) }).finc (treg .padEcc t) 63 48

/-- Whether a row awaits a regrow that can run now (R180): one at a time has the patrol port (R181), and none while a swap of the
tile is under way (R427, R429). -/
def regrowDue (t : LTile) (bank : Fin 48) (row : Fin 4096) (s : State) : Bool :=
  (s.pad t).failing.contains (rowOfBank bank row) && (s.pad t).regrow.isNone && !(s.swaps.any fun c => decide (c.1 = t))

def execRegrow (t : LTile) (bank : Fin 48) (row : Fin 4096) (s : State) : Res :=
  guarded (regrowDue t bank row s) (regrowRow t bank row) s

/-! ## Landing zones and credits (R162-R169) -/

/-- Fields of PAD_LZ_CFG (R185). -/
def zBase (c : W64) : Nat := 64 * bits c 17 0
def zUnits (c : W64) : Nat := bits c 31 18
def zOwner (c : W64) : Nat := bits c 38 32
def zTenant (c : W64) : Bool := bit c 39
def zSrc (c : W64) : Nat := bits c 46 40
def zRead (c : W64) : Bool := bit c 47
def zGrantMin (c : W64) : Nat := bits c 55 48
def zEn (c : W64) : Bool := bit c 56

/-- The registers of a zone. -/
abbrev zcfg (t : LTile) (z : Nat) : Reg := treg .padLzCfg t z
abbrev zrd (t : LTile) (z : Nat) : Reg := treg .padLzRd t z
abbrev zstate (t : LTile) (z : Nat) : Reg := treg .padLzState t z
abbrev zcnt (t : LTile) (z : Nat) : Reg := treg .padLzCnt t z

/-- A grant carrying LIMIT is sent to a zone's source (R163). -/
def State.sendGrant (s : State) (t : LTile) (z : Nat) : State :=
  let c := s.rget (zcfg t z)
  let lim := s.fget (zstate t z) 31 0
  let s := s.fset (zstate t z) 63 32 lim
  s.sendOn (zTenant c) (stopOf (s.ptile t)) (srcStop (zSrc c)) (.grant (zSrc c) t (fin 16 z) (BitVec.ofNat 32 lim))

/-- RD of a zone advances: LIMIT follows, and a grant leaves when LIMIT - GRANTED reaches GRANT_MIN (R163). -/
def State.advanceRd (s : State) (t : LTile) (z : Nat) (rd : BitVec 32) : State :=
  let c := s.rget (zcfg t z)
  let s := s.fset (zrd t z) 31 0 rd.toNat
  let lim := rd + BitVec.ofNat 32 (zUnits c)
  let s := s.fset (zstate t z) 31 0 lim.toNat
  if zGrantMin c ≤ (lim - BitVec.ofNat 32 (s.fget (zstate t z) 63 32)).toNat then s.sendGrant t z else s

/-- A new RD is taken, or ignored and recorded when it is below the current one or more than UNITS above (R168). -/
def State.setRd (s : State) (t : LTile) (z : Nat) (rd : BitVec 32) : State :=
  let old := BitVec.ofNat 32 (s.fget (zrd t z) 31 0)
  let d := (rd - old).toNat
  if d ≤ zUnits (s.rget (zcfg t z)) then (if d = 0 then s else s.advanceRd t z rd)
  else s.logRec { cls := .ce, unit := 3, code := .num 0x0502, ltile := t, object := z, limit := perX 4 (t.val + 64 * z) }

/-- The reason a landing write is refused for, the first of R167's table that holds. -/
def nackReason (c : W64) (rd unit : BitVec 32) (owner src : Nat) : Option Nat :=
  let below := 1 ≤ (rd - unit).toNat ∧ (rd - unit).toNat ≤ 2 ^ 31
  if !zEn c then some 1
  else if src ≠ zSrc c then some 2
  else if zUnits c ≤ (unit - rd).toNat ∧ !decide below then some 3
  else if zUnits c ≤ (unit - rd).toNat then some 4
  else if owner ≠ zOwner c then some 5
  else none

/-- What a radio window's task has put somewhere, kept for the present memory frame (R59). -/
def State.noteOutputs (s : State) (sender : Option (LTile × CtxNo)) (l : List Put) : State :=
  match sender.bind fun x => (s.ctx x.1 x.2).map fun k => (x.1, k) with
  | some (t, k) => if k.radio then { s with mesh := { s.mesh with outputs := s.mesh.outputs ++ l.map fun p => ⟨t, k.closes, p⟩ } } else s
  | none => s

/-- A landing write reaches the credit manager (R166, R167). -/
def State.land (s : State) (w : LandW) : State :=
  let nack (s : State) (k : Nat) : State :=
    let s := s.logRec { cls := .ce, unit := 3, code := .num 0x0501, ltile := w.tile, object := w.zone, owners := ownersOf w.owner.toNat,
                        limit := perX 5 (w.tile.val + 64 * w.zone) }
    s.sendOn w.tenant (stopOf (s.ptile w.tile)) (srcStop w.src.toNat) (.nack w.src.toNat w.sender k)
  if 16 ≤ w.zone then nack (s.finc (treg .padStatus w.tile) 31 16) 1
  else
    let c := s.rget (zcfg w.tile w.zone)
    let rd := BitVec.ofNat 32 (s.fget (zrd w.tile w.zone) 31 0)
    match nackReason c rd w.unit w.owner.toNat w.src.toNat with
    | some k => nack (s.finc (zcnt w.tile w.zone) 47 32) k
    | none =>
      let base := zBase c + (w.unit.toNat % zUnits c) * 256
      let s := (s.finc (zcnt w.tile w.zone) 31 0).noteOutputs w.sender ((List.range 4).map fun k => .row w.tile (rowOf (base + 64 * k)))
      (List.range 4).foldl (fun s k =>
        if w.mask.getLsbD k then
          s.padWrite w.tile { row := rowOf (base + 64 * k), rank := rankLanding, tag := zOwner c, data := lane w.data 512 k, mask := fullMask, poison := w.poison.getLsbD k }
        else s) s

/-- Rows that the landing port writes in this cycle: those that have landed, and those of the flits that land in it. -/
def State.landRows (s : State) (t : LTile) : Nat :=
  ((s.pad t).writes.filter fun w => decide (w.rank = rankLanding)).length
  + sumNat ((s.mesh.flits.filter fun f => decide (f.due = s.now)).map fun f => match f.payload with
      | .landing ws => 4 * (ws.filter fun w => decide (w.tile = t)).length
      | .lines _ u _ ls => if u = t then ls.length else 0
      | _ => 0)

/-- LANDING_WRITE (R166): a write reaches the tile's stop. The landing port takes 512 bytes in a cycle, those of the radio class
first; a tenant write that finds no room comes in a later cycle (R146). -/
def execLandingWrite (t : LTile) (zone : Nat) (unit : BitVec 32) (mask : BitVec 4) (owner src : BitVec 7) (data : BitVec 2048) (s : State) : Res :=
  guarded (decide (owner.toNat < 64 ∨ s.landRows t ≤ 4)) (fun s => s.land { tile := t, zone := zone, unit := unit, mask := mask, owner := owner, src := src, data := data, tenant := decide (64 ≤ owner.toNat) }) s

/-- The first flit due that passes a test, and the mesh without it. -/
def State.takeFlit (s : State) (f : Flit → Bool) : Option (Flit × State) :=
  (takeFirst (fun x => decide (x.due ≤ s.now) && f x) s.mesh.flits).map fun (x, l) =>
    (x, { s with mesh := { s.mesh with flits := l } })

/-- The source receives a NACK: its transaction completes with CREDIT_NACK, and no level retries it (R167). -/
def landingNack (t : LTile) (c : CtxNo) (s : State) : State :=
  match s.takeFlit (fun x => match x.payload with | .nack _ (some p) _ => decide (p = (t, c)) | _ => false) with
  | some (f, s) => match f.payload with
    | .nack _ _ k => s.modCtx t c fun y => { y with nacked := some k }
    | _ => s
  | none => s

def execLandingNackReceive (t : LTile) (c : CtxNo) (s : State) : Res := .next (landingNack t c s)

/-- The key of the LIMIT that a source, coded as in R219, has received of a tile's zone. -/
def grantKey (src dest zone : Nat) : Nat := 1024 * src + 16 * dest + zone

/-- A source receives a grant carrying a new LIMIT (R164). -/
def creditGrant (t : LTile) (zone : Fin 16) (s : State) : State :=
  match s.takeFlit (fun x => match x.payload with | .grant _ u z _ => decide (u = t ∧ z = zone) | _ => false) with
  | some (f, s) => match f.payload with
    | .grant src _ _ lim => { s with mesh := { s.mesh with grants := tset 0 s.mesh.grants (grantKey (s.srcCode src) t.val zone.val) lim.toNat } }
    | _ => s
  | none => s

def execCreditGrantReceive (t : LTile) (zone : Fin 16) (s : State) : Res := .next (creditGrant t zone s)

/-- A remote read of a zone (R169): with READ, by SRC, of a unit within the credit, the rows under the source's
tag; otherwise zeros. -/
def zoneRead (t : LTile) (zone : Fin 16) (unit : BitVec 32) (src owner : BitVec 7) (s : State) : List RdRow × State :=
  let c := s.rget (zcfg t zone)
  let rd := BitVec.ofNat 32 (s.fget (zrd t zone) 31 0)
  if zRead c ∧ src.toNat = zSrc c ∧ (unit - rd).toNat < zUnits c then
    s.padReads t owner.toNat (rowOf (zBase c + (unit.toNat % zUnits c) * 256)) 4
  else (List.replicate 4 {}, s)

/-- ZONE_REMOTE_READ (R169). A read of the tenant class waits for a cycle in which the egress port is free (R146). -/
def zoneRemoteRead (t : LTile) (zone : Fin 16) (unit : BitVec 32) (src owner : BitVec 7) (s : State) : State :=
  let r := zoneRead t zone unit src owner s
  let a := stopOf (s.ptile t)
  (r.2.take (outPort a) s.now).sendOn (zTenant (s.rget (zcfg t zone))) a (srcStop src.toNat)
    (.zoneData src.toNat t zone unit (r.1.map fun x => (x.data, x.poison)))

def execZoneRemoteRead (t : LTile) (zone : Fin 16) (unit : BitVec 32) (src owner : BitVec 7) (s : State) : Res :=
  guarded (!zTenant (s.rget (zcfg t zone)) || s.open_ (outPort (stopOf (s.ptile t))) s.now) (zoneRemoteRead t zone unit src owner) s

/-- Who may write a zone's registers (R185): `new` is the OWNER that the write leaves. -/
def State.mayZone (s : State) (a : Agent) (t : LTile) (old new : Nat) : Bool :=
  mayTile a t || (isTenantCore a && decide (s.epochTag = some new) && decide (old = new ∨ old = 0x7F))

/-- A write of PAD_LZ_CFG (R163, R185): enabling starts the ring afresh and sends the first grant. -/
def State.zoneCfgWrite (s : State) (t : LTile) (z : Nat) (a : Agent) (value : W64) : State :=
  let r := zcfg t z
  let old := s.rget r
  if s.mayZone a t (zOwner old) (zOwner value) then
    let lost := s.ctl.moved.any fun m => m.1 == s.now && m.2.contains (16 * t.val + z)
    let s := if value.toNat &&& (2 ^ 64 - 1 - r.defined) = 0 ∧ !lost then s else s.regRec r
    -- a commit of this cycle has written SRC: the direct write of it is lost (R424)
    let v := r.store old (if lost then putBits value 46 40 (zSrc old) else value)
    if zEn v ∧ (zUnits v = 0 ∨ 0xC00000 < zBase v + 256 * zUnits v) then s.regRec r
    else
      let s := s.rset r v
      if zEn v ∧ !zEn old then
        let s := s.fset (zrd t z) 31 0 0
        let s := s.rset (zstate t z) (BitVec.ofNat 64 (zUnits v))
        s.sendGrant t z
      else s
  else s.regRec r

def execZoneEnable (t : LTile) (zone : Fin 16) (a : Agent) (value : W64) (s : State) : Res :=
  .next (s.zoneCfgWrite t zone a value)

/-- A write of PAD_LZ_RD (R168, R185). -/
def execZoneRdWrite (t : LTile) (zone : Fin 16) (a : Agent) (value : W64) (s : State) : Res :=
  let r := zrd t zone
  let o := zOwner (s.rget (zcfg t zone))
  if mayTile a t ∨ (isTenantCore a ∧ s.epochTag = some o) then
    let s := if bits value 63 32 = 0 then s else s.regRec r
    .next (s.setRd t zone (value.setWidth 32))
  else .next (s.regRec r)

end Sys2Proof.Machine
end

