-- ==== Sys2Proof/Machine/Tasks.lean ====
section
/-!
DEFINITION. Tasks: the images' entries, task starts and relocation (R149-R151, R216, R217), what keeps a context
busy, and the ends of tasks (R201, R209, R475).
-/
namespace Sys2Proof.Machine

/-! ## Dispatch records (R216) -/

def recTenant (b : Bytes) : Bool := fld b 0 1 % 2 = 1
def recTile (b : Bytes) : Nat := fld b 1 1
def recCtx (b : Bytes) : Nat := fld b 2 1
def recBase (b : Bytes) : Nat := fld b 4 3
def recBound (b : Bytes) : Nat := fld b 8 3
def recSrow (b : Bytes) : Nat := fld b 12 2 % 4096
def recWindow (b : Bytes) : Nat := fld b 14 2
def recSeqFirst (b : Bytes) : Nat := fld b 16 4
def recSeqCount (b : Bytes) : Nat := fld b 20 4
def recTimeout (b : Bytes) : Nat := if fld b 24 4 = 0 then 1966080 else fld b 24 4
def recKernel (b : Bytes) : BitVec 32 := BitVec.ofNat 32 (fld b 28 4)

/-- The task that a dispatch record starts in an allocation of `size` units of 64 KiB from unit `start` (R217);
none where the relocated window leaves the allocation. -/
def startTask (b : Bytes) (idx : Nat) (img : ImgOf) (owner start size : Nat) (w0 w1 : DWin) (now : W64) : Option TaskCtx :=
  let a := 65536 * start
  let base := a + recBase b
  let bound := a + recBound b
  if bound ≤ a + 65536 * size ∧ base < bound then
    some { radio := !recTenant b, img := img, recIdx := idx, owner := owner, base := base, bound := bound,
           busyAt := now, srow := recSrow b + (if 0xA00000 ≤ a then (a - 0xA00000) / 512 else 0),
           win0 := w0, win1 := w1, seqFirst := recSeqFirst b, seqCount := recSeqCount b, last := now, started := now,
           lastEffect := now, kernel := recKernel b, timeout := recTimeout b }
  else none

/-! ## The next operation (R208) -/

/-- The next operation of a task. -/
def State.nextOp (s : State) (k : TaskCtx) : Option W64 :=
  if k.pc < k.seqCount then (s.imageOf k.img).bind fun i => i.ops[k.seqFirst + k.pc]? else none

def seqOp (w : W64) : Nat := bits w 7 0
def seqDelta (w : W64) : Nat := bits w 31 8
def seqArg (w : W64) : Nat := bits w 63 32

/-! ## What keeps a context busy (R212) -/

/-- Passes, engine work, pad operations and next-cycle effects of a context. -/
def Tile.localBusy (x : Tile) (c : CtxNo) : Bool :=
  x.arr.pend.any (fun p => decide (p.ctx = c)) || x.arr.run.any (fun p => decide (p.ctx = c))
  || x.eng.blocks.any (fun b => decide (b.ctx = c)) || x.eng.pend.any (fun b => decide (b.ctx = c))
  || x.eng.flight.any (fun f => decide (f.ctx = c))
  || x.cmp.run.any (fun o => decide (o.ctx = c)) || x.cmp.pend.any (fun o => decide (o.ctx = c))
  || x.later.any (fun l => match l.2 with | .flags d _ => decide (d = c) | .cret _ _ => false)

/-- SEND and MEMX of a context that have not had their last effect. -/
def State.meshBusy (s : State) (t : LTile) (c : CtxNo) : Bool :=
  s.mesh.radioQ.any (fun q => decide (q.tile = t ∧ q.ctx = c))
  || s.mesh.xfers.any (fun x => decide (x.tile = t ∧ x.ctx = c) && !x.dead)
  || s.mem.memx.any (fun m => decide (m.tile = t ∧ m.ctx = c) && !m.dead)
  || s.mesh.flits.any (fun f => decide (f.sender = some (t, c)))

/-- A context with an operation that has not had its last effect. -/
def State.busy (s : State) (t : LTile) (c : CtxNo) : Bool := (s.tiles.get t).localBusy c || s.meshBusy t c

/-! ## Ends of tasks -/

/-- SCH_FAULT (R225). -/
def State.schFault (s : State) (t : LTile) (c : CtxNo) (kind : Nat) : State :=
  match s.ctx t c with
  | none => s
  | some k => s.rset (treg .schFault t) (BitVec.ofNat 64 (kind + 16 * c.val + 256 * (k.pc % 2 ^ 24) + 2 ^ 32 * k.kernel.toNat))

/-- The task ends with a CODE: nothing further of it issues (R201, R212). -/
def State.endTask (s : State) (t : LTile) (c : CtxNo) (code : Nat) : State :=
  s.modCtx t c fun k => if k.ended.isSome then k else { k with ended := some code, endedAt := s.now, fence := none }

/-- A context's units are cut off (R475): passes that have not ended, engine instructions not issued, pad operations. -/
def Tile.cut (x : Tile) (c : CtxNo) : Tile :=
  let arr := x.arr
  let eng := x.eng
  let cmp := x.cmp
  let run := arr.run.filter (fun p => decide (p.ctx ≠ c))
  { x with
    arr := { arr with pend := arr.pend.filter (fun p => decide (p.ctx ≠ c)), run := run,
                      freeze := if run.any (·.frozen) then arr.freeze else none }
    eng := { eng with blocks := eng.blocks.filter (fun b => decide (b.ctx ≠ c)), pend := eng.pend.filter (fun b => decide (b.ctx ≠ c)) }
    cmp := { run := cmp.run.filter (fun o => decide (o.ctx ≠ c)), pend := cmp.pend.filter (fun o => decide (o.ctx ≠ c)) } }

/-- A tenant task is dropped (R475); the reason of its first drop stands, and stands before an END that the task had
reached (R476). -/
def State.dropTask (s : State) (t : LTile) (c : CtxNo) (code : Nat) : State :=
  match s.ctx t c with
  | none => s
  | some k =>
    if k.radio then s
    else
      let s := s.modTile t (·.cut c)
      s.modCtx t c fun k => { k with ended := if k.dropped then k.ended else some code, endedAt := s.now, fence := none, dropped := true }

/-- The window of a radio task, from its dispatch record (R216). -/
def State.winOf (s : State) (k : TaskCtx) : Nat := ((s.imageOf k.img).bind fun i => i.recs[k.recIdx]?).elim 0xFFFF recWindow

/-- The UC record of a radio task that ends early: slice, window and operation index (R201). -/
def State.earlyEnd (s : State) (t : LTile) (k : TaskCtx) : State :=
  s.logRec { cls := .uc, unit := 4, code := .rule 201 0, owners := ownersOf k.owner, ltile := t, ptile := s.ptile t,
             object := s.winOf k, kernel := k.kernel.toNat, detail := leBytes 4 k.pc }

/-- A fault of a task: a radio task ends as R201 describes, what it has issued completing; a tenant task is dropped (R142,
R209, R475). -/
def State.failTask (s : State) (t : LTile) (c : CtxNo) (code : Nat) : State :=
  match s.ctx t c with
  | none => s
  | some k => if !k.radio then s.dropTask t c code else if k.ended.isSome then s else (s.earlyEnd t k).endTask t c code

/-- A descriptor or sequencer fault of KIND 1 or 3 (R209). -/
def State.seqFault (s : State) (t : LTile) (c : CtxNo) (kind : Nat) : State := (s.schFault t c kind).failTask t c 3

/-- A refused radio operation (R201): the task ends with CODE 12, a UC record names slice, window and operation;
the 16th consecutive refused period of a window writes a US record (R467). -/
def State.refuse (s : State) (t : LTile) (c : CtxNo) : State :=
  match s.ctx t c with
  | none => s
  | some k =>
    let s := (s.schFault t c 2).finc (treg .schStat t) 15 0
    let win := s.winOf k
    let s := s.earlyEnd t k
    let key := 65536 * k.owner + win
    let n := tget 0 (s.tiles.get t).refused key + 1
    let s := s.modTile t fun x => { x with refused := tset 0 x.refused key n }
    let s := if n = 16 then s.logRec { cls := .us, unit := 4, code := .rule 467 0, owners := ownersOf k.owner, ltile := t, ptile := s.ptile t, object := win,
                                           detail := s.cellNames (fin 64 k.owner) } else s
    s.endTask t c 12

/-- A span of a task's pad window (R150): its physical offset, where every byte of it lies in BASE to BOUND - 1. -/
def TaskCtx.span (k : TaskCtx) (a len : Nat) : Option Nat :=
  if k.base + a + len ≤ k.bound then some (k.base + a) else none

/-- The sticky flags of a task raised (R210). -/
def State.flag (s : State) (t : LTile) (c : CtxNo) (sat nan poison : Bool) : State :=
  s.modCtx t c fun k => { k with sat := k.sat || sat, nan := k.nan || nan, poison := k.poison || poison }

/-- The device address window of a DRAM window (R251): BOUND 471,860 means 0x24_0000_0000. -/
def DWin.lo (w : DWin) : Nat := 327680 * w.base
def DWin.hi (w : DWin) : Nat := if w.bound = 471860 then 0x2400000000 else 327680 * w.bound

/-- Whether two DRAM windows share a byte. -/
def DWin.meets (a b : DWin) : Bool := a.valid && b.valid && overlaps a.lo a.hi b.lo b.hi

/-- The kernel identifier in force for a context, for fault registers. -/
def State.kernelOf (s : State) (t : LTile) (c : CtxNo) : Nat := ((s.ctx t c).map fun k => k.kernel.toNat).getD 0

end Sys2Proof.Machine
end

