-- ==== Sys2Proof/Machine/Passes.lean ====
section
/-!
DEFINITION. The matrix arrays: descriptors, start rules, depth cycles, drains, planned pre-emption, parity
errors and the result hash (R60-R88, R94-R106, R333, R344).
-/
namespace Sys2Proof.Machine

/-! ## Partitions (R61) -/

/-- Edges h and w of a partition. -/
def partH (p : Nat) : Nat := if p ≤ 2 then 128 else 64
def partWd (p : Nat) : Nat := if p = 0 then 128 else 64

/-- The row and column of its north-west cell. -/
def partRow (p : Nat) : Nat := if p = 5 ∨ p = 6 then 64 else 0
def partCol (p : Nat) : Nat := if p = 2 ∨ p = 4 ∨ p = 6 then 64 else 0

/-- The quarters it covers. -/
def partQs (p : Nat) : List Nat :=
  if p = 0 then [0, 1, 2, 3] else if p = 1 then [0, 2] else if p = 2 then [1, 3] else [p - 3]

/-- Its lowest covered quarter. -/
def partQ (p : Nat) : Nat := (partQs p).headD 0

/-- Its quarters as a mask. -/
def partMask (p : Nat) : Nat := sumNat ((partQs p).map fun q => 2 ^ q)

/-- Whether two partitions share a quarter (R62). -/
def partMeet (a b : Nat) : Bool := (partQs a).any fun q => (partQs b).contains q

/-- The overhead 2h + w - 1 (R68). -/
def overhead (p : Nat) : Nat := 2 * partH p + partWd p - 1

/-! ## Pass descriptors (R77) -/

def dPart (d : Bytes) : Nat := fld d 0 1 % 8
def dChain (d : Bytes) : Bool := fld d 0 1 / 8 % 2 = 1
def dFa (d : Bytes) : Nat := fld d 1 1
def dFb (d : Bytes) : Nat := fld d 2 1
def dFo (d : Bytes) : Nat := fld d 3 1
def dM (d : Bytes) : Nat := fld d 4 1 + 1
def dN (d : Bytes) : Nat := fld d 5 1 + 1
def dK (d : Bytes) : Nat := fld d 8 2 + 1
def dTag (d : Bytes) : BitVec 16 := BitVec.ofNat 16 (fld d 10 2)
def dA (d : Bytes) : Nat := fld d 12 3
def dB (d : Bytes) : Nat := fld d 16 3
def dOut (d : Bytes) : Nat := fld d 20 3
def dStride (d : Bytes) : Nat := fld d 24 3

/-- The rate class of a descriptor whose formats agree. -/
def dClass (d : Bytes) : RateClass := (inClass (dFa d)).getD .c8

/-- Cells along the edge of a group of a class (R64). -/
def grp (c : RateClass) : Nat := match c with | .c8 | .c4 => 1 | .c16 => 2 | .cx => 4

/-- K_p (R65). -/
def dKp (d : Bytes) : Nat := if isMx (dFa d) ∨ isMx (dFb d) then 32 * ceilDiv (dK d) 32 else dK d

/-- K_c (R65). -/
def dKc (d : Bytes) : Nat := if dClass d = .c4 then ceilDiv (dKp d) 2 else dKp d

/-- The length T of a pass (R68). -/
def dT (d : Bytes) : Nat := dKc d + overhead (dPart d)

/-- The last drain cycle of an unbroken pass, counted from its start (R67). -/
def dLast (d : Bytes) : Nat := dT d - 1

/-- Scale groups of an operand (R94). -/
def scaleGroups (fmt : Nat) (d : Bytes) : Nat := if isMx fmt then dKp d / 32 else 0

/-- The length of a packed operand block with edge `e` (R94, R95). -/
def blockLen (fmt e : Nat) (d : Bytes) : Nat := (scaleGroups fmt d + dKc d) * e

/-- The length of an active output row (R105). -/
def dRowLen (d : Bytes) : Nat := rowLen (dFo d) (dN d) (dClass d = .cx)

/-- Reserved fields are 0 and addresses are multiples of 64 (R77, R78). -/
def dFieldsOk (d : Bytes) : Bool :=
  decide (fld d 0 1 < 16 ∧ dPart d ≠ 7 ∧ fld d 6 2 = 0 ∧ fld d 15 1 = 0 ∧ fld d 19 1 = 0 ∧ fld d 23 1 = 0
    ∧ fld d 27 1 = 0 ∧ fld d 28 4 = 0 ∧ dA d % 64 = 0 ∧ dB d % 64 = 0 ∧ dOut d % 64 = 0 ∧ dStride d % 64 = 0)

/-- The formats are of one class and FMT_OUT belongs to it (R78, R102). -/
def dFormatsOk (d : Bytes) : Bool :=
  match inClass (dFa d), inClass (dFb d) with
  | some a, some b => decide (a = b) && outAllowed (accKind (dFa d) (dFb d)) a (dFo d)
  | _, _ => false

/-- The active size fits the class and partition, and the stride a row (R78). -/
def dShapeOk (d : Bytes) : Bool :=
  decide (dM d * grp (dClass d) ≤ partH (dPart d) ∧ dN d * grp (dClass d) ≤ partWd (dPart d) ∧ dRowLen d ≤ dStride d)

/-- The blocks and the output rows lie in the window (R78, R150). -/
def dInWindow (k : TaskCtx) (d : Bytes) : Bool :=
  (k.span (dA d) (blockLen (dFa d) (partH (dPart d)) d)).isSome
  && (k.span (dB d) (blockLen (dFb d) (partWd (dPart d)) d)).isSome
  && (k.span (dOut d) ((dM d - 1) * dStride d + dRowLen d)).isSome

/-- The conditions of R78 that need no task: field faults are KIND 4, format faults KIND 5. -/
def dStaticFault (d : Bytes) : Option Nat :=
  if !dFieldsOk d then some 4
  else if !dFormatsOk d then some 5
  else if !dShapeOk d then some 4
  else if dChain d ∧ dKc d < overhead (dPart d) then some 4
  else none

/-- R78 for a descriptor that a context wants started on a partition whose previous pass is `prev`. -/
def dFault (k : TaskCtx) (c : CtxNo) (prev : Option LastPass) (d : Bytes) : Option Nat :=
  match dStaticFault d with
  | some f => some f
  | none =>
    if !dInWindow k d then some 4
    else if dChain d ∧ !(prev.any fun p => decide (p.ctx = c ∧ p.owner = k.owner)) then some 4
    else none

/-! ## The values of a pass -/

/-- The bits of one element of a depth cycle's E bytes (R95): group `g`, step `sub` of the cycle. -/
def elemRaw (cl : RateClass) (b : Bytes) (g sub : Nat) : Nat × Nat :=
  match cl with
  | .c8 => (fld b g 1, 0)
  | .c4 => (fld b g 1 / 16 ^ sub % 16, 0)
  | .c16 => (fld b (2 * g) 2, 0)
  | .cx => (fld b (4 * g) 2, fld b (4 * g + 2) 2)

/-- Depth steps in a depth cycle (R66). -/
def stepsPer (cl : RateClass) : Nat := if cl = .c4 then 2 else 1

/-- The scale byte of row or column `g` for depth step `k` (R93, R94), where the format has one. -/
def Pass.scale (p : Pass) (fmt : Nat) (first : Bool) (g k : Nat) : Option Nat :=
  if isMx fmt then
    let x := p.scales.getD (k / 32) ([], [])
    some (fld (if first then x.1 else x.2) g 1)
  else none

/-- The signed value of raw bits as an integer element. -/
def intElem (fmt : Nat) (raw : Nat) : Int := sInt (elemBits fmt) raw

/-- One depth step of output element (o, c) on its accumulator (R97-R101): the new one, and SAT and NAN events. -/
def Pass.depthStep (p : Pass) (o c : Nat) (st : Option Accum × Bool × Bool) (k sub : Nat) : Option Accum × Bool × Bool :=
  let d := p.desc
  let cl := dClass d
  let step := k * stepsPer cl + sub
  let pad := decide (dK d ≤ step)
  let x := p.opnds.getD k ([], [])
  let ra := elemRaw cl x.1 o sub
  let rb := elemRaw cl x.2 c sub
  match accKind (dFa d) (dFb d) with
  | .fp32 =>
    let v := if pad then Fv.fin false 0 0
             else (elemValue (dFa d) ra.1 (p.scale (dFa d) true o step)).mul (elemValue (dFb d) rb.1 (p.scale (dFb d) false c step))
    let old := match st.1 with | some (.fp a) => some a | _ => none
    let r := fpStep old v
    (some (.fp r.1), st.2.1 || r.2.1, st.2.2 || r.2.2)
  | .cint64 =>
    let (re, im) := match st.1 with | some (.int re im) => (re, im) | _ => (0, 0)
    let a := (sInt 16 ra.1, sInt 16 ra.2)
    let b := (sInt 16 rb.1, sInt 16 rb.2)
    if pad then (some (.int re im), st.2) else (some (.int (re + a.1 * b.1 - a.2 * b.2) (im + a.1 * b.2 + a.2 * b.1)), st.2)
  | _ =>
    let re := match st.1 with | some (.int re _) => re | _ => 0
    if pad then (some (.int re 0), st.2) else (some (.int (re + intElem (dFa d) ra.1 * intElem (dFb d) rb.1) 0), st.2)

/-- Depth cycles that output element (o, c) has completed when the pass has reached pass cycle `cyc` (R66, R80). -/
def Pass.nAt (p : Pass) (cyc o c : Nat) : Nat :=
  let g := grp (dClass p.desc)
  Nat.min p.kc (cyc - 1 - (g * o + g - 1) - (g * c + g - 1))

/-- The 32-bit cell (i, j) of the raw rows loaded by the last restore. -/
def Pass.cell (p : Pass) (i j : Nat) : Nat :=
  (lane (p.rows.getD (partRow p.part.val + i) 0) 32 (partCol p.part.val + j)).toNat

/-- The accumulator of output element (o, c) that the last restore left (R82, R97). -/
def Pass.restored (p : Pass) (o c : Nat) : Accum :=
  let g := grp (dClass p.desc)
  let i := g * o
  let j := g * c
  match accKind (dFa p.desc) (dFb p.desc) with
  | .fp32 => .fp (BitVec.ofNat 32 (p.cell i j))
  | .int32 => .int (sInt 32 (p.cell i j)) 0
  | .int64 => .int (sInt 64 (p.cell i j + 2 ^ 32 * p.cell i (j + 1))) 0
  | .cint64 => .int (sInt 64 (p.cell i j + 2 ^ 32 * p.cell i (j + 1))) (sInt 64 (p.cell i (j + 2) + 2 ^ 32 * p.cell i (j + 3)))

/-- The accumulator of output element (o, c) after its first `n` depth cycles, with the SAT and NAN events since the
last restore; none before depth cycle 0 (R76). -/
def Pass.accum (p : Pass) (o c n : Nat) : Option Accum × Bool × Bool :=
  let n0 := if p.base = 0 then 0 else p.nAt p.base o c
  let start : Option Accum × Bool × Bool := (if n0 = 0 then none else some (p.restored o c), false, false)
  (List.range (n - n0)).foldl (fun st k =>
    (List.range (stepsPer (dClass p.desc))).foldl (fun st sub => p.depthStep o c st (n0 + k) sub) st) start

/-- Output columns of the whole partition in a class. -/
def Pass.cols (p : Pass) : Nat := partWd p.part.val / grp (dClass p.desc)

/-- Output rows of the whole partition in a class. -/
def Pass.rowsNo (p : Pass) : Nat := partH p.part.val / grp (dClass p.desc)

/-- The finished accumulators of row `o`, and the events of the row's accumulators. -/
def Pass.rowAccs (p : Pass) (o : Nat) : List Accum × Bool × Bool :=
  let r := (List.range p.cols).map fun c => p.accum o c p.kc
  let e := p.events.getD o (false, false)
  (r.map fun x => x.1.getD (.int 0 0), e.1 || r.any (·.2.1), e.2 || r.any (·.2.2))

/-! ## The save area (R80, R98) -/

/-- The raw values of the cells of one element's group, by (row, column) within the group. -/
def rawOf (p : Pass) (a : Option Accum) (i j : Nat) : Nat :=
  let u (x : Int) : Nat := (x % 2 ^ 64).toNat
  match a, accKind (dFa p.desc) (dFb p.desc) with
  | none, _ => 0
  | some (.fp x), _ => if i = 0 ∧ j = 0 then x.toNat else 0
  | some (.int re _), .int32 => u re % 2 ^ 32
  | some (.int re _), .int64 => if i = 0 then u re / 2 ^ (32 * j) % 2 ^ 32 else 0
  | some (.int re im), _ =>
    if i ≠ 0 then 0 else if j < 2 then u re / 2 ^ (32 * j) % 2 ^ 32 else u im / 2 ^ (32 * (j - 2)) % 2 ^ 32

/-- The raw value of array cell (i, j) in a save: that of a frozen tenant pass whose cell has performed depth
cycle 0, else 0. -/
def rawCell (ps : List Pass) (i j : Nat) : Nat :=
  match ps.find? fun p => decide (partRow p.part.val ≤ i ∧ i < partRow p.part.val + partH p.part.val
      ∧ partCol p.part.val ≤ j ∧ j < partCol p.part.val + partWd p.part.val) with
  | none => 0
  | some p =>
    let g := grp (dClass p.desc)
    let i' := i - partRow p.part.val
    let j' := j - partCol p.part.val
    let n := p.nAt p.cyc (i' / g) (j' / g)
    if n = 0 then 0 else rawOf p (p.accum (i' / g) (j' / g) n).1 (i' % g) (j' % g)

/-- Raw row `i`. -/
def rawRow (ps : List Pass) (i : Nat) : Vec :=
  ofLanes 4096 ((List.range 128).map fun j => BitVec.ofNat 32 (rawCell ps i j))

/-- One entry of the pass-state record (R81). -/
def stateEntry (ps : List Pass) (q : Nat) : Bytes :=
  match ps.find? fun p => decide (partQ p.part.val = q) with
  | none => List.replicate 16 0
  | some p => [BitVec.ofNat 8 (1 + 2 * p.poison.toNat), BitVec.ofNat 8 p.part.val] ++ leBytes 2 (dTag p.desc).toNat
              ++ leBytes 4 p.cyc ++ leBytes 8 p.descPtr

/-- The pass-state record. -/
def stateRecord (ps : List Pass) : Bytes := ((List.range 4).map (stateEntry ps)).flatten

/-! ## Array changes -/

def State.modArr (s : State) (t : LTile) (f : MArray → MArray) : State :=
  s.modTile t fun x => { x with arr := f x.arr }

def State.arr (s : State) (t : LTile) : MArray := (s.tiles.get t).arr

/-- ARR_FAULT for a pass (R88); PCNT is filled in when it is read (State.view). -/
def State.arrFault (s : State) (t : LTile) (c : CtxNo) (part : Nat) (kind : Nat) (tag : BitVec 16) : State :=
  s.rset (treg .arrFault t) (BitVec.ofNat 64 (partMask part + 16 * kind + 256 * tag.toNat + 2 ^ 32 * s.kernelOf t c))

/-- The save area of a tile: its pad offset (ARR_SAVE.ADDR). -/
def State.saveAddr (s : State) (t : LTile) : Nat := s.fget (treg .arrSave t) 23 0

/-- The record entry of a frozen pass gets POISONED once the record is written (R81, R85). -/
def State.markRecord (s : State) (t : LTile) (p : Pass) : State :=
  match (s.arr t).freeze with
  | some f => if p.frozen && !f.recordDue then s.padStore t (rankDrain 0) s.ten.tag (s.saveAddr t + 65536 + 16 * partQ p.part.val) [3] else s
  | none => s

/-- A pass becomes poisoned, its fault is shown (R85). -/
def State.poisonPass (s : State) (t : LTile) (part : Fin 7) (start : W64) (kind : Nat) : State :=
  match (s.arr t).run.find? fun p => decide (p.part = part ∧ p.start = start) with
  | none => s
  | some p =>
    let s := (s.arrFault t p.ctx part.val kind (dTag p.desc)).markRecord t p
    s.modArr t fun a => { a with run := mapIf (fun q => decide (q.part = part ∧ q.start = start)) (fun q => { q with poison := true }) a.run }

/-! ## Start rules -/

/-- The edge of the spans that a cycle must be judged against: inside the save, window or restore cycles of some
span, V - 160 to V + L + 127 (R79). -/
def State.inSpan (s : State) (t : LTile) (v : W64) : Bool :=
  s.inWindow v t || s.inWindow (v - 128) t
  || (match s.nextSpan t v with | some (o, _) => decide (o - v ≤ 160) | none => false)

/-- V - 160 of the next span after `v`, as cycles from `v`; none where no window is committed. -/
def State.toFreeze (s : State) (t : LTile) (v : W64) : Option Nat :=
  (s.nextSpan t v).map fun o => (o.1 - v).toNat - 160

/-- The throttle level n (R344). -/
def State.level (s : State) : Nat := s.fget (creg .tenPwr) 19 16

/-- The pass of a partition that runs, newest first. -/
def MArray.running (a : MArray) (part : Nat) : Option Pass := a.run.find? fun p => decide (p.part.val = part)

/-- R62 and R71: no overlapping pass runs, but for the chained predecessor, whose K_c cycles must be over. A frozen pass does not
run (R26, R79). -/
def MArray.free (a : MArray) (part : Nat) (chain : Bool) : Bool :=
  a.run.all fun p => p.frozen || !partMeet p.part.val part || (chain && decide (p.part.val = part ∧ p.kc ≤ p.cyc))

/-- The place of a partition's previous pass in `MArray.last`: radio and tenant passes do not count as each other's (R63). -/
def lastKey (radio : Bool) (part : Nat) : Nat := if radio then part else 8 + part

/-- The earliest start of a pass (R62, R70, R71, R209): c + 2, the chained predecessor's start + K_c, and the cycle after the last
drain of every other pass that shares a quarter with it. -/
def MArray.readyAt (a : MArray) (q : PendPass) (chain : Bool) : W64 :=
  (List.range 7).foldl (fun v p =>
    if partMeet p q.part.val then
      match tfind (lastKey q.radio p) a.last with
      | some l =>
        let e := if chain ∧ p = q.part.val then l.start + BitVec.ofNat 64 l.kc else l.lastDrain + 1
        if v < e then e else v
      | none => v
    else v) q.earliest

/-- The chained predecessor of a pass that would start now still drains at V - 160, `c` cycles from now. -/
def State.predLate (s : State) (t : LTile) (d : Bytes) (c : Nat) : Bool :=
  dChain d && (s.arr t).run.any fun p => decide (p.part.val = dPart d ∧ c ≤ dLast p.desc - p.cyc)

/-- R79 and R333 for a tenant pass that would start now: one that needs a freeze starts only with EN and at least FREEZE_MIN
cycles before it; one that needs none must drain before it. -/
def State.passHeld (s : State) (t : LTile) (d : Bytes) : Bool :=
  if s.inSpan t s.now then true
  else match s.toFreeze t s.now with
    | none => false
    | some c =>
      s.predLate t d c
      || (if c ≤ dT d - partH (dPart d) - 1 then !(bit (s.rget (treg .arrSave t)) 32 && decide (s.fget (creg .tenCtrl) 15 0 ≤ c))
          else decide (c ≤ dLast d))

/-- R344 for a tenant pass that would start now at a level above 0. -/
def State.passThrottled (s : State) (t : LTile) (part : Nat) : Bool :=
  let n := s.level
  decide (0 < n) && ((s.arr t).run.any (fun p => decide (p.part.val = part) && !p.radio) ||
    match tfind (8 * t.val + part) s.ten.passT with
    | some (len, last) => decide ((s.now - last).toNat < len * n / (16 - n) + 1)
    | none => false)

/-- Tenant work is stopped by a suspend, a close or a swap copy (R335, R360, R428). -/
def State.halted (s : State) (t : LTile) : Bool :=
  s.ten.suspendAt.isSome || decide (s.ten.state = .suspended ∨ s.ten.state = .closing) || (s.tiles.get t).swapHold

/-- No tenant operation of a tile issues: tenant work is stopped, or its restore after a resume has not ended (R335,
R338). A freeze that a window caused does not stop the sequencer (R206). -/
def State.issueStopped (s : State) (t : LTile) : Bool :=
  s.halted t || (s.arr t).freeze.any fun f => f.closes.isNone

/-- No tenant pass starts: tenant work is stopped, or a freeze waits for its restore (R79, R335, R338). -/
def State.tenantStopped (s : State) (t : LTile) : Bool := s.halted t || (s.arr t).freeze.isSome

/-- A hold is counted once for each pass, and a hold by throttling also in TEN_STAT (R206, R343). -/
def State.countHold (s : State) (t : LTile) (thr : Bool) : State :=
  let s := s.finc (treg .schStat t) 47 32
  if thr then s.finc (creg .tenStat) 47 32 else s

/-- The pass leaves its pending slot and starts, or its descriptor is rejected (R78, R209). -/
def startPass (t : LTile) (q : PendPass) (d : Bytes) (ptr : Nat) (k : TaskCtx) (s : State) : State :=
  let part := q.part
  let s := s.modArr t fun a => { a with pend := a.pend.filter fun p => !decide (p.part = part ∧ p.ctx = q.ctx) }
  match dFault k q.ctx (tfind (lastKey q.radio part.val) (s.arr t).last) d with
  | some f => (s.arrFault t q.ctx part.val f (dTag d)).failTask t q.ctx 3
  | none =>
    let p : Pass := { part := part, ctx := q.ctx, owner := k.owner, radio := k.radio, desc := d, descPtr := ptr, start := s.now, kc := dKc d }
    let l : LastPass := { start := s.now, kc := dKc d, ctx := q.ctx, owner := k.owner, lastDrain := s.now + BitVec.ofNat 64 (dLast d) }
    s.modArr t fun a => { a with run := p :: a.run, last := tput (lastKey q.radio part.val) l a.last }

/-- The descriptor of a pending pass and its offset in the image. -/
def State.passDesc (s : State) (k : TaskCtx) (idx : Nat) : Option (Bytes × Nat) :=
  (s.imageOf k.img).bind fun i => (i.passes[idx]?).map fun d => (d, i.passOff + 32 * idx)

/-- A pending pass is held in the cycle it could have started in: it is counted once, unless the array is parked (R88). -/
def State.holdPass (s : State) (t : LTile) (q : PendPass) (parked thr : Bool) : State :=
  if q.held then s
  else
    let s := if parked then s else s.countHold t thr
    s.modArr t fun a => { a with pend := mapIf (fun p => decide (p.part = q.part ∧ p.ctx = q.ctx)) (fun p => { p with held := true }) a.pend }

/-- A pass starts in its earliest cycle, or later if it was held then (R209, R213). -/
def PendPass.comes (q : PendPass) (a : MArray) (chain : Bool) (now : W64) : Bool :=
  decide (now = a.readyAt q chain) || (q.held && decide (a.readyAt q chain ≤ now))

/-- PASS_START (R68): the pending pass of the partition starts in its earliest cycle under R62, R70, R71 and R209; a tenant
pass starts later where R79, R333, R344, a suspend or a restore holds it, and a hold counts once. -/
def passStart (t : LTile) (part : Fin 7) (s : State) : State :=
  let a := s.arr t
  match a.pend.find? fun p => decide (p.part = part) with
  | none => s
  | some q =>
    match s.ctx t q.ctx with
    | none => s
    | some k =>
      match s.passDesc k q.idx with
      | none => s
      | some (d, ptr) =>
        if !q.comes a (dChain d) s.now ∨ !a.free part.val (dChain d) then s
        else if s.fget (treg .arrCtrl t) 1 1 = 1 then s.holdPass t q true false
        else if k.radio then startPass t q d ptr k s
        else
          let thr := s.passThrottled t part.val
          if s.tenantStopped t ∨ ((dStaticFault d).isNone ∧ (s.passHeld t d ∨ thr)) then s.holdPass t q false (thr && !s.tenantStopped t)
          else startPass t q d ptr k s

def execPassStart (t : LTile) (part : Fin 7) (s : State) : Res := .next (passStart t part s)

/-! ## The cycles of a running pass -/

/-- The bytes of operand `fmt` that the feeders read in depth cycle `k` (R73, R94-R96): elements and scale group. -/
def State.feed (s : State) (t : LTile) (tag addr fmt e k : Nat) (d : Bytes) : Bytes × Bytes × Bool × State :=
  let g := scaleGroups fmt d
  let spc := stepsPer (dClass d)
  let scaleNow := decide (0 < g ∧ k * spc % 32 = 0)
  let r := if k * spc < dK d then s.padBytes t tag (addr + g * e + k * e) e else ([], false, s)
  let q := if scaleNow then r.2.2.padBytes t tag (addr + k * spc / 32 * e) e else ([], false, r.2.2)
  (r.1, q.1, r.2.1 || q.2.1, q.2.2)

/-- Depth cycle `k` of a pass is read (R65, R73): the pass with what was read, and whether a read was uncorrectable. -/
def State.feedPass (s : State) (t : LTile) (k : Nat) (p : Pass) : Pass × Bool × State :=
  let base := ((s.ctx t p.ctx).map (·.base)).getD 0
  let a := s.feed t p.owner (base + dA p.desc) (dFa p.desc) (partH p.part.val) k p.desc
  let b := a.2.2.2.feed t p.owner (base + dB p.desc) (dFb p.desc) (partWd p.part.val) k p.desc
  let spc := stepsPer (dClass p.desc)
  let n := k * spc / 32
  let scales := if k * spc % 32 = 0 then p.scales.take n ++ [(a.2.1, b.2.1)] ++ p.scales.drop (n + 1) else p.scales
  ({ p with opnds := p.opnds.take k ++ [(a.1, b.1)] ++ p.opnds.drop (k + 1), scales := scales }, a.2.2.1 || b.2.2.1, b.2.2.2)

/-- The output row that drain cycle `d` writes (R74). -/
def drainRow (cl : RateClass) (d : Nat) : Option Nat :=
  match cl with
  | .c8 | .c4 => some d
  | .c16 => if d % 2 = 1 then some (d / 2) else none
  | .cx => if d % 4 = 3 then some (d / 4) else none

/-- A drained row is written, folded into the hash, and its flags are kept (R74, R75, R85, R87, R106). -/
def State.drain (s : State) (t : LTile) (p : Pass) (o : Nat) : Pass × State :=
  if dM p.desc ≤ o then (p, s)
  else
    let base := ((s.ctx t p.ctx).map (·.base)).getD 0
    let r := p.rowAccs o
    let accs := r.1.take (dN p.desc)
    let w := if dClass p.desc = .cx then outRowCx (dFo p.desc) accs else outRow (dFo p.desc) accs
    let at0 := base + dOut p.desc + o * dStride p.desc
    let q := partQ p.part.val
    let s := w.1.foldl (fun s (off, b) =>
      s.padStore t (rankDrain q) p.owner (at0 + off) (if p.poison then b.map fun _ => 0 else b)) s
    if p.poison then (p, s)
    else
      let s := if bit (s.rget (treg .arrCtrl t)) 0 then
          s.rset (treg .arrHash t q) (w.1.foldl (fun h (_, b) => crc64 h b) (s.rget (treg .arrHash t q)))
        else s
      ({ p with sat := p.sat || w.2 || r.2.1, nan := p.nan || r.2.2 }, s)

/-- The flags of the accumulators of rows that are not written (R106), for a pass that is not poisoned. -/
def Pass.restFlags (p : Pass) : Bool × Bool :=
  let rs := (List.range (p.rowsNo - dM p.desc)).map fun k => p.rowAccs (dM p.desc + k)
  (rs.any (·.2.1), rs.any (·.2.2))

/-- The end of a pass after its last drain cycle (R85, R106, R334, R344, R405). -/
def State.endPass (s : State) (t : LTile) (p : Pass) : State :=
  let s := s.modArr t fun a => { a with run := a.run.filter fun q => !decide (q.part = p.part ∧ q.start = p.start) }
  let s := s.finc (treg .arrPasses t) 31 0
  let f := if p.poison then (p.sat, p.nan) else
    let r := p.restFlags
    (p.sat || r.1, p.nan || r.2)
  let s := s.flag t p.ctx f.1 f.2 p.poison
  let s := if p.radio then s
    else { s with ten := { s.ten with passT := tput (8 * t.val + p.part.val) (dT p.desc, s.now) s.ten.passT } }
  if p.poison then
    let s := s.finc (treg .arrPasses t) 63 32
    let s := s.logRec { cls := .uc, unit := 4, code := .rule 85 0, owners := ownersOf p.owner, ltile := t, ptile := s.ptile t,
                        object := p.ctx.val, kernel := s.kernelOf t p.ctx,
                        detail := leBytes 4 ((s.ctx t p.ctx).elim 0 (·.recIdx)) ++ leBytes 2 (dTag p.desc).toNat }
    if p.radio then s else s.dropTask t p.ctx 1
  else if bit (s.rget (creg .fabCtrl)) 0 then
    s.modCtx t p.ctx fun k =>
      let k := { k with passCount := k.passCount + 1 }
      if k.passHashes.length < 1024 then { k with passHashes := enq k.passHashes (dTag p.desc, s.rget (treg .arrHash t (partQ p.part.val))) } else k
  else s

/-- A depth cycle of a tenant pass counted by rate class (R342). -/
def Activity.depth (a : Activity) (c : RateClass) : Activity :=
  match c with
  | .c8 => { a with depth8 := a.depth8 + 1 }
  | .c4 => { a with depth4 := a.depth4 + 1 }
  | .c16 => { a with depth16 := a.depth16 + 1 }
  | .cx => { a with depthCx := a.depthCx + 1 }

/-- One pass cycle of a running pass (R65-R67): its feeders' reads, its drain row, and its end. -/
def State.passCycle (s : State) (t : LTile) (p : Pass) : State :=
  if p.frozen then s
  else
    let h := partH p.part.val
    let first := p.kc + h + partWd p.part.val - 1
    let put (p : Pass) (s : State) : State :=
      s.modArr t fun a => { a with run := mapIf (fun q => decide (q.part = p.part ∧ q.start = p.start)) (fun _ => p) a.run }
    if p.cyc < p.kc then
      let r := s.feedPass t p.cyc p
      let s := put { r.1 with cyc := p.cyc + 1 } r.2.2
      let s := if p.radio then s else s.act (·.depth (dClass p.desc))
      if r.2.1 then s.poisonPass t p.part p.start 1 else s
    else if p.cyc < first then put { p with cyc := p.cyc + 1 } s
    else
      let d := p.cyc - first
      let r := match drainRow (dClass p.desc) d with | some o => s.drain t p o | none => (p, s)
      let p := { r.1 with cyc := p.cyc + 1 }
      if d + 1 = h then r.2.endPass t p else put p r.2

/-- Whether any cell of a pass performs a depth cycle in its present pass cycle (R66, R88). -/
def Pass.working (p : Pass) : Bool :=
  !p.frozen && decide (1 ≤ p.cyc ∧ p.cyc + 1 < p.kc + partH p.part.val + partWd p.part.val)

/-- The charge of a cycle (R334) and the active cycle counter (R88). -/
def State.meterArray (s : State) (t : LTile) : State :=
  let a := s.arr t
  let s := if a.run.any (·.working) then s.finc (treg .arrMaccy t) 47 0 else s
  if (a.run.any fun p => !p.radio) ∧ !s.inWindow s.now t then
    let s := s.finc (creg .tenMeter) 47 0
    { s with ten := { s.ten with meter := s.ten.meter + 1 } }
  else s

/-! ## Planned pre-emption (R79-R84, R335-R338) -/

/-- A tenant pass that a freeze stops: still in its start, skew-fill or depth cycles (R80). -/
def Pass.freezable (p : Pass) : Bool :=
  !p.radio && !p.frozen && decide (p.cyc + 1 < p.kc + partH p.part.val + partWd p.part.val)

/-- The events of a pass up to its present cycle, per output row, kept across a freeze (R101, R106). -/
def Pass.eventsNow (p : Pass) : List (Bool × Bool) :=
  if accKind (dFa p.desc) (dFb p.desc) ≠ .fp32 then []
  else (List.range p.rowsNo).map fun o =>
    let e := p.events.getD o (false, false)
    (List.range p.cols).foldl (fun e c => let r := p.accum o c (p.nAt p.cyc o c); (e.1 || r.2.1, e.2 || r.2.2)) e

/-- The freeze of a tile's tenant passes in this cycle (R80). -/
def State.freezeNow (s : State) (t : LTile) (closes : Option W64) : State :=
  let ps := (s.arr t).run.filter (·.freezable)
  if ps = [] then s
  else
    let fz : Freeze := { start := s.now, closes := closes, rows := (List.range 128).map (rawRow ps) }
    let s := s.modArr t fun a =>
      { a with freeze := some fz, run := mapIf (·.freezable) (fun p => { p with events := p.eventsNow, frozen := true }) a.run }
    let s := s.finc (treg .arrPreempt t) 31 0
    State.finc { s with ten := { s.ten with freezes := s.ten.freezes + 1 } } (creg .tenMeter) 63 48

/-- PREEMPT_FREEZE (R80, R335, R336): at V - 160 of the tile's next span, or in the cycle of a suspend request;
a freeze in progress stands. -/
def preemptFreeze (t : LTile) (s : State) : State :=
  if (s.arr t).freeze.isSome then s
  else if s.ten.suspendAt = some s.now then s.freezeNow t none
  else match s.nextSpan t s.now with
    | some (o, c) => if o - s.now = 160 then s.freezeNow t (some c) else s
    | none => s

def execPreemptFreeze (t : LTile) (s : State) : Res := .next (preemptFreeze t s)

/-- The restore of a suspended tile that is due: at Y, or at V + L where Y + 127 would reach V - 160 (R338). -/
def State.resumeDue (s : State) (t : LTile) : Bool :=
  s.ten.suspendAt.isNone && decide (s.ten.state ≠ .suspended) && !(s.tiles.get t).swapHold && !s.inWindow s.now t
  && !(match s.nextSpan t s.now with | some (o, _) => decide ((o - s.now).toNat ≤ 287) | none => false)

/-- PREEMPT_RESTORE (R82, R338): the restore's 128 rows begin. -/
def preemptRestore (t : LTile) (s : State) : State :=
  match (s.arr t).freeze with
  | none => s
  | some f =>
    let due : Bool := match f.closes with | some c => decide (s.now = c) | none => s.resumeDue t
    if f.restore.isNone ∧ due ∧ 129 ≤ (s.now - f.start).toNat then
      s.modArr t fun a => { a with freeze := some { f with restore := some s.now } }
    else s

def execPreemptRestore (t : LTile) (s : State) : Res := .next (preemptRestore t s)

/-- The restore has read its last row: every frozen pass takes its accumulators and refills its skew registers from
the operand rows as they are now (R82); an uncorrectable row poisons the passes it belongs to (R85). Depth cycles go on in
the next cycle. -/
def State.endRestore (s : State) (t : LTile) (f : Freeze) : State :=
  let fz := (s.arr t).freeze
  let s := (s.finc (treg .arrPreempt t) 63 32).modArr t fun a => { a with freeze := none }
  ((s.arr t).run.filter (·.frozen)).foldl (fun s q =>
    let p := { q with frozen := false, base := q.cyc, rows := f.loaded }
    let l : LastPass := { start := s.now + 1 - BitVec.ofNat 64 p.cyc, kc := p.kc, ctx := p.ctx, owner := p.owner,
                          lastDrain := s.now + 1 + BitVec.ofNat 64 (dLast p.desc - p.cyc) }
    let lo := p.cyc + 1 - (partH p.part.val + partWd p.part.val)
    let r := (List.range (Nat.min p.cyc p.kc - lo)).foldl (fun (x : Pass × Bool × State) i =>
      let y := x.2.2.feedPass t (lo + i) x.1
      (y.1, x.2.1 || y.2.1, y.2.2)) (p, false, s)
    let s := if r.2.1 then ((r.2.2.modArr t fun a => { a with freeze := fz }).markRecord t q).modArr t fun a => { a with freeze := none } else r.2.2
    let s := s.modArr t fun a => { a with last := tput (lastKey p.radio p.part.val) l a.last, run := mapIf (fun q => decide (q.part = p.part ∧ q.start = p.start)) (fun _ => r.1) a.run }
    if r.2.1 then s.poisonPass t p.part p.start 1 else s) s

/-- One cycle of a save or of a restore (R80-R82): a raw row or the record is written, or a raw row is read. -/
def State.freezeCycle (s : State) (t : LTile) : State :=
  match (s.arr t).freeze with
  | none => s
  | some f =>
    let addr := s.saveAddr t
    let tag := s.ten.tag
    match f.rows, f.restore with
    | row :: rest, _ =>
      let i := (s.now - f.start).toNat
      let s := s.padStore t (rankDrain 0) tag (addr + 512 * i) (toBytes row 512)
      s.modArr t fun a => { a with freeze := some { f with rows := rest } }
    | [], none =>
      if f.recordDue then
        let s := s.padStore t (rankDrain 0) tag (addr + 65536) (stateRecord ((s.arr t).run.filter (·.frozen)))
        s.modArr t fun a => { a with freeze := some { f with recordDue := false } }
      else s
    | [], some r =>
      let i := (s.now - r).toNat
      let x := s.padBytes t tag (addr + 512 * i) 512
      let s := x.2.2
      let f := { f with loaded := f.loaded ++ [ofBytes 4096 x.1] }
      let s := if x.2.1 then
          ((s.arr t).run.filter fun p => p.frozen && decide (partRow p.part.val ≤ i ∧ i < partRow p.part.val + partH p.part.val)).foldl
            (fun s p => s.poisonPass t p.part p.start 2) s
        else s
      if f.loaded.length < 128 then s.modArr t fun a => { a with freeze := some f } else s.endRestore t f

/-- The cycle of a tile's array: the counters, freeze work, then the cycle of each pass that was not frozen in it (R80, R82). -/
def State.arrayCycle (s : State) (t : LTile) : State :=
  let live := (s.arr t).run.filter (!·.frozen)
  let s := (s.meterArray t).freezeCycle t
  live.foldl (fun s p =>
    match (s.arr t).run.find? fun q => decide (q.part = p.part ∧ q.start = p.start) with
    | some q => s.passCycle t q
    | none => s) s

/-! ## Parity errors and parking (R85, R86, R88) -/

/-- The quarter of a cell. -/
def quarterOf (row col : Nat) : Nat := 2 * (row / 64) + col / 64

/-- PCNT (R88): the largest count of parity errors of any quarter in the present interval. -/
def State.parityCount (s : State) (t : LTile) : Nat :=
  Nat.min 255 (((s.arr t).parity.filter fun x => decide (x.2.1 = interval s.now 1)).foldl (fun n x => Nat.max n x.2.2) 0)

/-- Whether a partition covers a quarter. -/
def coversQ (part q : Nat) : Bool := (partQs part).contains q

/-- A parity error poisons the pass that owns the cell, or for a drain latch the pass that drains from it (R85);
each quarter's errors are counted over the interval and the third reports the tile (R86). -/
def arrayParity (t : LTile) (kind : ParityKind) (row col : Nat) (s : State) : State :=
  let q := quarterOf row col
  let mine := (s.arr t).run.filter fun p => coversQ p.part.val q
  let hit := match kind with | .cell => mine.head? | .latch => mine.getLast?
  let s := match hit with
    | none => s
    | some p => s.poisonPass t p.part p.start (match kind with | .cell => 2 | .latch => 3)
  let i := interval s.now 1
  let n : Nat := match tfind q (s.arr t).parity with | some (j, n) => if j = i then n + 1 else 1 | none => 1
  let s := s.modArr t fun a => { a with parity := tput q (i, n) a.parity }
  if (n == 3) then s.swapCandidate t 1 (.rule 86 0) none q else s

def execArrayParityError (t : LTile) (kind : ParityKind) (row col : Fin 128) (s : State) : Res :=
  .next (arrayParity t kind row.val col.val s)

/-- A write of PARK: bit 1 of ARR_CTRL set by an agent with rights (R88); running passes complete. -/
def parkReg (r : Reg) (i : Nat) (t : LTile) (a : Agent) (s : State) : State :=
  if mayTile a t then s.fset r i i 1 else s.regRec r

def execArrPark (t : LTile) (a : Agent) (s : State) : Res := .next (parkReg (treg .arrCtrl t) 1 t a s)

end Sys2Proof.Machine
end

