-- ==== Sys2Proof/Machine/Engine.lean ====
section
/-!
DEFINITION. The Signal Engine's issue and results (R112-R142): each command issues the next instruction of the
tile's block when the opcode is its own; results are written when their latency is over.
-/
namespace Sys2Proof.Machine

/-! ## Blocks (R126, R209) -/

/-- The instructions of a block with its REPs unrolled: each with its index and whether it is repeated. -/
def unroll : Nat → List (Nat × W64) → List (Nat × W64 × Bool)
  | 0, _ => []
  | _, [] => []
  | f + 1, (i, w) :: r =>
    if opOf w = 0x04 then
      let n := immOf w / 4096 + 1
      let body := (r.take n).map fun (j, x) => (j, x, true)
      (i, w, false) :: ((List.replicate (immOf w % 4096 + 1) body).flatten ++ unroll f (r.drop n))
    else (i, w, false) :: unroll f r

/-- The cycle after the last issue interval and the last result write of a sequence that starts to issue in `v`. -/
def blockSpan (ws : List (Nat × W64 × Bool)) (v : W64) : W64 × W64 :=
  ws.foldl (fun (x : W64 × W64) e =>
    let w := x.1 + BitVec.ofNat 64 (latOf e.2.1 - 1)
    (x.1 + BitVec.ofNat 64 (issOf e.2.1), if x.2 < w then w else x.2)) (v, v)

def State.eng (s : State) (t : LTile) : Engine := (s.tiles.get t).eng

def State.modEng (s : State) (t : LTile) (f : Engine → Engine) : State :=
  s.modTile t fun x => { x with eng := f x.eng }

/-- The block whose instruction is next: a radio block first, a started one before a pending one. -/
def Engine.head (e : Engine) : Option (SgeBlock × Bool) :=
  match e.blocks.find? (·.radio), e.pend.find? (·.radio), e.blocks.head?, e.pend.head? with
  | some b, _, _, _ => some (b, true)
  | none, some b, _, _ => some (b, false)
  | none, none, some b, _ => some (b, true)
  | none, none, none, some b => some (b, false)
  | none, none, none, none => none

/-- A block replaced by what remains of it once an instruction has issued. -/
def Engine.advance (e : Engine) (b : SgeBlock) (rest : List (Nat × W64 × Bool)) : Engine :=
  let others := e.blocks.filter fun x => decide (x.radio ≠ b.radio)
  { e with pend := e.pend.filter (fun x => !decide (x = b)), blocks := if rest = [] then others else { b with todo := rest, held := false } :: others }

/-! ## Operands (R112, R113, R119) -/

/-- The pad offset of a task's signal-bank row `r`, where all of it lies in the window (R112, R151). -/
def TaskCtx.bankRow (k : TaskCtx) (r : Nat) : Option Nat :=
  let a := 0xA00000 + 512 * (k.srow + r)
  if k.base ≤ a ∧ a + 512 ≤ k.bound then some a else none

/-- The row that a specifier names, and the scalar registers after its access (R119). -/
def bankOperand (xs : List (BitVec 32)) (v : Nat) : Nat × List (BitVec 32) :=
  let n := (v - 32) % 16
  let x := xs.getD n 0
  let row := bits x 11 0
  if 48 ≤ v then
    let next := ((row : Int) + sbits x 27 16) % 4096
    (row, lmod (fun _ => putBits x 11 0 next.toNat) n xs)
  else (row, xs)

/-- The bank rows of an instruction's operands, in the order S1, S2, D, and the scalar registers after the accesses. -/
structure Operands where
  s1 : Option Nat := none
  s2 : Option Nat := none
  d : Option Nat := none
  xs : List (BitVec 32)
  deriving DecidableEq, Repr

/-- The bank operands of an instruction. `rd` and `wr` tell whether its bank read and its bank write happen: BFPD and
BFPC make theirs only when the stage needs it (R138, R139). -/
def operandsOf (w : W64) (r : OpRow) (xs : List (BitVec 32)) (rd wr : Bool) : Operands :=
  if r.scalar then { xs := xs }
  else
    let step (use move : Bool) (v : Nat) (xs : List (BitVec 32)) : Option Nat × List (BitVec 32) :=
      if isBank use v then
        let b := bankOperand xs v
        (some b.1, if move then b.2 else xs)
      else (none, xs)
    let a := step r.s1 rd (s1Of w) xs
    let b := step r.s2 true (s2Of w) a.2
    let d := step r.d wr (dOf w) b.2
    { s1 := a.1, s2 := b.1, d := d.1, xs := d.2 }

/-! ## Faults (R114, R120, R142) -/

/-- SGE_FAULT (R143). -/
def State.sgeFault (s : State) (t : LTile) (c : CtxNo) (kind idx op : Nat) : State :=
  s.rset (treg .sgeFault t) (BitVec.ofNat 64 (kind + 256 * (idx % 65536) + 2 ^ 24 * op + 2 ^ 32 * s.kernelOf t c))

/-- A field, window or slot-conflict fault drops the task of either kind: no further engine instruction of it issues (R142). -/
def engFault (t : LTile) (c : CtxNo) (kind idx : Nat) (w : W64) (s : State) : State :=
  ((s.sgeFault t c kind idx (opOf w)).failTask t c 2).modEng t fun e =>
    { e with blocks := e.blocks.filter (fun b => decide (b.ctx ≠ c)), pend := e.pend.filter (fun b => decide (b.ctx ≠ c)) }

/-! ## Issue (R115, R116, R140, R141) -/

/-- The state of R111 cleared for a task whose owner differs (R140). -/
def Engine.cleared (e : Engine) : Engine :=
  { e with v := Vector.replicate 32 0, acc := Vector.replicate 4 0, x := (Vector.replicate 16 0).set 15 15, mss := 0, lut := 0,
           unpack := [], pack := [], lutOf := none, unpackOf := none, packOf := none }

/-- The table and the stages as a task finds them: its own, or empty (R135, R139; log entry 58). -/
def Engine.lutFor (e : Engine) (c : CtxNo) : BitVec 8192 := if e.lutOf = some c then e.lut else 0
def Engine.unpackFor (e : Engine) (c : CtxNo) : Bytes := if e.unpackOf = some c then e.unpack else []
def Engine.packFor (e : Engine) (c : CtxNo) : Bytes := if e.packOf = some c then e.pack else []

/-- The table and the stages of a context's earlier task are none of its next one's (R135, R139). -/
def Engine.forget (e : Engine) (c : CtxNo) : Engine :=
  let keep (x : Option CtxNo) : Option CtxNo := if x = some c then none else x
  { e with lutOf := keep e.lutOf, unpackOf := keep e.unpackOf, packOf := keep e.packOf }

/-- The engine is cleared where the task's owner differs from that of the previous engine task (R140). -/
def State.engOwn (s : State) (t : LTile) (owner : Nat) : State :=
  if (s.eng t).owner = some owner then s else s.modEng t fun e => { e.cleared with owner := some owner }

/-- The block that is next takes the engine from another owner (R140): radio's does so in its window's first cycle, a tenant's while no
window is open and the tenant may issue; nothing of it issues before the next cycle (log entry 182). -/
def State.engTake (s : State) (t : LTile) : State :=
  match (s.eng t).head with
  | some (b, _) => match s.ctx t b.ctx with
    | some k => if b.radio || !(s.inWindow s.now t || s.issueStopped t) then s.engOwn t k.owner else s
    | none => s
  | none => s

/-- A tenant instruction is held: its last result write would fall at or after V - 160, or the window is open
(R141, R206); a block that has not started is held by a suspend (R335). -/
def State.engHeld (s : State) (t : LTile) (w : W64) (started : Bool) : Bool :=
  s.inWindow s.now t
  || (match s.nextSpan t s.now with | some (o, _) => decide ((o - s.now).toNat ≤ latOf w - 1 + 160) | none => false)
  || (!started && s.issueStopped t)

/-- The width and count of BFPD and BFPC give the bytes they move (R138, R139). -/
def bfpLen (i : EngIn) (imm : Nat) : Nat := bfpP imm * (1 + 3 * bfpW i imm)

/-- A block of the engine that cannot issue in this cycle: it is not the next one, the engine is parked or another owner's, or it is a held
tenant's. -/
def State.engBlocked (s : State) (t : LTile) (b : SgeBlock) (started : Bool) : Bool :=
  bit (s.rget (treg .sgeCtrl t)) 0 || decide ((s.eng t).head.map (·.1) ≠ some b) || decide ((s.eng t).owner ≠ (s.ctx t b.ctx).map (·.owner))
  || (!b.radio && match b.todo with | (_, w, _) :: _ => s.engHeld t w started | [] => false)

/-- The cycle of blocks that are due and cannot issue: they come due in the next one. The hold of a tenant's is counted once (R206). -/
def State.engHolds (s : State) (t : LTile) : State :=
  let e := s.eng t
  let late (started : Bool) (b : SgeBlock) : Bool := decide (later b.earliest e.next ≤ s.now) && s.engBlocked t b started
  let counts (started : Bool) (b : SgeBlock) : Bool := late started b && !b.radio && !b.held && match b.todo with | (_, w, _) :: _ => s.engHeld t w started | [] => false
  let hold (started : Bool) (b : SgeBlock) : SgeBlock := if late started b then { b with earliest := s.now + 1, held := b.held || counts started b } else b
  (s.finc (treg .schStat t) 47 32 ((e.blocks.filter (counts true)).length + (e.pend.filter (counts false)).length)).modEng t fun e =>
    { e with blocks := e.blocks.map (hold true), pend := e.pend.map (hold false) }

/-- What BFPC leaves in the pack stage and writes, of the stage and the bytes that it appends (R139). -/
def bfpcStage (stage b : Bytes) : Bytes × Option Vec :=
  let st := stage ++ b
  if 512 ≤ st.length then (st.drop 512, some (vecOf (st.take 512))) else (st, none)

/-- What an instruction takes from the engine as it issues: its operands, bank rows, and the stage that it works on. -/
structure EngPlan where
  ins : EngIn
  ops : Operands
  stage : Bytes
  rd : Bool
  wr : Bool
  gB : Int
  gS : Int
  gN : Int
  gRows : List Int
  deriving DecidableEq, Repr

/-- The plan of an instruction `w` of the task in context `c` in the engine `e`; `seed` numbers the free value of a ROTZ (log entry 1). -/
def engPlan (e : Engine) (c : CtxNo) (w : W64) (seed : Nat) : EngPlan :=
  let op := opOf w
  let imm := immOf w
  let xs := e.x.toList
  let vget (v : Nat) : Vec := if h : v < 32 then e.v.get ⟨v, h⟩ else 0
  let ins : EngIn := { s1 := vget (s1Of w), s2 := vget (s2Of w), s3 := vget (s3Of w), acc := e.acc.get (fin 4 (accOf w)), xs := xs, lut := e.lutFor c, seed := seed }
  let len := bfpLen ins imm
  let stage := if op = 0x3A then e.unpackFor c else if op = 0x3B ∨ op = 0x3C then e.packFor c else []
  let rd := op ≠ 0x3A || decide (stage.length < len)
  let wr := op ≠ 0x3B || decide (512 ≤ stage.length + len)
  let gB := (ins.x (imm / 256 % 16)).toInt
  let gS := (ins.x (imm / 256 % 16 + 1)).toInt
  let gN := (ins.x (imm / 256 % 16 + 2)).toInt
  { ins := ins, ops := match opRow op with | some r => operandsOf w r xs rd wr | none => { xs := xs }, stage := stage, rd := rd, wr := wr,
    gB := gB, gS := gS, gN := gN, gRows := if op = 0x38 then bgathReads gB gS gN imm else [] }

/-- Every bank row of the plan lies in the task's window (R112, R151). -/
def EngPlan.inWindow (p : EngPlan) (k : TaskCtx) : Bool :=
  ([p.ops.s1, p.ops.s2, p.ops.d].filterMap id).all (fun x => (k.bankRow x).isSome) && p.gRows.all fun x => decide (0 ≤ x) && (k.bankRow x.toNat).isSome

/-- The pad offset of an operand's bank row. -/
def bankAt (k : TaskCtx) (x : Option Nat) : Option Nat := x.bind k.bankRow

/-- An instruction uses slot B: its destination is a bank row. BFPC reserves its write slot whether or not its stage
fills (R113, R139). -/
def usesSlotB (w : W64) : Bool :=
  match opRow (opOf w) with
  | some r => isBank (r.d && !r.scalar) (dOf w)
  | none => false

/-- An earlier instruction uses slot B in the cycle `due` of the write of `w` (R114). -/
def Engine.clash (e : Engine) (w : W64) (due : W64) : Bool :=
  usesSlotB w && e.flight.any fun f => usesSlotB f.word && decide (f.due = due)

/-- The cycle of an instruction's last result write (R115). -/
def State.engDue (s : State) (w : W64) : W64 := s.now + BitVec.ofNat 64 (latOf w - 1)

/-- The instruction on its way, with its bank reads (R113). -/
def EngPlan.flight (p : EngPlan) (s : State) (mss : BitVec 10240) (c : CtxNo) (k : TaskCtx) (idx : Nat) (w : W64) (parity : Bool) : Flight :=
  let two := (bankAt k p.ops.s1).isSome
  let reads :=
    (match bankAt k p.ops.s1 with | some a => if p.rd then [(s.now, 1, a)] else [] | none => [])
    ++ (match bankAt k p.ops.s2 with | some a => [(s.now + (if two then 1 else 0), 2, a)] | none => [])
    ++ ((List.range p.gRows.length).zip p.gRows).filterMap (fun (j, x) => (k.bankRow x.toNat).map fun a => (s.now + BitVec.ofNat 64 j, 0, a))
  { ctx := c, owner := k.owner, radio := k.radio, word := w, index := idx, due := s.engDue w, reads := reads, ins := p.ins,
    bankD := if p.wr then bankAt k p.ops.d else none, poison := parity, gRows := p.gRows, gB := p.gB, gS := p.gS, gN := p.gN,
    mss := mss, stage := p.stage }

/-- The instruction at the head of a block issues in this cycle. -/
def engIssue1 (t : LTile) (parity : Bool) (b : SgeBlock) (idx : Nat) (w : W64) (rest : List (Nat × W64 × Bool))
    (k : TaskCtx) (s : State) : State :=
  let seed := if opOf w = 0x34 then s.draw else (0, s)
  let s := seed.2
  let p := engPlan (s.eng t) b.ctx w seed.1
  if !p.inWindow k then engFault t b.ctx 3 idx w s
  else if (s.eng t).clash w (s.engDue w) then engFault t b.ctx 5 idx w s
  else
    let f := p.flight s (s.eng t).mss b.ctx k idx w parity
    let s := s.finc (treg .sgeIcount t) 47 0
    let s := if k.radio then s else s.act fun a => { a with engine := a.engine + 1 }
    let s := if parity then s.sgeFault t b.ctx 2 idx (opOf w) else s
    s.modEng t fun e =>
      let e := e.advance b rest
      { e with x := Vector.ofFn fun (i : Fin 16) => p.ops.xs.getD i.val 0
               flight := enq e.flight f
               cur := some b.ctx
               next := s.now + BitVec.ofNat 64 (issOf w) }

/-- The engine's turn: the instruction at the head of its block issues if it is one of those that `mine` accepts, this is its cycle
(R116, R209), and nothing stops it. -/
def engIssue (mine : W64 → Bool) (t : LTile) (parity : Bool) (s : State) : State :=
  let e := s.eng t
  match e.head with
  | none => s
  | some (b, started) =>
    match b.todo, s.ctx t b.ctx with
    | (idx, w, inRep) :: rest, some k =>
      if !mine w ∨ s.now ≠ later b.earliest e.next ∨ s.engBlocked t b started then s
      else match opRow (opOf w) with
        | none => engFault t b.ctx 4 idx w s
        | some _ =>
          if !wordOk w ∨ (opOf w = 0x04 ∧ inRep) then engFault t b.ctx 4 idx w s
          else engIssue1 t parity b idx w rest k s
    | _, _ => s

/-- The instruction with a given opcode. -/
def isOp (op : Nat) (w : W64) : Bool := decide (opOf w = op)

/-! ## Results (R115, R129, R130, R138, R142) -/

/-- The result of an instruction, from the values of its issue (R115), and the engine with its min-sum state or stage after it; where
it is poisoned, what it writes there is 0 (R142). -/
def Flight.finish (f : Flight) (e : Engine) : EngOut × Engine :=
  let imm := immOf f.word
  let op := opOf f.word
  let len := bfpLen f.ins imm
  let sound (b : Bytes) : Bytes := if f.poison then b.map fun _ => 0 else b
  if op = 0x33 then
    let r := msstep f.ins imm f.mss
    (r.1, if imm / 16384 % 2 = 1 then e else { e with mss := if f.poison then 0 else r.2 })
  else if op = 0x38 then (bgath f.ins imm f.gRows f.gB f.gS f.gN, e)
  else if op = 0x3A then
    let st := if f.stage.length < len then f.stage ++ sound (vecBytes f.ins.s1) else f.stage
    (bfpdOut (bfpW f.ins imm) (bfpP imm) (st.take len), { e with unpack := st.drop len, unpackOf := some f.ctx })
  else if op = 0x3B then
    let st := bfpcStage f.stage (sound (bfpcBytes (bfpW f.ins imm) (bfpP imm) f.ins.s1))
    ({ vec := st.2 }, { e with pack := st.1, packOf := some f.ctx })
  else if op = 0x3C then ({ vec := some (vecOf f.stage) }, { e with pack := [], packOf := some f.ctx })
  else (engCompute f.word f.ins, e)

/-- Every result written as 0 (R142). -/
def EngOut.zeroed (o : EngOut) : EngOut :=
  { vec := o.vec.map fun _ => 0, s3 := o.s3.map fun _ => 0, acc := o.acc.map fun _ => 0,
    x := o.x.map fun p => (p.1, 0), lut := o.lut.map fun _ => 0 }

/-- The register writes of a result. -/
def Engine.write (e : Engine) (f : Flight) (o : EngOut) : Engine :=
  let setV (e : Engine) (n : Nat) (v : Option Vec) : Engine :=
    match v with | some x => if h : n < 32 then { e with v := e.v.set n x } else e | none => e
  let e := setV e (dOf f.word) o.vec
  let e := setV e (s3Of f.word) o.s3
  let e := match o.acc with | some a => { e with acc := e.acc.set (fin 4 (accOf f.word)) a } | none => e
  let e := match o.lut with | some l => { e with lut := l, lutOf := some f.ctx } | none => e
  o.x.foldl (fun e p => { e with x := e.x.set (fin 16 p.1) p.2 }) e

/-- An instruction's results are written (R115, R123, R142): a poisoned one writes zeros, and drops a tenant task. -/
def State.engResult (s : State) (t : LTile) (f : Flight) : State :=
  let r := f.finish (s.eng t)
  let o := if f.poison then r.1.zeroed else r.1
  let s := s.modEng t fun _ => r.2.write f o
  let s := match f.bankD, o.vec with
    | some a, some v => s.padStore t rankEngine f.owner a (toBytes v 512)
    | _, _ => s
  let s := if o.sat then (s.flag t f.ctx true false false).fset (treg .sgeFlags t) 0 0 1 else s
  if f.poison then
    let s := (s.flag t f.ctx false false true).modCtx t f.ctx fun k => { k with engPoison := true }
    let s := s.logRec { cls := .uc, unit := 2, code := .rule 142 0, owners := ownersOf f.owner, ltile := t, ptile := s.ptile t,
                        object := f.index % 65536, kernel := s.kernelOf t f.ctx,
                        detail := leBytes 4 ((s.ctx t f.ctx).elim 0 (·.recIdx)) }
    if f.radio then s else s.dropTask t f.ctx 2
  else s

/-- The bank reads of a flight in this cycle (R113). -/
def State.engReads (s : State) (t : LTile) (f : Flight) : Flight × State :=
  (f.reads.filter fun r => decide (r.1 = s.now)).foldl (fun (x : Flight × State) r =>
    let b := x.2.padBytes t x.1.owner r.2.2 512
    let v := ofBytes 4096 b.1
    let f := x.1
    let ins := if r.2.1 = 1 then { f.ins with s1 := v } else if r.2.1 = 2 then { f.ins with s2 := v } else { f.ins with rows := enq f.ins.rows v }
    let s := if b.2.1 then b.2.2.sgeFault t f.ctx 1 f.index (opOf f.word) else b.2.2
    ({ f with ins := ins, poison := f.poison || b.2.1 }, s)) (f, s)

/-- The cycle of a tile's engine: holds, a change of owner, bank reads, then the results due. -/
def State.engCycle (s : State) (t : LTile) : State :=
  let s := (s.engHolds t).engTake t
  let r := (s.eng t).flight.foldl (fun (x : List Flight × State) f =>
    let y := x.2.engReads t f
    (enq x.1 y.1, y.2)) ([], s)
  let s := r.2.modEng t fun e => { e with flight := r.1.filter fun f => decide (f.due ≠ s.now) }
  (r.1.filter fun f => decide (f.due = s.now)).foldl (fun s f => s.engResult t f) s

/-! ## The commands -/

/-- NOP, and the field fault of an instruction whose opcode is reserved (R120). -/
def execSgeNop (t : LTile) (s : State) : Res := .next (engIssue (fun w => isOp 0x00 w || (opRow (opOf w)).isNone) t false s)
def execSetxl (t : LTile) (s : State) : Res := .next (engIssue (isOp 0x01) t false s)
def execSetxh (t : LTile) (s : State) : Res := .next (engIssue (isOp 0x02) t false s)
def execXop (t : LTile) (p : Bool) (s : State) : Res := .next (engIssue (isOp 0x03) t p s)
def execRep (t : LTile) (s : State) : Res := .next (engIssue (isOp 0x04) t false s)
def execClracc (t : LTile) (s : State) : Res := .next (engIssue (isOp 0x05) t false s)
def execLdtb (t : LTile) (p : Bool) (s : State) : Res := .next (engIssue (isOp 0x06) t p s)
def execAdd (t : LTile) (p : Bool) (s : State) : Res := .next (engIssue (isOp 0x10) t p s)
def execSub (t : LTile) (p : Bool) (s : State) : Res := .next (engIssue (isOp 0x11) t p s)
def execMul (t : LTile) (p : Bool) (s : State) : Res := .next (engIssue (isOp 0x12) t p s)
def execMla (t : LTile) (p : Bool) (s : State) : Res := .next (engIssue (isOp 0x13) t p s)
def execMls (t : LTile) (p : Bool) (s : State) : Res := .next (engIssue (isOp 0x14) t p s)
def execMac (t : LTile) (p : Bool) (s : State) : Res := .next (engIssue (isOp 0x15) t p s)
def execMacc (t : LTile) (p : Bool) (s : State) : Res := .next (engIssue (isOp 0x16) t p s)
def execAccout (t : LTile) (p : Bool) (s : State) : Res := .next (engIssue (isOp 0x17) t p s)
def execMin (t : LTile) (p : Bool) (s : State) : Res := .next (engIssue (isOp 0x18) t p s)
def execMax (t : LTile) (p : Bool) (s : State) : Res := .next (engIssue (isOp 0x19) t p s)
def execAbs (t : LTile) (p : Bool) (s : State) : Res := .next (engIssue (isOp 0x1A) t p s)
def execShr (t : LTile) (p : Bool) (s : State) : Res := .next (engIssue (isOp 0x1B) t p s)
def execAnd (t : LTile) (p : Bool) (s : State) : Res := .next (engIssue (isOp 0x1C) t p s)
def execOr (t : LTile) (p : Bool) (s : State) : Res := .next (engIssue (isOp 0x1D) t p s)
def execXor (t : LTile) (p : Bool) (s : State) : Res := .next (engIssue (isOp 0x1E) t p s)
def execCmp (t : LTile) (p : Bool) (s : State) : Res := .next (engIssue (isOp 0x1F) t p s)
def execSel (t : LTile) (p : Bool) (s : State) : Res := .next (engIssue (isOp 0x20) t p s)
def execBxd (t : LTile) (p : Bool) (s : State) : Res := .next (engIssue (isOp 0x30) t p s)
def execNorm (t : LTile) (p : Bool) (s : State) : Res := .next (engIssue (isOp 0x31) t p s)
def execExpx (t : LTile) (p : Bool) (s : State) : Res := .next (engIssue (isOp 0x32) t p s)
def execMsstepForward (t : LTile) (p : Bool) (s : State) : Res :=
  .next (engIssue (fun w => isOp 0x33 w && decide (immOf w / 16384 % 2 = 0)) t p s)
def execMsstepBackward (t : LTile) (p : Bool) (s : State) : Res :=
  .next (engIssue (fun w => isOp 0x33 w && decide (immOf w / 16384 % 2 = 1)) t p s)
def execRotz (t : LTile) (p : Bool) (s : State) : Res := .next (engIssue (isOp 0x34) t p s)
def execZip (t : LTile) (p : Bool) (s : State) : Res := .next (engIssue (isOp 0x35) t p s)
def execUnzip (t : LTile) (p : Bool) (s : State) : Res := .next (engIssue (isOp 0x36) t p s)
def execPerm (t : LTile) (p : Bool) (s : State) : Res := .next (engIssue (isOp 0x37) t p s)
def execBgath (t : LTile) (p : Bool) (s : State) : Res := .next (engIssue (isOp 0x38) t p s)
def execLuti (t : LTile) (p : Bool) (s : State) : Res := .next (engIssue (isOp 0x39) t p s)
def execBfpd (t : LTile) (p : Bool) (s : State) : Res := .next (engIssue (isOp 0x3A) t p s)
def execBfpc (t : LTile) (p : Bool) (s : State) : Res := .next (engIssue (isOp 0x3B) t p s)
def execPkfl (t : LTile) (p : Bool) (s : State) : Res := .next (engIssue (isOp 0x3C) t p s)
def execCvt (t : LTile) (p : Bool) (s : State) : Res := .next (engIssue (isOp 0x3D) t p s)

/-- PARK of the engine: bit 0 of SGE_CTRL set (R143). -/
def execSgePark (t : LTile) (a : Agent) (s : State) : Res := .next (parkReg (treg .sgeCtrl t) 0 t a s)

/-- A write of SGE_FLAGS: SAT clears where the value has a 1 (R143). -/
def execSgeFlagsClear (t : LTile) (a : Agent) (value : W64) (s : State) : Res :=
  let r := treg .sgeFlags t
  if mayTile a t then
    let s := if value.toNat / 2 = 0 then s else s.regRec r
    .next (s.rset r (r.store (s.rget r) value))
  else .next (s.regRec r)

end Sys2Proof.Machine
end

