-- ==== Sys2Proof/Machine/Compare.lean ====
section
/-!
DEFINITION. The compare unit and its pad operations (R170-R176).
-/
namespace Sys2Proof.Machine

/-! ## Descriptors (R170) -/

def poOp (d : Bytes) : Nat := fld d 0 1
def poSize (d : Bytes) : Nat := 2 ^ (fld d 1 1 % 4)
def poRel (d : Bytes) : Nat := fld d 1 1 / 4 % 8
def poSigned (d : Bytes) : Bool := fld d 1 1 / 32 % 2 = 1
def poShift (d : Bytes) : Nat := fld d 2 1 % 32
def poCount (d : Bytes) : Nat := fld d 4 3 + 1
def poAddr (d : Bytes) : Nat := fld d 8 3
def poStride (d : Bytes) : Nat := fld d 12 3
def poRef (d : Bytes) (i : Nat) : Nat := fld d (16 + 4 * i) 4
def poDst (d : Bytes) : Nat := fld d 24 3
def poNcnt (d : Bytes) : Nat := fld d 28 4

/-- Reserved fields and codes (R171, KIND 1). -/
def poFieldsOk (d : Bytes) : Bool :=
  decide ((poOp d = 1 ∨ poOp d = 2) ∧ fld d 1 1 % 4 ≠ 3 ∧ poRel d ≤ 4 ∧ fld d 1 1 < 64 ∧ fld d 2 1 < 32 ∧ fld d 3 1 = 0
    ∧ fld d 7 1 = 0 ∧ fld d 11 1 = 0 ∧ fld d 15 1 = 0 ∧ fld d 27 1 = 0 ∧ poNcnt d < 2 ^ 20
    ∧ (poOp d = 1 → fld d 2 1 = 0 ∧ poNcnt d = 0) ∧ (poOp d = 2 → 1 ≤ poNcnt d) ∧ (poRel d ≠ 4 → poRef d 1 = 0))

/-- The end of the element span, exclusive. -/
def poSpan (d : Bytes) : Nat := (poCount d - 1) * poStride d + poSize d

/-- Sizes, strides, alignment and overlap (R170, R171, KIND 2). -/
def poShapeOk (d : Bytes) : Bool :=
  decide (poAddr d % poSize d = 0 ∧ poStride d % poSize d = 0 ∧ poSize d ≤ poStride d
    ∧ poDst d % (if poOp d = 1 then 4 else 64) = 0)
  && (decide (poOp d = 1) || !overlaps (poAddr d) (poAddr d + poSpan d) (poDst d) (poDst d + 2 * poNcnt d))

/-- The conditions of R171 that need no task. -/
def poStaticFault (d : Bytes) : Option Nat := if !poFieldsOk d then some 1 else if !poShapeOk d then some 2 else none

/-- The conditions of R171. -/
def poFault (k : TaskCtx) (d : Bytes) : Option Nat :=
  match poStaticFault d with
  | some f => some f
  | none =>
    if (k.span (poAddr d) (poSpan d)).isSome && (k.span (poDst d) (if poOp d = 1 then 4 else 2 * poNcnt d)).isSome then none else some 3

/-- The row that element `n` lies in. -/
def poRow (base : Nat) (d : Bytes) (n : Nat) : Nat := (base + poAddr d + n * poStride d) / 64

/-- W (R173). -/
def poW (base : Nat) (d : Bytes) : Nat :=
  ((List.range (poCount d)).filter fun n => decide (n = 0) || decide (poRow base d n ≠ poRow base d (n - 1))).length

/-- The length T of a pad operation (R173, R175). -/
def poT (base : Nat) (d : Bytes) : Nat := if poOp d = 1 then poW base d + 6 else poCount d + 8

/-! ## Values (R172, R174) -/

/-- An element-sized value, signed or unsigned. -/
def poVal (d : Bytes) (raw : Nat) : Int :=
  let w := 8 * poSize d
  if poSigned d then sInt w raw else ((raw % 2 ^ w : Nat) : Int)

/-- Whether an element passes (R172). -/
def poPass (d : Bytes) (x : Int) : Bool :=
  let r0 := poVal d (poRef d 0)
  let r1 := poVal d (poRef d 1)
  match poRel d with
  | 0 => decide (x = r0)
  | 1 => decide (x ≠ r0)
  | 2 => decide (x < r0)
  | 3 => decide (r0 ≤ x)
  | _ => decide (r0 ≤ x ∧ x ≤ r1)

/-- The bytes that a pad operation reads: an uncorrectable row's data is a free value, for the spec gives no result
of comparing it (log entry 24). -/
def State.poRead (s : State) (t : LTile) (tag addr len : Nat) : Bytes × State :=
  let r := s.padBytes t tag addr len
  if r.2.1 then
    let f := r.2.2.draw
    (toBytes (Config.freeBits 512 f.1) len, f.2)
  else (r.1, r.2.2)

/-! ## The unit -/

def State.modCmp (s : State) (t : LTile) (f : CompareUnit → CompareUnit) : State := s.modTile t fun x => { x with cmp := f x.cmp }

def State.cmp (s : State) (t : LTile) : CompareUnit := (s.tiles.get t).cmp

/-- The operation that starts next: radio before tenant. -/
def CompareUnit.head (u : CompareUnit) : Option PadOp :=
  match u.pend.find? (·.radio) with
  | some o => some o
  | none => u.pend.head?

/-- A tenant operation is held: its last cycle would fall at or after V - 160, a window is open, or tenant work is
stopped (R176, R206, R335). -/
def State.poHeld (s : State) (t : LTile) (len : Nat) : Bool :=
  s.inWindow s.now t || s.issueStopped t
  || (match s.nextSpan t s.now with | some (o, _) => decide ((o - s.now).toNat ≤ len - 1 + 160) | none => false)

/-- PAD_OPFAULT (R185). -/
def State.poFaultReg (s : State) (t : LTile) (c : CtxNo) (kind op : Nat) : State :=
  s.rset (treg .padOpfault t) (BitVec.ofNat 64 (kind + 256 * op + 2 ^ 32 * s.kernelOf t c))

/-- A pending tenant operation whose descriptor is sound is held. -/
def State.poHolds (s : State) (t : LTile) (o : PadOp) : Bool :=
  !o.radio && (s.ctx t o.ctx).any fun k => (poFault k o.desc).isNone && s.poHeld t (poT k.base o.desc)

/-- The cycle of pending operations that are due and cannot start: they come due in the next one. A hold is counted once (R206). -/
def State.cmpHolds (s : State) (t : LTile) : State :=
  let u := s.cmp t
  let late (o : PadOp) : Bool := decide (o.earliest ≤ s.now) && (u.run.isSome || decide (u.head ≠ some o) || s.poHolds t o)
  let counts (o : PadOp) : Bool := late o && !o.held && s.poHolds t o
  (s.finc (treg .schStat t) 47 32 (u.pend.filter counts).length).modCmp t fun u =>
    { u with pend := u.pend.map fun o => if late o then { o with earliest := s.now + 1, held := o.held || counts o } else o }

/-- A pending pad operation starts (R171, R176, R209), when it is of the kind of the command and this is its cycle. -/
def poStart (mine : Nat → Bool) (t : LTile) (s : State) : State :=
  match (s.cmp t).head with
  | none => s
  | some o =>
    match s.ctx t o.ctx with
    | none => s
    | some k =>
      if !mine (poOp o.desc) ∨ s.now ≠ o.earliest ∨ (s.cmp t).run.isSome then s
      else match poFault k o.desc with
        | some f =>
          let s := s.modCmp t fun u => { u with pend := u.pend.filter fun x => !decide (x = o) }
          (s.poFaultReg t o.ctx f (poOp o.desc)).failTask t o.ctx 3
        | none =>
          if !o.radio && s.poHeld t (poT k.base o.desc) then s
          else s.modCmp t fun u => { run := some o, pend := u.pend.filter fun x => !decide (x = o) }

/-- CMPCNT (R172), and the fault of a descriptor whose OP is reserved (R171). -/
def execCmpcnt (t : LTile) (s : State) : Res := .next (poStart (fun op => decide (op ≠ 2)) t s)

/-- CMPINC (R174). -/
def execCmpinc (t : LTile) (s : State) : Res := .next (poStart (fun op => decide (op = 2)) t s)

/-- CMPCNT reads the elements of its next row (R173). -/
def State.cntCycle (s : State) (t : LTile) (k : TaskCtx) (o : PadOp) : PadOp × State :=
  let d := o.desc
  if poCount d ≤ o.n then (o, s)
  else
    let row := poRow k.base d o.n
    let m := ((List.range 64).filter fun i => decide (o.n + i < poCount d ∧ poRow k.base d (o.n + i) = row)).length
    let r := s.poRead t o.owner (64 * row) 64
    let hits := (List.range m).filter fun i =>
      poPass d (poVal d (fld r.1 ((k.base + poAddr d + (o.n + i) * poStride d) % 64) (poSize d)))
    ({ o with n := o.n + m, count := o.count + hits.length }, r.2)

/-- CMPINC handles its next element (R174, R175). -/
def State.incCycle (s : State) (t : LTile) (k : TaskCtx) (o : PadOp) : PadOp × State :=
  let d := o.desc
  if poCount d ≤ o.n then (o, s)
  else
    let r := s.poRead t o.owner (k.base + poAddr d + o.n * poStride d) (poSize d)
    let x := poVal d (leNat r.1)
    let s := r.2
    let i := floorShift (x - poVal d (poRef d 0)) (poShift d)
    let o := { o with n := o.n + 1 }
    if poPass d x ∧ 0 ≤ i ∧ i < poNcnt d then
      let a := k.base + poDst d + 2 * i.toNat
      let c := s.poRead t o.owner a 2
      -- a counter in a row whose tag cannot be known is claimed, and starts from 0 (R156, R174)
      let v := if ((s.pad t).row (rowOf a)).unknown then 0 else leNat c.1
      if v = 0xFFFF then (o, c.2.flag t o.ctx true false false)
      else (o, c.2.padStore t rankOther o.owner a (leBytes 2 (v + 1)))
    else (o, s)

/-- The cycle of a tile's compare unit. -/
def State.cmpCycle (s : State) (t : LTile) : State :=
  let s := s.cmpHolds t
  match (s.cmp t).run with
  | none => s
  | some o =>
    match s.ctx t o.ctx with
    | none => s.modCmp t fun u => { u with run := none }
    | some k =>
      let d := o.desc
      let r := if poOp d = 1 then s.cntCycle t k o else s.incCycle t k o
      let o := { r.1 with cyc := r.1.cyc + 1 }
      let s := r.2
      if o.cyc = poT k.base d then
        let s := if poOp d = 1 then s.padStore t rankOther o.owner (k.base + poDst d) (leBytes 4 o.count) else s
        s.modCmp t fun u => { u with run := none }
      else s.modCmp t fun u => { u with run := some o }

end Sys2Proof.Machine
end

