-- ==== Sys2Proof/Machine/Catalogue.lean ====
section
/-!
DEFINITION. The message catalogue (R442, R443, R452-R461): which function and sender each opcode admits, the length of
its payload, and the checks of its fields.
-/
namespace Sys2Proof.Machine

/-! ## Status codes (R453) -/

def stOk : Nat := 0x0000
def stMalformed : Nat := 0x0001
def stUnknown : Nat := 0x0002
def stNotPermitted : Nat := 0x0003
def stBadState : Nat := 0x0004
def stBusy : Nat := 0x0005
def stNoResource : Nat := 0x0006
def stCheckFailed : Nat := 0x0007
def stInstantPassed : Nat := 0x0008
def stTooSoon : Nat := 0x0009
def stTooLate : Nat := 0x000A
def stStageLocked : Nat := 0x000B
def stDependent : Nat := 0x000C
def stCoreFailed : Nat := 0x000D
def stVerifyFailed : Nat := 0x000E
def stRollback : Nat := 0x000F
def stGenExhausted : Nat := 0x0010
def stGenBusy : Nat := 0x0011
def stUnsealFailed : Nat := 0x0012
def stNotLocked : Nat := 0x0013
def stAborted : Nat := 0x0014
def stInWindow : Nat := 0x0015

/-! ## Senders (R443, R454): M 1, S 2, T 4, P 8 -/

def Sender.cls : Sender → Nat
  | .manager => 1 | .slice _ => 2 | .tenant => 4 | .mgmt => 8

/-- The sender classes of an opcode (R454); none for a reserved opcode. -/
def opSenders (op : Nat) : Option Nat :=
  if op = 0x0101 ∨ op = 0x0102 ∨ op = 0x0704 then some 15
  else if op = 0x0103 ∨ op = 0x0702 ∨ (0x0801 ≤ op ∧ op ≤ 0x0802) ∨ (0x0901 ≤ op ∧ op ≤ 0x0905) then some 8
  else if op = 0x0104 then some 6
  else if (0x0201 ≤ op ∧ op ≤ 0x0203) ∨ op = 0x0307 ∨ op = 0x0501 ∨ (0x0601 ≤ op ∧ op ≤ 0x0605) then some 1
  else if op = 0x0204 ∨ (0x0301 ≤ op ∧ op ≤ 0x0306) ∨ op = 0x0309 then some 3
  else if op = 0x0308 then some 2
  else if 0x0401 ≤ op ∧ op ≤ 0x0405 then some 11
  else if op = 0x0406 ∨ op = 0x0701 ∨ op = 0x0703 then some 9
  else if op = 0x0502 ∨ op = 0x0505 ∨ op = 0x0506 ∨ op = 0x050E ∨ op = 0x0607 then some 5
  else if op = 0x0503 ∨ op = 0x0504 ∨ (0x0507 ≤ op ∧ op ≤ 0x050D) ∨ op = 0x0606 then some 4
  else none

/-- Whether a family is served on a function (R442). -/
def famServed (op : Nat) (pf1 : Bool) : Bool :=
  let f := op / 256
  if pf1 then f = 1 || f = 4 || f = 7 || f = 8 || f = 9 else decide (1 ≤ f ∧ f ≤ 7)

/-- The slice or set that a message of families 2-4 names (R454, R455). -/
def namedSet (op : Nat) (p : Bytes) : Nat :=
  if op = 0x0406 then 255
  else if op = 0x0203 ∨ op = 0x0204 ∨ op = 0x0401 ∨ (0x0403 ≤ op ∧ op ≤ 0x0405) then fld p 0 4
  else fld p 0 1

/-- The role that serves an opcode on PF0 (R442). -/
def servingRole (op : Nat) (p : Bytes) : Fin 8 :=
  match op / 256 with
  | 2 | 3 => fin 8 (namedSet op p % 4)
  | 4 => if namedSet op p = 255 then 0 else fin 8 (namedSet op p % 4)
  | 5 => if 0x0507 ≤ op ∧ op ≤ 0x050D then 5 else 4
  | _ => 6

/-- The registers that a message sets or reads (R454, R455): device address and bytes. -/
def namedRegs (op : Nat) (p : Bytes) : List (Nat × Nat) :=
  let at_ (n : RegName) : Nat × Nat := (Reg.addr ⟨n, 0, fld p 0 4⟩, 8)
  match op with
  | 0x050C => [at_ .tenGtab]
  | 0x0601 => [at_ .fabReg]
  | 0x0602 => [at_ .fabOkey]
  | 0x0603 => [at_ .fabLpeerA, at_ .fabLpeerB, at_ .fabLpeerC, at_ .fabLpeerD]
  | 0x0604 => [at_ .fabLmap]
  | 0x0605 => [(Reg.addr (if fld p 0 4 = 0 then ⟨.fabCtrl, 0, 0⟩ else ⟨.fabGw, 0, 0⟩), 8)]
  | 0x0701 => [(fld p 0 8, 8 * fld p 8 4)]
  | 0x0702 => [(fld p 0 8, 8)]
  | _ => []

/-- The objects that a message names (R444), as spans of numbers: stage sets, slices and their cells below 300, the epoch with its
keys at 400, barriers from 500, registers at their device addresses from 2^40. -/
def namedSpans (op : Nat) (p : Bytes) : List (Nat × Nat) :=
  let others : List (Nat × Nat) := match op / 256 with
    | 2 | 3 | 4 =>
      if op = 0x0307 then (300, 1) :: (List.range (Nat.min 1006 (fld p 0 2))).map fun i => (fld p (8 + 4 * i) 1, 1)
      else if op = 0x0308 then [] else [(namedSet op p, 1)]
    | 5 => [(400, 1)]
    | 6 => if op = 0x0606 then [(400, 1)] else if op = 0x0607 then [(500 + fld p 0 1, 1)] else []
    | _ => if op = 0x0103 then [(800, 1)] else []
  others ++ (namedRegs op p).map fun x => (2 ^ 40 + x.1, x.2)

/-- Whether two messages name one object: they take effect in take order (R444). -/
def sameObject (op : Nat) (p : Bytes) (op' : Nat) (p' : Bytes) : Bool :=
  (namedSpans op p).any fun a => (namedSpans op' p').any fun b => decide (a.1 < b.1 + b.2 ∧ b.1 < a.1 + a.2)

/-! ## Payloads (R455, R458-R461) -/

/-- A check of a payload. -/
inductive Chk where
  /-- reserved bytes -/
  | res (off len : Nat)
  /-- reserved bits of a byte -/
  | bits (off : Nat) (mask : Nat)
  /-- a range, and a multiple -/
  | rng (off len lo hi mult : Nat)
  /-- another condition on the field at an offset -/
  | cond (off : Nat) (ok : Bool)
  deriving DecidableEq, Repr

/-- The first offending offset of a check. -/
def Chk.bad (p : Bytes) : Chk → Option Nat
  | .res off len => ((List.range len).find? fun i => decide (p.getD (off + i) 0 ≠ 0)).map (off + ·)
  | .bits off mask => if (p.getD off 0).toNat &&& mask ≠ 0 then some off else none
  | .rng off len lo hi mult =>
    let v := fld p off len
    if lo ≤ v ∧ v ≤ hi ∧ v % mult = 0 then none else some off
  | .cond off ok => if ok then none else some off

/-- A field in a range. -/
def rg (off len lo hi : Nat) : Chk := .rng off len lo hi 1

def max64 : Nat := 2 ^ 64 - 1
def max32 : Nat := 2 ^ 32 - 1

/-- The H form (R455). -/
def hForm (off least : Nat) : List Chk := [.rng off 8 0 max64 64, .rng (off + 8) 4 (Nat.max 64 least) max32 64, .res (off + 12) 4]

/-- The X form. -/
def xForm (ok : Nat → Bool) (p : Bytes) : List Chk := [.cond 0 (ok (fld p 0 4)), .res 4 4]

def setOk (n : Nat) : Bool := decide (n < 64) || n == 255

/-- A pair of windows (R460, R461): BOUND is at most 471,860 (R251), and BASE lies below it. -/
def winForm (off : Nat) (p : Bytes) : List Chk :=
  [0, 8].flatMap fun d =>
    [.cond (off + d) (fld p (off + d + 4) 4 == 0 || decide (fld p (off + d) 4 < fld p (off + d + 4) 4)), rg (off + d + 4) 4 0 471860]

/-- A signed byte within -16 and 16 (GAIN_INIT). -/
def gainOk (v : Nat) : Bool := decide (v ≤ 16) || decide (240 ≤ v)

/-- Entries of a list of checks, one group for each. -/
def entries (n : Nat) (f : Nat → List Chk) : List Chk := ((List.range n).map f).flatten

/-- CELL_STAGE (R291, R458). -/
def cellChecks (p : Bytes) : List Chk :=
  let b := (p.getD 5 0).toNat
  [rg 0 1 0 63, .res 1 1, rg 2 2 0 511, rg 4 1 1 5, .bits 5 0xC0, .cond 5 (b % 2 = (if fld p 4 1 = 3 then 0 else 1)),
   rg 6 2 1 273, rg 8 4 0 1966079, .cond 12 (decide (fld p 8 4 < fld p 12 4 ∧ fld p 12 4 ≤ 1966079)),
   rg 16 4 0 1966079, .cond 20 (decide (fld p 20 4 < fld p 16 4)), rg 24 4 0 1966079, .cond 28 (decide (fld p 28 4 < fld p 24 4)),
   rg 32 1 0 2, rg 33 1 6 16, rg 34 1 1 (Nat.min 16 (fld p 33 1)), rg 35 1 6 (fld p 33 1), rg 36 1 1 35,
   .cond 37 (gainOk (fld p 37 1)), .res 38 2, rg 40 4 0 96330, rg 44 2 1 4095, rg 46 1 1 255, rg 47 1 1 255,
   rg 48 2 1 4095, rg 50 1 1 255, rg 51 1 1 255, .bits 56 0xFE, .res 57 7]

/-- An entry of STREAM_STAGE (R326, R455). -/
def streamChecks (p : Bytes) (o : Nat) : List Chk :=
  let fact := fld p (o + 8) 8
  let gain := fld p (o + 24) 8
  [.bits (o + 4) 0xF8, .res (o + 5) 3,
   .cond (o + 9) (fact / 2 ^ 10 % 64 = fld p 0 1), .cond (o + 10) (decide (fact / 2 ^ 22 % 4 ≤ 2)),
   .cond (o + 11) (decide (1 ≤ fact / 2 ^ 25 % 512 ∧ fact / 2 ^ 25 % 512 ≤ 273)), .cond (o + 12) (fact / 2 ^ 34 % 2 ^ 14 = 0),
   .cond (o + 14) (fact / 2 ^ 48 % 256 = 0), .bits (o + 15) 0xF0,
   .cond (o + 21) (decide (2 ≤ fld p (o + 16) 8 / 2 ^ 42 % 32 ∧ fld p (o + 16) 8 / 2 ^ 42 % 32 ≤ 28)), .bits (o + 21) 0x80, .res (o + 22) 2,
   .res (o + 24) 1, .cond (o + 25) (let g := gain / 2 ^ 9 % 64; decide (g ≤ 16) || decide (48 ≤ g)), .bits (o + 25) 0x80,
   .cond (o + 26) (decide (gain / 2 ^ 16 % 2 ^ 17 ≤ 96330)), .bits (o + 28) 0xFE, .res (o + 29) 3]

/-- The checks of a payload, in the order of their offsets. MAXFRAME - 4 bounds FLEN at execution. -/
def payloadChecks (op : Nat) (p : Bytes) : List Chk :=
  if op = 0x0103 then xForm (fun n => decide (n < 2 ^ 20)) p
  else if op = 0x0104 then
    [.rng 0 8 0 max64 4096, .cond 24 (let n := fld p 24 4; n == 0 || (decide (16 ≤ n ∧ n ≤ 65536) && decide (2 ^ Nat.log2 n = n))),
     .bits 29 0xF8, .bits 30 0xFC, .res 31 1]
  else if op = 0x0201 then [rg 0 1 0 63, .res 1 3, .bits 6 0xF0, .res 7 1, rg 8 2 8 255, rg 10 2 1 248, rg 12 2 0 2047, rg 14 2 1 2048]
  else if op = 0x0202 then
    [rg 0 1 0 63, rg 1 1 0 64, .res 2 6] ++ winForm 8 p ++ [.res 24 8]
      ++ entries (fld p 1 1) fun i => [rg (32 + 8 * i) 1 0 63, .res (33 + 8 * i) 1, rg (34 + 8 * i) 2 1 176, .res (36 + 8 * i) 4]
  else if op = 0x0203 ∨ op = 0x0204 then xForm (fun n => decide (n < 64)) p
  else if op = 0x0301 then cellChecks p
  else if op = 0x0302 then [rg 0 1 0 63, rg 1 1 1 3, rg 2 2 0 511]
  else if op = 0x0303 then
    [rg 0 1 0 63, .res 1 1, rg 2 2 0 511, rg 4 2 1 125, .res 6 2] ++ entries (fld p 4 2) fun i => streamChecks p (8 + 32 * i)
  else if op = 0x0304 then
    [rg 0 1 0 63, .res 1 1, rg 2 2 1 125, .res 4 4] ++ entries (fld p 2 2) fun i =>
      let o := 8 + 32 * i
      [rg o 2 0 4095, .bits (o + 2) 0xF0, .bits (o + 3) 0x80, rg (o + 4) 2 0 511, .res (o + 22) 10]
  else if op = 0x0305 then [rg 0 1 0 63, .res 1 7] ++ hForm 8 64
  else if op = 0x0306 then
    [rg 0 1 0 63, .bits 1 0xF8, rg 2 2 0 511, rg 4 1 0 63, .res 5 3, .rng 8 8 0 max64 64, .rng 16 4 0 65536 64, .res 20 4]
  else if op = 0x0307 then
    [rg 0 2 0 1006, .res 2 6] ++ entries (fld p 0 2) fun i => [rg (8 + 4 * i) 1 0 63, .res (9 + 4 * i) 1, rg (10 + 4 * i) 2 0 511]
  else if op = 0x0308 then
    [.bits 0 0xF0, .bits 1 0xFE, .cond 2 (decide (60 ≤ fld p 2 2) && (fld p 1 1 % 2 == 1 || decide (fld p 2 2 ≤ 4024))), .res 4 4]
      ++ (if fld p 1 1 % 2 = 1 then hForm 8 (fld p 2 2) else [])
  else if op = 0x0309 then [rg 0 1 0 63, .res 1 1, rg 2 2 0 511]
  else if op = 0x0401 ∨ (0x0403 ≤ op ∧ op ≤ 0x0405) then xForm setOk p
  else if op = 0x0402 then [.cond 0 (setOk (fld p 0 1)), .res 1 7]
  else if op = 0x0406 then
    if fld p 0 1 = 1 then [rg 1 1 0 63, rg 2 1 0 67, .res 3 5, .res 8 8]
    else [rg 0 1 1 2, .res 1 7, .cond 8 (let f := fld p 8 5; decide (f ≤ 10066329599) || decide (2 ^ 40 - 10066329600 ≤ f)), .res 13 3]
  else if op = 0x0501 then
    [.bits 2 0xF0, .res 3 1, rg 4 2 8 255, .cond 6 (decide (1 ≤ fld p 6 2 ∧ fld p 4 2 + fld p 6 2 ≤ 256)), rg 8 2 0 2047,
     .cond 10 (decide (1 ≤ fld p 10 2 ∧ fld p 8 2 + fld p 10 2 ≤ 2048)), rg 12 2 2 192, .bits 14 0xFE, .res 15 1]
      ++ winForm 16 p ++ [.res 40 8]
  else if op = 0x0502 then hForm 0 5568
  else if op = 0x0503 ∨ op = 0x0507 ∨ op = 0x0508 ∨ op = 0x0606 then hForm 0 64
  else if op = 0x0504 then [rg 0 2 1 251, .res 2 6]
  else if op = 0x0509 then [rg 0 1 0 3, .res 1 3, rg 8 2 1180 1180, .res 10 6]
  else if op = 0x050A ∨ op = 0x050B then xForm (fun n => decide (n < 4)) p
  else if op = 0x050C then [rg 0 4 0 63, .res 4 4, .cond 12 (decide (1 ≤ fld p 12 4 % 2 ^ 26)), .bits 15 0xC0]
  else if op = 0x050D then
    [.cond 0 (let k := fld p 0 1 % 8; decide (1 ≤ k ∧ k ≤ 5)), .bits 0 0x78, .bits 1 0xC0, rg 4 3 1 (2 ^ 24 - 1), .res 7 1, rg 8 1 0 63, .bits 9 0xF0,
     .res 10 2, rg 16 1 0 63, .bits 17 0xF0, .res 18 2, .res 24 8]
  else if op = 0x0601 then [rg 0 4 0 4095, .res 4 4, rg 8 1 0 143, .bits 10 0xF0, .res 11 1, .res 14 2]
  else if op = 0x0602 then [rg 0 4 0 127, .res 4 4, .res 10 6]
  else if op = 0x0603 then [rg 0 4 0 63, .res 4 4, .bits 26 0xFE, .res 27 13]
  else if op = 0x0604 then [rg 0 4 0 511, .res 4 4, .bits 8 0x80, .bits 10 0xF0, .res 11 5]
  else if op = 0x0605 then
    if fld p 0 4 = 1 then [.res 4 4, .res 13 3] else [rg 0 4 0 1, .res 4 4, .bits 8 0xE0, .res 9 3, .bits 13 0x80, .res 14 2]
  else if op = 0x0607 then [rg 0 1 0 15, rg 2 2 1 1000, .res 4 4]
  else if op = 0x0701 then [.rng 0 8 0 max64 8, rg 8 4 1 504, .res 12 4]
  else if op = 0x0703 then [.rng 0 8 0 max64 64, .rng 8 4 64 3968 64, .bits 12 0xFE, .res 13 3]
  else if op = 0x0704 then [.res 12 4]
  else if op = 0x0801 ∨ op = 0x0802 then [rg 0 1 1 3, .res 1 7] ++ hForm 8 64
  else if op = 0x0903 then [rg 0 1 0 63, rg 1 1 0 47, rg 2 2 0 4095]
  else if op = 0x0904 then [rg 0 1 0 159, .res 1 3, rg 4 4 0 486605]
  else if op = 0x0905 then [rg 0 1 1 3, rg 1 1 0 (if fld p 0 1 = 3 then 23 else 67), .res 2 6]
  else []

/-- The payload length that an opcode defines (R454, R455). -/
def payloadLen (op : Nat) (p : Bytes) : Nat :=
  if op = 0x0103 ∨ op = 0x0203 ∨ op = 0x0204 ∨ op = 0x0401 ∨ (0x0403 ≤ op ∧ op ≤ 0x0405) ∨ op = 0x050A ∨ op = 0x050B
     ∨ op = 0x0904 ∨ op = 0x0905 then 8
  else if op = 0x0104 ∨ op = 0x0306 ∨ op = 0x050D then 32
  else if op = 0x0201 ∨ op = 0x0402 ∨ op = 0x0406 ∨ op = 0x0502 ∨ op = 0x0503 ∨ op = 0x0507 ∨ op = 0x0508 ∨ op = 0x050C
     ∨ op = 0x0601 ∨ op = 0x0602 ∨ op = 0x0604 ∨ op = 0x0605 ∨ op = 0x0606 ∨ (0x0701 ≤ op ∧ op ≤ 0x0704) then 16
  else if op = 0x0202 then 32 + 8 * fld p 1 1
  else if op = 0x0301 then 64
  else if op = 0x0302 ∨ op = 0x0309 ∨ op = 0x0903 then 4
  else if op = 0x0303 then 8 + 32 * fld p 4 2
  else if op = 0x0304 then 8 + 32 * fld p 2 2
  else if op = 0x0305 ∨ op = 0x0801 ∨ op = 0x0802 then 24
  else if op = 0x0307 then 8 + 4 * fld p 0 2
  else if op = 0x0308 then if fld p 1 1 % 2 = 1 then 24 else 8 + fld p 2 2
  else if op = 0x0501 then 48
  else if op = 0x0504 then 8 + 16 * fld p 0 2
  else if op = 0x0509 then 16 + fld p 8 2
  else if op = 0x0603 then 40
  else if op = 0x0607 then 16 + 4 * fld p 2 2
  else 0

/-- The first offending offset of a payload. -/
def payloadBad (op : Nat) (p : Bytes) : Option Nat := (payloadChecks op p).findSome? fun c => c.bad p

/-! ## Violation records (R457) -/

/-- A violation: CODE, KIND, ITEM, INDEX. -/
structure Viol where
  code : Nat
  kind : Nat
  item : Nat := 0
  index : Nat
  deriving DecidableEq, Repr

/-- NVIOL and the records of R457. -/
def violBytes (l : List Viol) : Bytes :=
  leBytes 4 l.length ++ leBytes 4 0 ++ l.flatMap fun v => leBytes 1 v.code ++ leBytes 1 v.kind ++ leBytes 1 v.item ++ leBytes 1 0 ++ leBytes 4 v.index

/-- INDEX of an object of an owner: a slice number, or 0xFF for the tenant image (R457). -/
def ownIdx (owner ty n : Nat) : Nat := 2 ^ 24 * owner + 2 ^ 20 * ty + n % 2 ^ 20

end Sys2Proof.Machine
end

