-- ==== Sys2Proof/Machine/Memory.lean ====
section
/-!
DEFINITION. The external memory: lines and their check pairs, slots of the memory frame, accumulate-writes, row
repair, the scrub and the lines of MEMX transfers (R226-R264).
-/
namespace Sys2Proof.Machine

/-! ## Where lines live (R228, R229) -/

/-- Lines of the local memory. -/
def memLines : Nat := 0x2400000000 / 64

def chanOf (line : Nat) : Nat := line % 160
def rimOf (line : Nat) : Nat := chanOf line / 40
def blockOf (line : Nat) : Nat := line / 160 / 32
/-- The channel line index of a data line. -/
def chanLine (line : Nat) : Nat := 33 * blockOf line + line / 160 % 32
/-- The row of a data line in its channel. -/
def memRow (line : Nat) : Nat := chanLine line / 32
/-- The data line at place `i` of a row of a channel; none where that is a check line or holds no data. -/
def rowLine (ch row i : Nat) : Option Nat :=
  let c := 32 * row + i
  let line := (32 * (c / 33) + c % 33) * 160 + ch
  if c % 33 = 32 ∨ memLines ≤ line then none else some line

/-- The check cache's key of a line's block (R235). -/
def chkKey (line : Nat) : Nat := 2 ^ 20 * chanOf line + blockOf line

def State.modMem (s : State) (f : Mem → Mem) : State := { s with mem := f s.mem }

def State.chan (s : State) (k : Nat) : Channel := s.mem.chans.get (fin 160 k)

def State.modChan (s : State) (k : Nat) (f : Channel → Channel) : State :=
  s.modMem fun m => { m with chans := vmod m.chans (fin 160 k) f }

/-! ## The stored lines (R231-R236) -/

/-- The check pair of a line in DRAM or in a valid cache entry, and whether the cache had it. -/
def Mem.pair (m : Mem) (line : Nat) : BitVec 16 × Bool :=
  let i := line / 160 % 32
  match tfind (chkKey line) m.cache with
  | some e => if e.valid.getLsbD i then (lane e.pairs 16 i, true) else (tget 0 m.checks line, false)
  | none => (tget 0 m.checks line, false)

/-- The codeword of a line as it would be read. -/
def Mem.word (m : Mem) (line : Nat) : BitVec 528 :=
  BitVec.ofNat 528 ((tget 0 m.lines line).toNat + 2 ^ 512 * (m.pair line).1.toNat)

/-- The pairs of a check line in DRAM laid under the valid pairs of an entry. -/
def Mem.fillEntry (m : Mem) (line : Nat) (e : ChkEntry) : ChkEntry :=
  let first := line - (line / 160 % 32) * 160
  { e with pairs := ofLanes 512 ((List.range 32).map fun i =>
             if e.valid.getLsbD i then lane e.pairs 16 i else tget 0 m.checks (first + 160 * i)),
           valid := 0xFFFFFFFF }

/-- The first data line of a cache entry's block. -/
def chkFirst (key : Nat) : Nat := key % 2 ^ 20 * 32 * 160 + key / 2 ^ 20

/-- An entry is written back: its valid pairs go to the check line, and it is clean (R236). -/
def Mem.settle (m : Mem) (key : Nat) (e : ChkEntry) : Mem :=
  let first := chkFirst key
  let m : Mem := { m with checks := (List.range 32).foldl (fun c i => if e.valid.getLsbD i then tset 0 c (first + 160 * i) (lane e.pairs 16 i) else c) m.checks }
  { m with cache := tput key { m.fillEntry first e with dirty := false } m.cache }

/-- The entries of a class in a rim die's cache: those reserved for radio writes, or the others (R237). -/
def Mem.dieEntries (m : Mem) (rim : Nat) (radio : Bool) : List (Nat × ChkEntry) :=
  m.cache.filter fun e => decide (e.1 / 2 ^ 20 / 40 = rim) && e.2.radio == radio

/-- The entries that a rim die keeps for a class (R235, R237). -/
def chkLimit (radio : Bool) : Nat := if radio then 15360 else 17408

/-- Whether a line finds an entry without a write-back: its own, a free one, or a clean one (R235). -/
def Mem.hasRoom (m : Mem) (line : Nat) (radio : Bool := false) : Bool :=
  let l := m.dieEntries (rimOf line) radio
  (tfind (chkKey line) m.cache).isSome || decide (l.length < chkLimit radio) || l.any fun e => !e.2.dirty

/-- An entry of a full class gives way: a clean one, or else the first, written back (R235 fixes the size, log entry 25 the choice). -/
def Mem.makeRoom (m : Mem) (line : Nat) (radio : Bool) : Mem :=
  let l := m.dieEntries (rimOf line) radio
  if (tfind (chkKey line) m.cache).isSome ∨ l.length < chkLimit radio then m
  else match l.find? fun e => !e.2.dirty with
    | some e => { m with cache := tdel e.1 m.cache }
    | none => match l with
      | e :: _ => let m := m.settle e.1 e.2
                  { m with cache := tdel e.1 m.cache }
      | [] => m

/-- A line read's check pair placed in the cache on a miss (R235). -/
def Mem.fetchCheck (m : Mem) (line : Nat) : Mem :=
  let m := m.makeRoom line false
  let e := (tfind (chkKey line) m.cache).getD { dirty := false }
  { m with cache := tput (chkKey line) (m.fillEntry line e) m.cache }

/-- A line written in cycle `at_`: its data, and its check pair in the cache (R233, R235). -/
def Mem.put (m : Mem) (line : Nat) (d : Row) (poison : Bool) (at_ : W64) (radio : Bool := false) : Mem :=
  let m := m.makeRoom line radio
  let i := line / 160 % 32
  let p := if poison then rsPair d ^^^ 0x0101#16 else rsPair d
  let e := (tfind (chkKey line) m.cache).getD { dirty := false, radio := radio }
  { m with lines := tset 0 m.lines line d,
           cache := tput (chkKey line) { e with pairs := putLane e.pairs 16 i p, valid := putBit e.valid i true, dirty := true, made := if e.dirty then e.made else at_ } m.cache }

/-- The bits of a stored line and of its check pair in DRAM that a fault of the device has changed (R231, R232; log
entry 68): data byte b at bits 8b of `x`, the check pair above them. -/
def Mem.strike (m : Mem) (line : Nat) (x : BitVec 528) : Mem :=
  { m with lines := tset 0 m.lines line (tget 0 m.lines line ^^^ x.setWidth 512)
           checks := tset 0 m.checks line (tget 0 m.checks line ^^^ (x >>> 512).setWidth 16) }

/-- A fault of a channel's device on one of its data lines. -/
def State.strike (s : State) (ch line : Nat) (x : BitVec 528) : State :=
  if line < memLines ∧ chanOf line = ch then s.modMem (·.strike line x) else s

/-- A line written by some source; a row under repair has it in both copies (R242, R260). -/
def State.writeLine (s : State) (line : Nat) (d : Row) (poison : Bool) (radio : Bool := false) : State :=
  let s := s.modMem (·.put line d poison s.now radio)
  let ch := chanOf line
  let s := match (s.chan ch).repair with
    | some r => if r.row = memRow line then s.modChan ch fun c => { c with repair := some { r with copy := tdel (chanLine line % 32) r.copy } } else s
    | none => s
  if poison then s.finc (creg .memEcc ch) 63 48 else s

/-! ## Faulty reads and repair (R234, R249, R259-R261) -/

/-- The channel becomes DEGRADED (R234, R261). -/
def State.degrade (s : State) (ch : Nat) (r : Nat) (row : Nat) : State :=
  let s := s.fset (creg .memCh ch) 11 11 1
  s.logRec { cls := .uc, unit := 5, code := .rule r 0, object := ch, detail := leBytes 4 row }

/-- The next failing row of a channel starts its repair, or stays for want of a spare row (R259-R261). -/
def State.startRepair (s : State) (ch : Nat) : State :=
  let c := s.chan ch
  match c.repair, c.failing with
  | none, row :: rest =>
    if c.sparesUsed < 1675 then
      s.modChan ch fun c => { c with failing := rest, repair := some { row := row, spare := 486606 + c.sparesUsed }, sparesUsed := c.sparesUsed + 1 }
    else (s.modChan ch fun c => { c with failing := rest }).degrade ch 261 row
  | _, _ => s

/-- A row is added to those awaiting repair. -/
def State.failRow (s : State) (ch row : Nat) : State :=
  let c := s.chan ch
  if c.failing.contains row ∨ (c.repair.any fun r => decide (r.row = row)) then s
  else (s.modChan ch fun c => { c with failing := enq c.failing row }).startRepair ch

/-- The owner whose window holds a line; the manager where none does. -/
def State.lineOwners (s : State) (line : Nat) : List Owner :=
  let inside (w : DWin) : Bool := w.valid && decide (w.lo ≤ 64 * line ∧ 64 * line < w.hi)
  match (List.finRange 64).find? fun n => inside (s.ctl.slices.get n).win0 || inside (s.ctl.slices.get n).win1 with
  | some n => [.slice n]
  | none => if decide (s.ten.state ≠ .closed) && (inside s.ten.cfg.win0 || inside s.ten.cfg.win1) then [.tenant] else [.manager]

/-- An uncorrectable read of a requester is recorded in the view of the line's owner and counted (R234, R249, R259, R477). -/
def State.noteUc (s : State) (line req : Nat) : State :=
  let ch := chanOf line
  let s := s.finc (creg .memEcc ch) 31 16
  let s := s.logRec { cls := .uc, unit := 5, code := .rule 249 0, owners := s.lineOwners line, object := ch, detail := leBytes 4 (chanLine line) ++ leBytes 2 req }
  let i := interval s.now 1
  let c := s.chan ch
  let n : Nat := if c.uc.1 = i then c.uc.2 + 1 else 1
  let s := s.modChan ch fun c => { c with uc := (i, n) }
  let s := if n = 16 then s.degrade ch 234 (memRow line) else s
  if bit (s.rget (creg .memCtrl)) 0 then s.failRow ch (memRow line) else s

/-- A corrected read is counted; CE_THR of one row in an interval cause its repair (R259). -/
def State.noteCe (s : State) (line : Nat) : State :=
  let ch := chanOf line
  let row := memRow line
  let s := s.finc (creg .memEcc ch) 15 0
  let i := interval s.now 1
  let n : Nat := match tfind row (s.chan ch).ce with | some (j, n) => if j = i then n + 1 else 1 | none => 1
  let s := s.modChan ch fun c => { c with ce := tput row (i, n) c.ce }
  let ctrl := s.rget (creg .memCtrl)
  if bit ctrl 0 ∧ thr (bits ctrl 15 8) ≤ n then s.failRow ch row else s

/-- The requesters of line reads, as UC records number them: a source of R252 as `srcNum` says, a repair copy, the debug path (R249). -/
def reqFabric : Nat := 514
def reqHost : Nat := 515
def reqSeal : Nat := 516
def reqRepair : Nat := 518
def reqDebug : Nat := 519

/-- A line read for a requester: its data (zeros where uncorrectable) and poison. -/
def State.readLine (s : State) (line req : Nat) : RdRow × State :=
  let hit := (s.mem.pair line).2
  let w := s.mem.word line
  let s := if hit then s.finc (creg .memChk) 31 0 else (s.finc (creg .memChk) 63 32).modMem (·.fetchCheck line)
  match rsDecode w with
  | .clean d => ({ data := d }, s)
  | .corrected d => ({ data := d }, s.noteCe line)
  | .uncorrectable => ({ poison := true }, s.noteUc line req)

/-- Reads of the lines of a span of device bytes. -/
def State.readLines (s : State) (req : Nat) : Nat → Nat → List RdRow × State
  | _, 0 => ([], s)
  | line, n + 1 =>
    let x := s.readLine line req
    let y := x.2.readLines req (line + 1) n
    (x.1 :: y.1, y.2)

/-- Writes of consecutive lines. -/
def State.writeLines (s : State) (line : Nat) : List RdRow → State
  | [] => s
  | r :: l => (s.writeLine line r.data r.poison).writeLines (line + 1) l

/-- What a partial write merges into: the line as read, or, where the read is uncorrectable, the stored data (R510). -/
def State.mergeBase (s : State) (line : Nat) (r : RdRow) : Row := if r.poison then tget 0 s.mem.lines line else r.data

/-- A partial write of a line: the bytes under the mask; a line that cannot be read stays poisoned (R510). -/
def State.mergeLine (s : State) (line req : Nat) (d : Row) (mask : BitVec 64) : State :=
  if mask = fullMask then s.writeLine line d false
  else
    let r := s.readLine line req
    r.2.writeLine line (mergeBytes (s.mergeBase line r.1) d mask) r.1.poison

/-! ## The memory frame (R227, R238, R241) -/

/-- The start of the group that a cycle lies in. -/
def State.groupStart (s : State) (v : W64) : W64 := v - BitVec.ofNat 64 (s.off v % 32)

/-- The group of a cycle. -/
def State.groupOf (s : State) (v : W64) : Nat := s.off v % 8192 / 32

/-- A radio group's number r, for group g = 8r + 7. -/
def radioGroup (g : Nat) : Option Nat := if g % 8 = 7 then some (g / 8) else none

/-- A tenant group (R238). -/
def tenantGroup (g : Nat) : Bool := decide (10 ≤ g ∧ g % 8 ≠ 7)

/-! ## MEMX descriptors (R243, R244) -/

def mxOp (d : Bytes) : Nat := fld d 0 1 % 4
def mxTenant (d : Bytes) : Bool := fld d 0 1 / 4 % 2 = 1
def mxWin (d : Bytes) : Nat := fld d 1 1 % 2
def mxM (d : Bytes) : Nat := fld d 2 1
def mxSlot0 (d : Bytes) : Nat := fld d 3 1
def mxRgrp (d : Bytes) : Nat := fld d 4 4
def mxLines (d : Bytes) : Nat := if mxTenant d then fld d 8 4 else 160 * mxM d
def mxPad (d : Bytes) : Nat := fld d 12 3
def mxOff (d : Bytes) : Nat := fld d 16 8
def mxRate (d : Bytes) : Nat := fld d 24 1

/-- The conditions of R244 that need no window, for a radio or tenant image. -/
def mxOk (tenant ordered : Bool) (d : Bytes) : Bool :=
  decide (fld d 0 1 < 8 ∧ fld d 1 1 < 2 ∧ fld d 15 1 = 0 ∧ fld d 25 7 = 0 ∧ mxTenant d = tenant ∧ mxPad d % 64 = 0 ∧ mxOff d % 64 = 0)
  && (if tenant then
        decide (mxM d = 0 ∧ mxSlot0 d = 0 ∧ mxRgrp d = 0 ∧ mxRate d = 0 ∧ 1 ≤ fld d 8 4 ∧ fld d 8 4 ≤ 16384) && !(ordered && decide (mxOp d = 3))
      else
        decide (mxOp d ≤ 1 ∧ 1 ≤ mxM d ∧ mxM d ≤ 12 ∧ mxRgrp d ≠ 0 ∧ 1 ≤ mxRate d ∧ mxRate d ≤ 32 ∧ fld d 8 4 = 0
          ∧ mxSlot0 d + mxM d + 1 ≤ 13 ∧ mxOff d % 10240 = 0 ∧ mxOff d / 10240 % 32 + mxM d ≤ 32))

/-- The MEMX descriptors that a dispatch record's program uses (R188). -/
def Image.memxOf (i : Image) (r : Bytes) : List Bytes :=
  (((i.ops.drop (recSeqFirst r)).take (recSeqCount r)).filter fun w => decide (seqOp w = 0x07)).filterMap fun w => i.memxs[seqArg w % 65536]?

/-- The slots of radio group `r` that committed radio transfers claim in the memory frame of cycle `v` (R241). -/
def State.claimedSlots (s : State) (v : W64) (r : Nat) : List Nat :=
  let ds := (s.imaged.map fun n => match s.imageAt v n with
    | none => []
    | some i => (i.wins.map fun w =>
        let o := s.periodStart v (winPeriod w) + BitVec.ofNat 64 (8192 * winStart w)
        if o ≤ v ∧ v < o + BitVec.ofNat 64 (8192 * winLen w) then
          match i.recs[winTask w]? with | some x => i.memxOf x | none => []
        else []).flatten).flatten
  let slots (d : Bytes) : List Nat := (List.range (mxM d + 1)).map (mxSlot0 d + ·)
  (((ds.filter fun d => (mxRgrp d).testBit r).map slots).flatten).eraseDups

/-- The slots of a group that accepted operations may use on a channel: at most 11 of those that claims and write-backs
leave (R241, R252). -/
def State.openSlots (s : State) (v : W64) : Nat :=
  let g := s.groupOf v
  match radioGroup g with
  | some r => Nat.min 11 (13 - (s.claimedSlots v r).length)
  | none => if tenantGroup g then 11 else 0

/-- The slots of the group that starts in `g` that go to the end of an operation of an earlier one: a check-line miss
takes two slots, and its second one may be the first of the next group that is open to accepted operations (R252, R253). -/
def State.spilled (s : State) (c : Channel) (g : W64) : Nat :=
  let n := (g - c.group).toNat / 32
  if (List.range (Nat.min n 257)).all fun k => decide (k = 0) || decide (s.openSlots (c.group + BitVec.ofNat 64 (32 * k)) = 0) then
    c.used - s.openSlots c.group
  else 0

/-- A channel's counts for the group of this cycle. -/
def State.inGroup (s : State) (ch : Nat) : State :=
  let g := s.groupStart s.now
  if (s.chan ch).group = g then s else s.modChan ch fun c => { c with group := g, used := s.spilled c g, wb := 0 }

/-! ## Accepting operations (R252, R255, R257) -/

/-- A number for each source. -/
def srcNum : MemSource → Nat
  | .memx t c => 8 * t.val + c.val
  | .gather h => 512 + h.val
  | .fabric => 514 | .host => 515 | .seal => 516 | .scrub => 517

/-- The source served next after `rr` in round-robin order, of those with a request. -/
def nextSource (rr : Nat) (l : List Nat) : Option Nat :=
  let later := l.filter fun n => decide (rr < n)
  match later with
  | [] => match l with | [] => none | a :: r => some (r.foldl Nat.min a)
  | a :: r => some (r.foldl Nat.min a)

/-- Lines added to the requests of their channels. -/
def State.ask (s : State) (src : MemSource) (ops : List (Nat × LineOp × ReplyTo)) : State :=
  s.modMem fun m => { m with want := m.want ++ ops.map fun (line, op, dest) => { id := 0, src := src, line := line, op := op, dest := dest, issued := s.now } }

/-- A line of a transfer has had its last effect; the transfer ends with its last line. -/
def State.memxLine (s : State) (id : Nat) (n : Nat := 1) : State :=
  s.modMem fun m =>
    let l := m.memx.map fun x => if x.id = id then { x with done := x.done + n } else x
    { m with memx := l.filter fun x => !decide (x.id = id ∧ x.lines ≤ x.done) }

/-- A line's reply (R253): read data goes to the pad or the gather unit; a write is complete, with the poison of its read half (R258). -/
def State.lineReply (s : State) (q : LineReq) (r : Option RdRow) (poisoned : Bool := false) : State :=
  match q.dest with
  | .gather _ _ =>
    let x := r.getD { poison := poisoned }
    s.modMem fun m => { m with replies := enq m.replies (q.dest, x.data, x.poison) }
  | .memx id i =>
    match r, s.mem.memx.find? fun x => decide (x.id = id) with
    | none, _ => s.memxLine id
    | some _, none => s
    | some x, some m =>
      -- the line goes to the pad as one tenant flit
      { s with mesh := { s.mesh with
          xfers := enq s.mesh.xfers { id := s.mesh.nextId, tile := m.tile, ctx := m.ctx, owner := m.owner, dest := m.tile.val, zone := 0, unit := 0,
                                      addr := 0, left := 1, issued := s.now, base := s.now, next := s.now + 1, lines := [(m.pad + 64 * i, x.data, x.poison)], memx := some id,
                                      rim := some (fin 4 (rimOf q.line)) }
          nextId := s.mesh.nextId + 1 } }

/-- The task that a line operation belongs to is dropped: its FP32 accumulate-write was refused (R257). -/
def State.refuseAcc (s : State) (q : LineReq) : State :=
  let s := s.finc (creg .memStat) 15 0
  match q.src with
  | .memx t c => (s.dropTask t c 8).memxLine (match q.dest with | .memx id _ => id | .gather _ _ => 0)
  | _ => s.lineReply q none

/-- DRAM_LINE_ACCEPT (R252): the channel accepts the oldest request of the next source in turn. -/
def lineAccept (ch : Nat) (s : State) : State :=
  let c := s.chan ch
  let mine := s.mem.want.filter fun q => decide (chanOf q.line = ch)
  match nextSource c.rr (mine.map fun q => (srcNum q.src)) with
  | none => s
  | some n =>
    if 52 ≤ c.accepted.length then s
    else match takeFirst (fun q => decide (chanOf q.line = ch ∧ (srcNum q.src) = n)) s.mem.want with
      | none => s
      | some (q, rest) =>
        let s := (s.modMem fun m => { m with want := rest }).modChan ch fun c => { c with rr := n }
        match q.op with
        | .accFp _ => if s.orderedMode then s.refuseAcc q else s.modChan ch fun c => { c with accepted := enq c.accepted { q with issued := s.now } }
        | _ => s.modChan ch fun c => { c with accepted := enq c.accepted { q with issued := s.now } }

def execDramLineAccept (channel : Fin 160) (s : State) : Res := .next (lineAccept channel.val s)

/-! ## Slots (R242, R254, R255, R258) -/

/-- The lane-wise sum of R254. -/
def accSum (fp : Bool) (old new : Row) : Row :=
  ofLanes 512 ((List.range 16).map fun i =>
    let a := lane old 32 i
    let b := lane new 32 i
    if fp then (fpStep (some a) (encFP32.decode b.toNat)).1 else a + b)

/-- The first accepted operation that may take a slot now: none before it is on its line (R255), and the write half of
an accumulate-write waits for a later tenant group (R254). -/
def pickOp (g : W64) (tenant : Bool) : List Nat → List LineReq → Option LineReq
  | _, [] => none
  | seen, q :: r =>
    let ok := !seen.contains q.line && (match q.second with | some (_, _, h) => tenant && decide (h ≠ g) | none => true)
    if ok then some q else pickOp g tenant (q.line :: seen) r

/-- The write half of an accumulate-write (R254, R258): an uncorrectable read writes the incoming data poisoned. -/
def accSecond (fp : Bool) (d : Row) (r : RdRow) : Row × Bool := if r.poison then (d, true) else (accSum fp r.data d, false)

/-- The slots that an operation takes now: two where its read misses the check-line cache (R253). -/
def State.opSlots (s : State) (q : LineReq) : Nat :=
  match q.second, q.op with
  | some _, _ => 1
  | none, .write _ _ => 1
  | none, _ => if (s.mem.pair q.line).2 then 1 else 2

/-- DRAM_LINE_SLOT (R242, R252): the channel's next operation takes its slots of the present group; `x` is what the
channel's device has done to the bits of one of its lines before. -/
def lineSlot (ch line : Nat) (x : BitVec 528) (s : State) : State :=
  let s := (s.strike ch line x).inGroup ch
  let c := s.chan ch
  let g := s.groupStart s.now
  let tenant := tenantGroup (s.groupOf s.now)
  if s.openSlots s.now ≤ c.used ∨ s.mem.scrub.isSome then s
  else match (pickOp g tenant [] c.accepted).filter fun q => s.mem.hasRoom q.line with
    | none => s
    | some q =>
      let n := s.opSlots q
      let use (s : State) : State := s.modChan ch fun c => { c with used := c.used + n }
      let drop (s : State) : State := s.modChan ch fun c => { c with accepted := ((takeFirst (fun x => decide (x = q)) c.accepted).map (·.2)).getD c.accepted }
      let keep (s : State) (x : Row × Bool) : State := s.modChan ch fun c => { c with accepted := c.accepted.map fun y => if y = q then { y with second := some (x.1, x.2, g) } else y }
      match q.second with
      | some (d, p, _) => ((drop (use s)).writeLine q.line d p).lineReply q none p
      | none =>
        let s := (use s).act fun a => { a with dram := a.dram + 1 }
        match q.op with
        | .read =>
          let r := s.readLine q.line (srcNum q.src)
          (drop r.2).lineReply q (some r.1)
        | .write d p => ((drop s).writeLine q.line d p).lineReply q none
        | .merge d m => ((drop s).mergeLine q.line (srcNum q.src) d m).lineReply q none
        | .accInt d =>
          let r := s.readLine q.line (srcNum q.src)
          keep r.2 (accSecond false d r.1)
        | .accFp d =>
          let r := s.readLine q.line (srcNum q.src)
          keep r.2 (accSecond true d r.1)

def execDramLineSlot (channel : Fin 160) (line : Nat) (upset : BitVec 528) (s : State) : Res := .next (lineSlot channel.val line upset s)

/-- The slots that write-backs may take of the present group: two of a tenant group (R236), and the extra slot of each radio write
transfer of a radio group (R243). -/
def State.wbSlots (s : State) : Nat :=
  if tenantGroup (s.groupOf s.now) then 2
  else (s.mem.memx.filter fun m => m.radio && decide (m.op = 1 ∧ m.s = s.groupStart s.now)).length

/-- CHECK_LINE_WRITEBACK (R236, R243): a dirty entry's pairs go to the check line. -/
def checkWriteback (rim ch block : Nat) (s : State) : State :=
  let s := s.inGroup ch
  let key := 2 ^ 20 * ch + block
  match tfind key s.mem.cache with
  | none => s
  | some e =>
    let n := if e.valid = 0xFFFFFFFF then 1 else 2
    if ch / 40 ≠ rim ∨ !e.dirty ∨ s.wbSlots < (s.chan ch).wb + n then s
    else (s.modMem (·.settle key e)).modChan ch fun c => { c with wb := c.wb + n }

def execCheckLineWriteback (rim : Fin 4) (channel : Fin 160) (block : Nat) (s : State) : Res :=
  .next (checkWriteback rim.val channel.val block s)

/-- The entries that became dirty before the last memory frame have been written back (R237; log entry 25). -/
def State.flushOld (s : State) : State :=
  s.modMem fun m => (m.cache.filter fun e => e.2.dirty && decide (e.2.made < s.now - 8192)).foldl (fun m e => m.settle e.1 e.2) m

/-! ## Lines of the host, the fabric agent and seals (R27, R239-R241, R252, R255) -/

/-- The slots that whole-line writes (true) and other operations (false) of lines take on a channel: a check line missed goes with them. -/
def State.slotNeed (s : State) (ops : List (Nat × Bool)) (ch : Nat) : Nat :=
  let mine := ops.filter fun o => decide (chanOf o.1 = ch)
  mine.length + ((mine.filter fun o => !o.2 && !(s.mem.pair o.1).2).map fun o => chkKey o.1).eraseDups.length

/-- The channels of lines. -/
def opChans (ops : List (Nat × Bool)) : List Nat := (ops.map fun o => chanOf o.1).eraseDups

/-- Whether a channel can accept operations of a source and give them their slots now (R241, R252): nothing accepted before them can
take a slot or stands on their lines, and slots are free. -/
def State.chanOpen (s : State) (ops : List (Nat × Bool)) (ch : Nat) : Bool :=
  let c := (s.inGroup ch).chan ch
  decide (c.used + s.slotNeed ops ch ≤ s.openSlots s.now ∧ c.accepted.length + (ops.filter fun o => decide (chanOf o.1 = ch)).length ≤ 52)
  && (pickOp (s.groupStart s.now) (tenantGroup (s.groupOf s.now)) [] c.accepted).isNone
  && c.accepted.all fun q => ops.all fun o => decide (o.1 ≠ q.line)

/-- Whether the lines of an operation can move now (log entry 23). -/
def State.canMove (s : State) (ops : List (Nat × Bool)) : Bool :=
  s.mem.scrub.isNone && (opChans ops).all (s.chanOpen ops) && ops.all fun o => s.mem.hasRoom o.1

/-- The slots of lines that a source moves now are taken, on each of their channels (R252). -/
def State.charge (s : State) (src : MemSource) (ops : List (Nat × Bool)) : State :=
  (opChans ops).foldl (fun (s : State) ch =>
    let n := s.slotNeed ops ch
    (s.inGroup ch).modChan ch fun c => { c with used := c.used + n, rr := srcNum src }) s

/-- Consecutive lines, all read or all written. -/
def span (line n : Nat) (write : Bool) : List (Nat × Bool) := (List.range n).map fun i => (line + i, write)

/-! ## Row repair (R260) -/

/-- A line of the row is read: an uncorrectable one will be written poisoned, and every corrected or uncorrectable read counts
like any other (R249, R259, R260). -/
def State.copyRead (s : State) (line : Nat) : (Row × Bool × Bool) × State :=
  let r := s.readLine line reqRepair
  match rsDecode (s.mem.word line) with
  | .uncorrectable => ((tget 0 s.mem.lines line, true, true), r.2)
  | .corrected d => ((d, true, false), r.2)
  | .clean d => ((d, false, false), r.2)

/-- The next slot of a running copy: reads of the 32 lines, then their writes. -/
def State.copySlot (s : State) (ch : Nat) (r : RowRepair) : State :=
  let i := r.step % 32
  let x : RowRepair × State :=
    if r.step < 32 then match rowLine ch r.row i with
      | some line => let y := s.copyRead line
                     ({ r with copy := tput i y.1 r.copy }, y.2)
      | none => (r, s)
    else match tfind i r.copy with
      | some (_, _, true) => (r, s.finc (creg .memEcc ch) 63 48)
      | _ => (r, s)
  x.2.modChan ch fun c => { c with repair := some { x.1 with step := r.step + 1, last := s.groupStart s.now } }

/-- DRAM_ROW_REPAIR (R260): the running repair of the channel takes its next slot of a tenant group. -/
def repairRow (ch : Nat) (s : State) : State :=
  let s := s.inGroup ch
  match (s.chan ch).repair with
  | none => s.startRepair ch
  | some r =>
    let n := match rowLine ch r.row (r.step % 32) with
      | some line => if r.step < 32 ∧ !(s.mem.pair line).2 then 2 else 1
      | none => 1
    if 64 ≤ r.step ∨ !tenantGroup (s.groupOf s.now) ∨ s.mem.scrub.isSome ∨ s.openSlots s.now < (s.chan ch).used + n then s
    else (s.modChan ch fun c => { c with used := c.used + n }).copySlot ch r

def execDramRowRepair (channel : Fin 160) (s : State) : Res := .next (repairRow channel.val s)

/-- The switch of a channel's copied row, at the first group boundary after the last copy write: from now on the spare row serves it,
and the next repair starts (R260). -/
def State.repairSwitch (s : State) (ch : Nat) : State :=
  match (s.chan ch).repair with
  | none => s
  | some r =>
    if r.step < 64 then s
    else
      let s := r.copy.foldl (fun (s : State) (i, d, changed, poison) => match rowLine ch r.row i with
        | some line => if changed then s.modMem (·.put line d poison s.now) else s.modMem fun m => { m with lines := tset 0 m.lines line d }
        | none => s) s
      let s := s.modChan ch fun c => { c with repair := none, repaired := enq c.repaired (r.row, r.spare) }
      (s.finc (creg .memEcc ch) 47 32).startRepair ch

/-! ## Radio transfers (R246, R247) -/

/-- The lines of a radio transfer that a rim die holds, in order: those on its 40 channels. -/
def legLines (m rim : Nat) : List Nat :=
  ((List.range m).map fun a => (List.range 40).map fun b => 160 * a + 40 * rim + b).flatten

/-- The start of the first radio group that RGRP names at or after cycle `v` (R246, R247). -/
def State.groupFor (s : State) (rgrp : Nat) (v : W64) : Option W64 :=
  let f := v - BitVec.ofNat 64 (s.off v % 8192)
  ((List.range 64).map fun k => (k % 32, f + BitVec.ofNat 64 (8192 * (k / 32) + 256 * (k % 32) + 224))).findSome? fun (r, x) =>
    if rgrp.testBit r && decide (v ≤ x) then some x else none

/-- The slots of a radio transfer in the last cycle of its group: lines read into the rim dies, or written from them;
lines that did not arrive are written poisoned (R246, R247, R249). -/
def State.radioLines (s : State) (m : MemX) : State :=
  if s.now ≠ m.s + 31 then s
  else if m.op = 0 then
    let r := s.readLines (8 * m.tile.val + m.ctx.val) (m.addr / 64) m.lines
    r.2.modMem fun x => { x with memx := mapIf (fun y => decide (y.id = m.id)) (fun y =>
      { y with buf := (List.range m.lines).zip (r.1.map fun l => (l.data, l.poison)) }) x.memx }
  else
    let s := (List.range m.lines).foldl (fun s i =>
      let x := (tfind i m.buf).getD (0, true)
      s.writeLine (m.addr / 64 + i) x.1 x.2 true) s
    (s.noteOutputs (some (m.tile, m.ctx)) ((List.range m.lines).map fun i => .line (m.addr / 64 + i))).memxLine m.id m.lines

/-! ## Register-driven repair and scrub (R259, R263, R265) -/

/-- F6 and M0 write the chip part of the MEM_ block (R265). -/
def mayMem (a : Agent) : Bool :=
  match a with | .m0 => true | .fenen r => decide (r.val = 6) | _ => false

/-- A record of CE class for reserved bits of a written value (R11). -/
def State.reservedBits (s : State) (r : Reg) (value : W64) : State :=
  if value.toNat &&& (2 ^ 64 - 1 - r.defined) = 0 then s else s.regRec r

/-- A write of MEM_REPAIR (R259, R265). -/
def execMemRepairGo (a : Agent) (value : W64) (s : State) : Res :=
  let r := creg .memRepair
  if mayMem a then
    let s := s.reservedBits r value
    let ch := bits value 7 0
    let row := bits value 26 8
    if !bit value 32 then .next s
    else if 160 ≤ ch ∨ 486606 ≤ row then .next (s.regRec r)
    else .next (s.failRow ch row)
  else .next (s.regRec r)

/-- A DRAM window of a register value (R265). -/
def dwinOf (v : W64) : DWin := { base := bits v 18 0, bound := bits v 39 21, valid := bit v 40 }

/-- The lines of a window: the first and their number. -/
def DWin.lines (w : DWin) : Nat × Nat := (w.lo / 64, (w.hi - w.lo) / 64)

/-- The units of 327,680 bytes of windows: 32 data lines and a check line of every channel each (R228, R263). -/
def scrubUnits (ws : List (Nat × Nat)) : Nat := sumNat (ws.map fun w => ceilDiv w.2 5120)

/-- The slot of a channel, counted from the scrub's start, in which it zeroes a line. -/
def scrubPos : List (Nat × Nat) → Nat → Option Nat
  | [], _ => none
  | w :: r, line =>
    if w.1 ≤ line ∧ line < w.1 + w.2 then some (33 * ((line - w.1) / 5120) + (line - w.1) % 5120 / 160)
    else (scrubPos r line).map (33 * ceilDiv w.2 5120 + ·)

/-- A scrub of windows starts, or goes on over them after those it has (R263). -/
def State.startScrub (s : State) (ws : List DWin) : State :=
  let l := (ws.filter (·.valid)).map (·.lines)
  match s.mem.scrub with
  | some (l0, p) => s.modMem fun m => { m with scrub := some (l0 ++ l, p) }
  | none => (s.modMem fun m => { m with scrub := some (l, 0) }).fset (creg .memScrub) 63 16 0

/-- A write of MEM_SCRUB (R265): GO starts a scrub of the valid windows; ignored while one runs, and logged. -/
def execMemScrubGo (a : Agent) (value : W64) (s : State) : Res :=
  let r := creg .memScrub
  if mayMem a then
    let s := s.reservedBits r value
    if !bit value 0 then .next s
    else if s.mem.scrub.isSome then .next (s.regRec r)
    else .next (s.startScrub [dwinOf (s.rget (creg .memScrubWin 0)), dwinOf (s.rget (creg .memScrubWin 1))])
  else .next (s.regRec r)

/-- The slots from `a` to `b` of a scrub: data lines are zeros, and at a block's end its check lines, which are in no cache entry (R263). -/
def Mem.zeroed (m : Mem) (ws : List (Nat × Nat)) (a b : Nat) : Mem :=
  let hit (p : Nat) : Bool := decide (a ≤ p ∧ p < b)
  let data (line : Nat) : Bool := (scrubPos ws line).any hit
  let check (line : Nat) : Bool := (scrubPos ws line).any fun p => hit (p - p % 33 + 32)
  { m with
    lines := m.lines.filter fun l => !data l.1
    checks := m.checks.filter fun l => !check l.1
    cache := m.cache.filter fun e => !check (chkFirst e.1) }

/-- The end of a group under a scrub, which takes every tenant slot and every unclaimed radio slot of every channel (R263). -/
def State.scrubStep (s : State) : State :=
  match s.mem.scrub with
  | none => s
  | some (ws, p) =>
    let g := s.groupOf s.now
    let n := match radioGroup g with
      | some r => 13 - (s.claimedSlots s.now r).length
      | none => if tenantGroup g then 13 else 0
    let q := Nat.min (33 * scrubUnits ws) (p + n)
    let s := s.modMem fun m => { m.zeroed ws p q with scrub := some (ws, q) }
    s.fset (creg .memScrub) 63 16 (q / 33)

/-- The end of a group in the memory: the radio transfers that it carried, in the order of their slots (R242), the scrub, and the switches
of repaired rows. -/
def State.groupEnd (s : State) : State :=
  let radio := s.mem.memx.filter (·.radio)
  let s := ((List.range 13).flatMap fun k => radio.filter fun m => decide (m.slot0 = k)).foldl (fun (s : State) m => s.radioLines m) s
  (List.range 160).foldl (fun (s : State) ch => s.repairSwitch ch) s.scrubStep

/-- The cycle of the memory. -/
def State.memCycle (s : State) : State := if s.off s.now % 32 = 31 then s.groupEnd else s

end Sys2Proof.Machine
end

