-- ==== Sys2Proof/Machine/Sequencer.lean ====
section
/-!
DEFINITION. The tile sequencer: issue of operations, refusals, sends and transfers, fences, windows, and the
release of contexts (R194, R199-R221, R243-R247, R385, R472, R475, R545).
-/
namespace Sys2Proof.Machine

/-! ## Flows and phases (R190-R194) -/

/-- The slot table's entry of a flow. -/
def State.flowOf (s : State) (f : FlowId) : Option FlowSlot := s.mesh.slots.find? fun x => decide (x.flow = f)

/-- The offsets from phase `p` of a period's owned phases, nearest first. -/
def phaseOffsets (phases : List Nat) (p : Nat) : List Nat := (List.range 64).filter fun d => phases.contains ((p + d) % 64)

/-- The cycle of the (n + 1)-th owned phase at or after `v`. -/
def State.ownedAt (s : State) (phases : List Nat) (v : W64) (n : Nat) : Option W64 :=
  let ds := phaseOffsets phases (s.phase v)
  match ds with
  | [] => none
  | _ => (ds[n % ds.length]?).map fun d => v + BitVec.ofNat 64 (64 * (n / ds.length) + d)

/-- The first cycle at or after `e` whose phase a flow owns. -/
def State.firstOwned (s : State) (phases : List Nat) (e : W64) : W64 := (s.ownedAt phases e 0).getD e

/-- The first cycle that a flow's last injection leaves for its next (R194). -/
def State.freeAt (s : State) (f : FlowId) : W64 := ((s.mesh.flowFree.find? fun x => decide (x.1 = f)).map (·.2)).getD 0

/-- A flow has injected a flit now. -/
def State.flowUsed (s : State) (f : FlowId) : State :=
  { s with mesh := { s.mesh with flowFree := (f, s.now + 1) :: s.mesh.flowFree.filter fun x => decide (x.1 ≠ f) } }

/-! ## Send descriptors (R221) -/

def sdDest (d : Bytes) : Nat := fld d 0 1
def sdZone (d : Bytes) : Nat := fld d 1 1 % 16
def sdTenant (d : Bytes) : Bool := fld d 2 1 = 1
def sdFlow (d : Bytes) : Nat := fld d 4 2
def sdUnits (d : Bytes) : Nat := fld d 6 2
def sdAddr (d : Bytes) : Nat := fld d 8 3

/-- Reserved fields and ranges of a send descriptor (R221). -/
def sdOk (tenant : Bool) (d : Bytes) : Bool :=
  decide (sdDest d ≤ 68 ∧ fld d 1 1 < 16 ∧ fld d 2 1 = tenant.toNat ∧ fld d 3 1 = 0 ∧ fld d 11 1 = 0 ∧ fld d 12 4 = 0
    ∧ (tenant = true → sdFlow d = 0xFFFF) ∧ 1 ≤ sdUnits d ∧ sdUnits d ≤ 16383 ∧ sdAddr d % 256 = 0)

/-- The unit counter's key of a context, destination and zone (R221). -/
def unitKey (c : CtxNo) (dest zone : Nat) : Nat := (c.val * 128 + dest) * 16 + zone

/-! ## What an operation may hold (R209) -/

/-- The section an operation's index must lie in, and the index. -/
def opIndexOk (i : Image) (w : W64) : Bool :=
  let a := seqArg w
  match seqOp w with
  | 0x01 => decide (a < i.passes.length)
  | 0x02 => decide (1 ≤ a / 65536 ∧ a % 65536 + a / 65536 ≤ i.eng.length)
  | 0x03 => decide (a < i.padops.length)
  | 0x04 => decide (a < i.sends.length)
  | 0x07 => decide (a < i.memxs.length)
  | _ => true

/-- Opcode, DELTA and reserved fields (R209). -/
def opFieldsOk (w : W64) : Bool :=
  let a := seqArg w
  decide (1 ≤ seqDelta w) &&
  match seqOp w with
  | 0x00 | 0x0F => decide (a = 0)
  | 0x01 | 0x03 | 0x04 | 0x07 | 0x08 => decide (a < 65536)
  | 0x05 => decide (a < 2 ^ 18 ∧ 1 ≤ a / 16)
  | 0x06 => decide (a < 2 ^ 24 ∧ a % 64 = 0)
  | 0x0A => decide (a ≤ 2)
  | 0x02 | 0x09 => true
  | _ => false

/-- The device address of a MEMX's first line, where its span lies in the window it names (R245, R251). -/
def memxAddr (k : TaskCtx) (d : Bytes) : Option Nat :=
  let w := if mxWin d = 0 then k.win0 else k.win1
  let a := w.lo + mxOff d
  if w.valid ∧ a + 64 * mxLines d ≤ w.hi then some a else none

/-- The spans of a MEMX lie in the windows that it names (R150, R245). -/
def memxInside (i : Image) (k : TaskCtx) (w : W64) : Bool :=
  match i.memxs[seqArg w % 65536]? with
  | some d => (memxAddr k d).isSome && (k.span (mxPad d) (64 * mxLines d)).isSome
  | none => false

/-- Fields, index, a FLAGS row and a MEMX's spans in their windows, and no tenant-only operation in a radio task (R209, R245). -/
def opOk (i : Image) (k : TaskCtx) (w : W64) : Bool :=
  opFieldsOk w && opIndexOk i w
  && (decide (seqOp w ≠ 0x06) || (k.span (seqArg w) 64).isSome)
  && (decide (seqOp w ≠ 0x07) || memxInside i k w)
  && !(k.radio && decide (seqOp w = 0x0A))

/-- A SEND whose units do not all lie in the task's window (R151). -/
def sendOutside (i : Image) (k : TaskCtx) (w : W64) : Bool :=
  decide (seqOp w = 0x04) && (i.sends[seqArg w % 65536]?).any fun d => (k.span (sdAddr d) (256 * sdUnits d)).isNone

/-! ## Pending slots (R209) -/

/-- The contexts whose operations fill the pending slot that an operation needs: a tenant's never stands in the way of
radio (R23; log entry 27). -/
def State.slotUsers (s : State) (t : LTile) (k : TaskCtx) (w : W64) : List CtxNo :=
  let x := s.tiles.get t
  match seqOp w with
  | 0x01 =>
    match s.passDesc k (seqArg w % 65536) with
    | some (d, _) => (x.arr.pend.filter fun p => decide (p.part.val = dPart d) && (p.radio || !k.radio)).map (·.ctx)
    | none => []
  | 0x02 => (x.eng.pend.filter fun b => b.radio || !k.radio).map (·.ctx)
  | 0x03 => (x.cmp.pend.filter fun o => o.radio || !k.radio).map (·.ctx)
  | _ => []

/-- A tenant operation that another context's operation in the slot holds (R206; log entry 28). -/
def State.slotHolds (s : State) (t : LTile) (c : CtxNo) (k : TaskCtx) (w : W64) : Bool :=
  !k.radio && decide (s.slotUsers t k w ≠ []) && !(s.slotUsers t k w).contains c

/-- An operation refused by a full slot (R209): a radio operation, or a tenant's whose own task fills the slot. -/
def State.slotRefuses (s : State) (t : LTile) (c : CtxNo) (k : TaskCtx) (w : W64) : Bool :=
  decide (s.slotUsers t k w ≠ []) && !s.slotHolds t c k w

/-! ## The last cycle of effect (R201, R209, R246, R247) -/

/-- The planned start of a pass issued now and its last drain cycle, when nothing holds it. Passes of the other duty do not count:
a frozen pass does not run, and no tenant pass starts inside a window (R79, R206). -/
def State.planPass (s : State) (t : LTile) (radio : Bool) (d : Bytes) : W64 × W64 :=
  let a := s.arr t
  let part := dPart d
  let busy : List (Nat × W64 × Nat × W64) :=
    (a.run.filter fun p => p.radio == radio).map (fun p => (p.part.val, p.start, p.kc, p.start + BitVec.ofNat 64 (dLast p.desc)))
    ++ (a.pend.filter fun p => p.radio == radio).map (fun p => (p.part.val, p.plan, p.kc, p.planLast))
  let start := busy.foldl (fun v (q, st, kc, last) =>
    if partMeet q part then
      let e := if dChain d ∧ q = part then st + BitVec.ofNat 64 kc else last + 1
      if v < e then e else v
    else v) (s.now + 2)
  (start, start + BitVec.ofNat 64 (dLast d))

/-- The planned last result write of an engine block issued now. -/
def State.planBlock (s : State) (t : LTile) (ws : List (Nat × W64 × Bool)) : W64 :=
  let e := s.eng t
  let v := later (s.now + 2) e.next
  let v := (e.blocks.filter (·.radio)).foldl (fun v b => later v (blockSpan b.todo (later s.now e.next)).1) v
  (blockSpan ws v).2

/-- The instructions of an SGE operation. -/
def sgeWords (i : Image) (w : W64) : List (Nat × W64 × Bool) :=
  let first := seqArg w % 65536
  let n := seqArg w / 65536
  unroll n ((List.range n).filterMap fun j => (i.eng[first + j]?).map fun x => (first + j, x))

/-- The planned last cycle of a pad operation issued now. -/
def State.planPadOp (s : State) (t : LTile) (k : TaskCtx) (d : Bytes) : W64 :=
  let st := match (s.cmp t).run with
    | some o =>
      let e := s.now + BitVec.ofNat 64 (poT k.base o.desc - o.cyc)
      if s.now + 2 < e then e else s.now + 2
    | none => s.now + 2
  st + BitVec.ofNat 64 (poT k.base d - 1)

/-- Flits of a queue entry that wait for injection. -/
def RadioQ.flits (q : RadioQ) : Nat := if q.memx.isSome then q.left else ceilDiv q.left 2

/-- The first cycle that the flits waiting on a flow leave for what comes behind them, from `v` on: they go in order, one in each
owned phase (R194). -/
def State.behind (s : State) (x : FlowSlot) (v : W64) : W64 :=
  (s.mesh.radioQ.filter fun q => decide (q.flow = x.flow)).foldl (fun v q =>
    ((s.ownedAt x.phases (later v q.earliest) (q.flits - 1)).map (· + 1)).getD v) (later v (s.freeAt x.flow))

/-- The last landing of a radio SEND issued now (R194); none where its flow owns no phase. -/
def State.planSend (s : State) (k : TaskCtx) (d : Bytes) : Option W64 :=
  (s.flowOf (.declared (fin 64 k.owner) (sdFlow d))).bind fun x =>
    (s.ownedAt x.phases (later (s.now + 1) (s.behind x 0)) (ceilDiv (sdUnits d) 2 - 1)).map fun v =>
      v + (if 64 ≤ sdDest d ∧ sdDest d < 68 then 88 else 64)

/-- The latest of optional cycles; none if one is missing. -/
def latest (l : List (Option W64)) : Option W64 :=
  l.foldl (fun a b => match a, b with
    | some x, some y => some (if x < y then y else x)
    | _, _ => none) (some 0)

/-- The n-th owned injection of each rim leg of a radio MEMX from cycle `v` on, behind what waits on the leg. -/
def State.legsAt (s : State) (k : TaskCtx) (idx : Nat) (v : W64) (n : Nat) : Option W64 :=
  latest ((List.finRange 4).map fun r =>
    (s.flowOf (.leg (fin 64 k.owner) idx r)).bind fun x => s.ownedAt x.phases (later v (s.behind x 0)) n)

/-- The group start of a radio MEMX issued now, and its last cycle of effect (R246, R247). -/
def State.planMemx (s : State) (k : TaskCtx) (idx : Nat) (d : Bytes) : Option (W64 × W64) :=
  let n := 5 * mxM d - 1
  if mxOp d = 0 then
    (s.groupFor (mxRgrp d) (s.now + 128)).bind fun g =>
      (s.legsAt k idx (g + 225) n).map fun v => (g, v + 64)
  else
    (s.legsAt k idx (s.now + 1) n).bind fun v =>
      (s.groupFor (mxRgrp d) (v + 88 + 104)).map fun g => (g, g + 31)

/-- The last cycle of effect of an operation issued now; none where it never ends (R201). -/
def State.lastEffectOf (s : State) (t : LTile) (i : Image) (k : TaskCtx) (w : W64) : Option W64 :=
  let a := seqArg w % 65536
  match seqOp w with
  | 0x01 => (s.passDesc k a).map fun d => (s.planPass t k.radio d.1).2
  | 0x02 => some (s.planBlock t (sgeWords i w))
  | 0x03 => (i.padops[a]?).map fun d => s.planPadOp t k d
  | 0x04 => (i.sends[a]?).bind fun d => s.planSend k d
  | 0x05 | 0x06 => some (s.now + 1)
  | 0x07 => (i.memxs[a]?).bind fun d => (s.planMemx k a d).map (·.2)
  | _ => some s.now

/-! ## Issue (R201, R206, R209) -/

/-- The cycle in which a task's next operation comes due: DELTA cycles after the one before it (R208), or later where a fence, PARK
or a suspend has stopped it. -/
def TaskCtx.dueAt (k : TaskCtx) (w : W64) : W64 := later (k.last + BitVec.ofNat 64 (seqDelta w)) k.notBefore

/-- No operation of a task issues: the sequencer is parked, or tenant work is stopped (R225, R335, R338). -/
def State.stopped (s : State) (t : LTile) (k : TaskCtx) : Bool := bit (s.rget (treg .schCtrl t)) 0 || (!k.radio && s.issueStopped t)

/-- A task's next operation may issue in this cycle: it comes due now, or came due before and was held (R206, R208, R213). -/
def State.seqDue (s : State) (t : LTile) (k : TaskCtx) (w : W64) : Bool :=
  k.ended.isNone && k.fence.isNone && !s.stopped t k && (decide (k.dueAt w = s.now) || (k.opHeld && decide (k.dueAt w ≤ s.now)))

/-- A context whose next operation is due and not held by a full slot. -/
def State.wants (s : State) (t : LTile) (c : CtxNo) : Option TaskCtx :=
  (s.ctx t c).bind fun k => (s.nextOp k).bind fun w =>
    if s.seqDue t k w ∧ !s.slotHolds t c k w then some k else none

/-- The cycle of the sequencer's stops: an operation that is due while nothing issues comes due in the next cycle. -/
def State.stopCycle (s : State) (t : LTile) : State :=
  (List.finRange 8).foldl (fun (s : State) c => match s.ctx t c with
    | none => s
    | some k => match s.nextOp k with
      | some w => if k.ended.isNone ∧ s.stopped t k ∧ k.dueAt w ≤ s.now then s.setCtx t c (some { k with notBefore := s.now + 1 }) else s
      | none => s) s

/-- A context's turn (R206): nothing has issued in this cycle, a radio context goes first, then the tenant contexts in
round-robin order after the one last served. -/
def State.turn (s : State) (t : LTile) (c : CtxNo) : Bool :=
  let x := s.tiles.get t
  let all := (List.finRange 8).filterMap fun d => (s.wants t d).map fun k => (d, k.radio)
  if x.issued then false
  else match all.find? (·.2) with
    | some (d, _) => decide (d = c)
    | none => nextSource x.rr (all.map fun d => d.1.val) == some c.val

/-- The operation has issued. -/
def State.advance (s : State) (t : LTile) (c : CtxNo) (k : TaskCtx) (le : W64) : State :=
  let s := s.setCtx t c (some { k with pc := k.pc + 1, last := s.now, timer := 0, opHeld := false, lastEffect := if k.lastEffect < le then le else k.lastEffect })
  s.modTile t fun x => { x with issued := true, rr := if k.radio then x.rr else c.val }

/-- A tenant operation is held, for a full pending slot or another context's turn, and counted once (R206). -/
def State.holdOp (s : State) (t : LTile) (c : CtxNo) (k : TaskCtx) : State :=
  if k.opHeld ∨ k.radio then s else (s.finc (treg .schStat t) 47 32).setCtx t c (some { k with opHeld := true })

/-- An operation issues if it is due, is one of those that `mine` accepts, and it is its context's turn: it is refused for a full slot
(KIND 1), a bad field or span (KIND 3, R151) or the end of the window (KIND 2), or has its effect `eff`. -/
def seqIssue (mine : TaskCtx → W64 → Bool) (eff : Image → TaskCtx → W64 → State → State) (t : LTile) (c : CtxNo) (s : State) : State :=
  match s.ctx t c with
  | none => s
  | some k =>
    match s.imageOf k.img, s.nextOp k with
    | some i, some w =>
      if !s.seqDue t k w ∨ !mine k w then s
      else if s.slotHolds t c k w ∨ !s.turn t c then s.holdOp t c k
      else
        let used (s : State) : State := s.modTile t fun x => { x with issued := true }
        if s.slotRefuses t c k w then used (s.seqFault t c 1)
        else if !opOk i k w then used (s.seqFault t c 3)
        else if sendOutside i k w then used (if k.radio then s.failTask t c 3 else s.dropTask t c 10)
        else
          let le := s.lastEffectOf t i k w
          if k.radio && !(le.any fun v => decide (v < k.closes)) then used (s.refuse t c)
          else eff i k w (s.advance t c k (le.getD s.now))
    | _, _ => s

/-- The operation with a given opcode. -/
def opIs (op : Nat) (_ : TaskCtx) (w : W64) : Bool := decide (seqOp w = op)

/-- An operation whose opcode is reserved. -/
def opReserved (w : W64) : Bool := decide (seqOp w ≠ 0x0F ∧ 0x0A < seqOp w)

/-- SEQ_NOP, and the fault of a reserved opcode (R209). -/
def execSeqNop (t : LTile) (c : CtxNo) (s : State) : Res :=
  .next (seqIssue (fun _ w => decide (seqOp w = 0) || opReserved w) (fun _ _ _ s => s) t c s)

/-- SEQ_PASS: the descriptor goes to its partition's pending slot (R209). -/
def passEff (t : LTile) (c : CtxNo) (_ : Image) (k : TaskCtx) (w : W64) (s : State) : State :=
  let idx := seqArg w % 65536
  match s.passDesc k idx with
  | none => s
  | some (d, _) =>
    let pl := s.planPass t k.radio d
    let q : PendPass := { part := fin 7 (dPart d), ctx := c, radio := k.radio, idx := idx, plan := pl.1, kc := dKc d, planLast := pl.2, earliest := s.now + 2 }
    if dPart d = 7 then (s.arrFault t c 0 4 (dTag d)).failTask t c 3
    else s.modArr t fun a => { a with pend := if k.radio then q :: a.pend else enq a.pend q }

def execSeqPass (t : LTile) (c : CtxNo) (s : State) : Res := .next (seqIssue (opIs 0x01) (passEff t c) t c s)

/-- SEQ_SGE: a block goes to the engine's pending slot (R209). -/
def sgeEff (t : LTile) (c : CtxNo) (i : Image) (k : TaskCtx) (w : W64) (s : State) : State :=
  let b : SgeBlock := { ctx := c, radio := k.radio, todo := sgeWords i w, earliest := s.now + 2 }
  s.modEng t fun e => { e with pend := enq e.pend b }

def execSeqSge (t : LTile) (c : CtxNo) (s : State) : Res := .next (seqIssue (opIs 0x02) (sgeEff t c) t c s)

/-- SEQ_PADOP: the descriptor goes to the compare unit's pending slot (R209). -/
def padopEff (t : LTile) (c : CtxNo) (i : Image) (k : TaskCtx) (w : W64) (s : State) : State :=
  match i.padops[seqArg w % 65536]? with
  | none => s
  | some d => s.modCmp t fun u => { u with pend := enq u.pend { ctx := c, owner := k.owner, radio := k.radio, desc := d, earliest := s.now + 2 } }

def execSeqPadop (t : LTile) (c : CtxNo) (s : State) : Res := .next (seqIssue (opIs 0x03) (padopEff t c) t c s)

/-- The descriptor of a SEND is of a class. -/
def sendIs (s : State) (tenant : Bool) (k : TaskCtx) (w : W64) : Bool :=
  decide (seqOp w = 0x04) && (((s.imageOf k.img).bind fun i => i.sends[seqArg w % 65536]?).elim (!tenant) fun d => sdTenant d == tenant)

/-- Units of a SEND taken from the sender's counter (R221). -/
def sendUnits (t : LTile) (c : CtxNo) (k : TaskCtx) (d : Bytes) (go : Nat → BitVec 32 → State → State) (s : State) : State :=
  let key := unitKey c (sdDest d) (sdZone d)
  let u := tget 0 (s.tiles.get t).units key
  go (k.base + sdAddr d) (BitVec.ofNat 32 u) (s.modTile t fun x => { x with units := tset 0 x.units key ((u + sdUnits d) % 2 ^ 32) })

/-- SEQ_SEND_RADIO (R194): its flits wait for the flow's owned phases from c + 1 on. What a failed window sends is erasures (R59). -/
def sendRadioEff (t : LTile) (c : CtxNo) (i : Image) (k : TaskCtx) (w : W64) (s : State) : State :=
  match i.sends[seqArg w % 65536]? with
  | none => s
  | some d => sendUnits t c k d (fun a u s => if k.failed then s else
      { s with mesh := { s.mesh with radioQ := enq s.mesh.radioQ { flow := .declared (fin 64 k.owner) (sdFlow d), tile := t, ctx := c, owner := k.owner, dest := sdDest d, zone := sdZone d, unit := u, addr := a, left := sdUnits d, earliest := s.now + 1, memx := none } } }) s

def execSeqSendRadio (t : LTile) (c : CtxNo) (s : State) : Res := .next (seqIssue (sendIs s false) (sendRadioEff t c) t c s)

/-- A tenant transfer handed to the mesh. -/
def State.xfer (s : State) (x : Xfer) : State :=
  { s with mesh := { s.mesh with xfers := enq s.mesh.xfers { x with id := s.mesh.nextId, base := x.issued, next := x.issued + 1 }, nextId := s.mesh.nextId + 1 } }

/-- SEQ_SEND_TENANT (R207): transfers of at most eight flits of two units. -/
def sendTenantEff (t : LTile) (c : CtxNo) (i : Image) (k : TaskCtx) (w : W64) (s : State) : State :=
  match i.sends[seqArg w % 65536]? with
  | none => s
  | some d => sendUnits t c k d (fun a u s =>
      (List.range (ceilDiv (sdUnits d) 16)).foldl (fun s j =>
        s.xfer { id := 0, tile := t, ctx := c, owner := k.owner, dest := sdDest d, zone := sdZone d, unit := u + BitVec.ofNat 32 (16 * j),
                 addr := a + 4096 * j, left := Nat.min 16 (sdUnits d - 16 * j), issued := s.now }) s) s

def execSeqSendTenant (t : LTile) (c : CtxNo) (s : State) : Res := .next (seqIssue (sendIs s true) (sendTenantEff t c) t c s)

/-- An effect due in the cycle after this one. -/
def State.inNext (s : State) (t : LTile) (l : Later) : State := s.modTile t fun x => { x with later := enq x.later (s.now + 1, l) }

/-- SEQ_CRET (R209): RD of the zone advances in c + 1. -/
def execSeqCret (t : LTile) (c : CtxNo) (s : State) : Res :=
  .next (seqIssue (opIs 0x05) (fun _ _ w s => s.inNext t (.cret (fin 16 (seqArg w)) (seqArg w / 16))) t c s)

/-- SEQ_FLAGS (R209, R210): the status row is written in c + 1. -/
def execSeqFlags (t : LTile) (c : CtxNo) (s : State) : Res :=
  .next (seqIssue (opIs 0x06) (fun _ k w s => s.inNext t (.flags c (rowOf (k.base + seqArg w)))) t c s)

/-- An event posted by a task: it reaches the owning Fenen core in c + 65 (R209). -/
def postEff (t : LTile) (c : CtxNo) (_ : Image) (k : TaskCtx) (w : W64) (s : State) : State :=
  s.flit (s.now + 65) (.post t c k.owner k.entry k.recIdx k.kernel (BitVec.ofNat 16 (seqArg w)) (k.sat.toNat + 2 * k.nan.toNat + 4 * k.poison.toNat))

/-- Whether a POST asks the fabric for an FRT entry (R382). -/
def isFabricPost (k : TaskCtx) (w : W64) : Bool := !k.radio && (seqArg w).testBit 15

def execSeqPost (t : LTile) (c : CtxNo) (s : State) : Res :=
  .next (seqIssue (fun k w => decide (seqOp w = 0x08) && !isFabricPost k w) (postEff t c) t c s)

/-- A request of the task is in flight from the POST on (R383). -/
def State.frtCount (s : State) (t : LTile) (c : CtxNo) (f : Nat → Nat) : State :=
  let key := 8 * t.val + c.val
  { s with ten := { s.ten with frtBusy := tset 0 s.ten.frtBusy key (f (tget 0 s.ten.frtBusy key)) } }

def execPostFabricRequest (t : LTile) (c : CtxNo) (s : State) : Res :=
  .next (seqIssue (fun k w => decide (seqOp w = 0x08) && isFabricPost k w)
    (fun i k w s => (postEff t c i k w s).frtCount t c (· + 1)) t c s)

/-- KBND (R211): the hashes go to the task's kernel record and are cleared, and the kernel identifier changes. -/
def kbndEff (t : LTile) (c : CtxNo) (_ : Image) (_ : TaskCtx) (w : W64) (s : State) : State :=
  let hs := (List.range 4).map fun q => s.rget (treg .arrHash t q)
  let s := s.modCtx t c fun k => { k with hashes := hs, kernel := BitVec.ofNat 32 (seqArg w) }
  (List.range 4).foldl (fun s q => s.rset (treg .arrHash t q) 0) s

/-- FENCE n (R209, R385): the next operation waits for the fence; FENCE.L also answers for reserved codes with the field fault. -/
def execFence (n : Nat) (t : LTile) (c : CtxNo) (s : State) : State :=
  seqIssue (fun _ w => decide (seqOp w = 0x0A ∧ seqArg w = n) || (decide (n = 0 ∧ seqOp w = 0x0A ∧ 2 < seqArg w)))
    (fun _ _ _ s => s.modCtx t c fun k => { k with fence := some n }) t c s

/-- FENCE.L, and the fault of a reserved fence (R209, R385). -/
def execFenceL (t : LTile) (c : CtxNo) (s : State) : Res := .next (execFence 0 t c s)
def execFenceC (t : LTile) (c : CtxNo) (s : State) : Res := .next (execFence 1 t c s)
def execFenceG (t : LTile) (c : CtxNo) (s : State) : Res := .next (execFence 2 t c s)

/-- END (R212): the task ends; a radio window that ran without a refusal ends its run of refused periods (R467). -/
def endEff (t : LTile) (c : CtxNo) (i : Image) (k : TaskCtx) (_ : W64) (s : State) : State :=
  let s := if k.radio then
      s.modTile t fun x => { x with refused := tset 0 x.refused (65536 * k.owner + (i.recs[k.recIdx]?).elim 0xFFFF recWindow) 0 }
    else s
  s.endTask t c 0

def execSeqEnd (t : LTile) (c : CtxNo) (s : State) : Res := .next (seqIssue (opIs 0x0F) (endEff t c) t c s)

/-! ## MEMX (R243-R247) -/

/-- The source of a memory operation of a task. -/
def taskSource (t : LTile) (c : CtxNo) : MemSource := .memx t c

/-- A radio MEMX: its rim legs wait for their phases (R246, R247). -/
def memxRadio (t : LTile) (c : CtxNo) (k : TaskCtx) (idx : Nat) (d : Bytes) (addr pad : Nat) (g : W64) (s : State) : State :=
  let id := s.mesh.nextId
  let m : MemX := { id := id, tile := t, ctx := c, owner := k.owner, radio := true, op := fin 4 (mxOp d), addr := addr, pad := pad, lines := mxLines d, s := g, slot0 := mxSlot0 d, m := mxM d, mrate := mxRate d, idx := idx, issued := s.now }
  let rd := decide (mxOp d = 0)
  let qs := (List.finRange 4).map fun r =>
    ({ flow := .leg (fin 64 k.owner) idx r, tile := t, ctx := c, owner := k.owner, dest := if rd then t.val else 64 + r.val, zone := 0, unit := 0,
       addr := 0, left := 5 * mxM d, earliest := if rd then g + 225 else s.now + 1, memx := some (id, 0) } : RadioQ)
  -- a failed window's write sends nothing, and its lines are written poisoned (R59, R247)
  let qs := if k.failed ∧ !rd then [] else qs
  { s with mem := { s.mem with memx := enq s.mem.memx m }, mesh := { s.mesh with nextId := id + 1, radioQ := s.mesh.radioQ ++ qs } }

/-- A tenant MEMX: a read asks the channels for its lines; a write's lines leave the pad in transfers of at most 64. -/
def memxTenant (t : LTile) (c : CtxNo) (k : TaskCtx) (d : Bytes) (addr pad : Nat) (s : State) : State :=
  let id := s.mesh.nextId
  let n := mxLines d
  let m : MemX := { id := id, tile := t, ctx := c, owner := k.owner, radio := false, op := fin 4 (mxOp d), addr := addr, pad := pad, lines := n, issued := s.now }
  let s := { s with mem := { s.mem with memx := enq s.mem.memx m }, mesh := { s.mesh with nextId := id + 1 } }
  if mxOp d = 0 then s.ask (taskSource t c) ((List.range n).map fun i => (addr / 64 + i, LineOp.read, ReplyTo.memx id i))
  else (List.range (ceilDiv n 64)).foldl (fun s j =>
    s.xfer { id := 0, tile := t, ctx := c, owner := k.owner, dest := 64 + rimOf (addr / 64 + 64 * j), zone := 0, unit := BitVec.ofNat 32 (64 * j), addr := pad + 4096 * j, left := Nat.min 64 (n - 64 * j), issued := s.now, memx := some id }) s

/-- The effect of a MEMX, whose spans lie in their windows (R245). -/
def memxEff (t : LTile) (c : CtxNo) (i : Image) (k : TaskCtx) (w : W64) (s : State) : State :=
  let idx := seqArg w % 65536
  match i.memxs[idx]? with
  | none => s
  | some d =>
    match memxAddr k d, k.span (mxPad d) (64 * mxLines d) with
    | some a, some p =>
      if k.radio then
        match s.planMemx k idx d with
        | some (g, _) => memxRadio t c k idx d a p g s
        | none => s
      else memxTenant t c k d a p s
    | _, _ => s

/-- The MEMX whose descriptor has operation `op`. -/
def memxIs (s : State) (op : Nat) (k : TaskCtx) (w : W64) : Bool :=
  decide (seqOp w = 0x07) && decide (((s.imageOf k.img).bind fun i => i.memxs[seqArg w % 65536]?).elim 0 mxOp = op)

def execMemxRead (t : LTile) (c : CtxNo) (s : State) : Res := .next (seqIssue (memxIs s 0) (memxEff t c) t c s)
def execMemxWrite (t : LTile) (c : CtxNo) (s : State) : Res := .next (seqIssue (memxIs s 1) (memxEff t c) t c s)
def execMemxAccumulateInt32 (t : LTile) (c : CtxNo) (s : State) : Res := .next (seqIssue (memxIs s 2) (memxEff t c) t c s)
def execMemxAccumulateFp32 (t : LTile) (c : CtxNo) (s : State) : Res := .next (seqIssue (memxIs s 3) (memxEff t c) t c s)

/-! ## Flits (R164, R189, R194, R207, R246, R247) -/

/-- Whether a source, coded as in R219, may send unit U to a zone: U is below the last LIMIT that it has received (R164). -/
def State.hasCredit (s : State) (src dest zone : Nat) (u : BitVec 32) : Bool :=
  if 64 ≤ dest then true
  else
    let lim := BitVec.ofNat 32 (tget 0 s.mesh.grants (grantKey src dest zone))
    decide (1 ≤ (lim - u).toNat ∧ (lim - u).toNat ≤ 2 ^ 31)

/-- A 256-byte unit read from a pad, and the poison of its rows. -/
def State.readUnit (s : State) (t : LTile) (tag addr : Nat) : BitVec 2048 × BitVec 4 × State :=
  let r := s.padReads t tag (rowOf addr) 4
  (ofLanes 2048 (r.1.map (·.data)), ofLanes 4 (r.1.map fun x => BitVec.ofBool x.poison), r.2)

/-- One or two units as the payload of a flit for a destination. -/
def unitPayload (t : LTile) (c : CtxNo) (src owner dest zone : Nat) (us : List (BitVec 32 × BitVec 2048 × BitVec 4)) : Payload :=
  if h : dest < 64 then
    .landing (us.map fun (u, d, p) => { tile := ⟨dest, h⟩, zone := zone, unit := u, mask := 0xF, owner := BitVec.ofNat 7 owner, src := BitVec.ofNat 7 src,
                                        data := d, poison := p, tenant := decide (64 ≤ owner), sender := some (t, c) })
  else if dest < 68 then .egress (fin 4 (dest - 64)) t owner zone ((us.head?.map fun x => x.1.toNat).getD 0) (us.map fun x => x.2.1)
  else .control t owner zone ((us.head?.map fun x => x.1.toNat).getD 0) (us.map fun x => x.2.1)

/-- The units of a send with the given numbers from its next one on, read from the pad. -/
def State.readUnits (s : State) (t : LTile) (owner : Nat) (unit : BitVec 32) (addr : Nat) (js : List Nat) : List (BitVec 32 × BitVec 2048 × BitVec 4) × State :=
  js.foldl (fun (x : List (BitVec 32 × BitVec 2048 × BitVec 4) × State) j =>
    let r := x.2.readUnit t owner (addr + 256 * j)
    (enq x.1 (unit + BitVec.ofNat 32 j, r.1, r.2.1), r.2.2)) ([], s)

/-- The next one or two units of a send that have credit. -/
def State.credited (s : State) (t : LTile) (dest zone : Nat) (unit : BitVec 32) (left : Nat) : List Nat :=
  (List.range (Nat.min 2 left)).filter fun j => s.hasCredit t.val dest zone (unit + BitVec.ofNat 32 j)

/-- The lines of a leg's flit `n`: (index, pad or buffer row). -/
def legFlit (m : MemX) (rim n : Nat) : List Nat := ((legLines m.m rim).drop (8 * n)).take 8

/-- The payload of flit `n` of a read leg (R246, R249). -/
def legPayload (m : MemX) (rim n : Nat) : Payload :=
  .lines m.id m.tile m.owner ((legFlit m rim n).map fun i =>
    let x := (tfind i m.buf).getD (0, true)
    (m.pad + 64 * i, if x.2 then 0 else x.1, false))

/-- Flit `n` of a write leg leaves the pad; it nominally reaches its rim die in 88 cycles (R247). -/
def State.legInject (s : State) (q : RadioQ) (m : MemX) (rim : Fin 4) (n : Nat) : State :=
  let r := (legFlit m rim.val n).foldl (fun (x : List (Nat × Row × Bool) × State) i =>
    let y := x.2.padRead m.tile (rowOf (m.pad + 64 * i)) q.owner
    (enq x.1 (i, y.1.data, y.1.poison), y.2)) ([], s)
  r.2.flitOut rim (s.now + 64) (.memxW m.id r.1) (some (s.now + 152)) (q.tile, q.ctx)

/-- A queued MEMX read leg: its frames come from a rim die. -/
def State.readLeg (s : State) (q : RadioQ) : Bool := q.memx.any fun x => s.mem.memx.any fun m => decide (m.id = x.1 ∧ m.op = 0)

/-- The units of a radio send that leave now. One without credit is not sent, and its phase passes unused: radio work does not wait
(R14, R164; log entry 177). -/
def State.sendNow (s : State) (q : RadioQ) : State :=
  let js := s.credited q.tile q.dest q.zone q.unit q.left
  let r := s.readUnits q.tile q.owner q.unit q.addr js
  let p := unitPayload q.tile q.ctx (stopOf (s.ptile q.tile)) q.owner q.dest q.zone r.1
  if js = [] then s
  else if 64 ≤ q.dest ∧ q.dest < 68 then r.2.flitOut (fin 4 (q.dest - 64)) (s.now + 64) p (some (s.now + 152)) (q.tile, q.ctx)
  else r.2.flit (s.now + 64) p none none (some (q.tile, q.ctx))

/-- RADIO_FLIT_INJECT of a send or a write leg (R194): the next flit leaves in the first cycle from its earliest on, and after the flow's
last injection, whose phase the flow owns. -/
def radioInject (f : FlowId) (s : State) : State :=
  match s.flowOf f, takeFirst (fun q => decide (q.flow = f)) s.mesh.radioQ with
  | some fl, some (q, rest) =>
    let put (s : State) (q : RadioQ) : State := { s with mesh := { s.mesh with radioQ := if q.left = 0 then rest else replaceFirst (fun x => decide (x.flow = f)) q s.mesh.radioQ } }
    if fl.phases = [] ∨ s.now ≠ s.firstOwned fl.phases (later q.earliest (s.freeAt f)) ∨ s.readLeg q then s
    else
      let s := s.flowUsed f
      match q.memx with
      | some (id, n) =>
        match s.mem.memx.find? fun m => decide (m.id = id) with
        | none => { s with mesh := { s.mesh with radioQ := rest } }
        | some m => (put s { q with left := q.left - 1, memx := some (id, n + 1) }).legInject q m (match f with | .leg _ _ r => r | _ => 0) n
      | none =>
        let n := Nat.min 2 q.left
        (put s { q with left := q.left - n, unit := q.unit + BitVec.ofNat 32 n, addr := q.addr + 256 * n }).sendNow q
  | _, _ => s

/-- The slot-table entry that feeds a zone from a rim die's parser: the owner's declared flow between them (R219, R300). -/
def State.zoneFlow (s : State) (q : ZoneRec) : Option FlowSlot :=
  s.mesh.slots.find? fun x => decide (x.src = 64 + q.rim.val ∧ x.dest = q.tile.val) && match x.flow with
    | .declared n _ => decide (n.val = q.owner)
    | _ => false

/-- A rim die hands a radio frame to its link 24 cycles before the owned phase that it is for (R197, R246). -/
def State.handOver (s : State) (x : Crossing) : State :=
  let y := s.handTo x.rim true s.now
  { y.2 with mesh := { y.2.mesh with crossings := enq y.2.mesh.crossings { x with nominal := s.now + 24, sent := y.1 } } }

/-- The record of a flow that goes next, and the others: the oldest, and of its zone's records of one symbol the one with the lowest U (R300). -/
def State.nextRecord (s : State) (fl : FlowSlot) : Option (ZoneRec × List ZoneRec) :=
  let first (q : ZoneRec) : Nat := ((q.units.head?).map (·.1.toNat)).getD 0
  match s.radio.zoneQ.find? fun q => decide (s.zoneFlow q = some fl) with
  | none => none
  | some q =>
    let like := s.radio.zoneQ.filter fun y => decide (s.zoneFlow y = some fl ∧ y.tile = q.tile ∧ y.zone = q.zone ∧ y.earliest = q.earliest)
    let best := like.foldl (fun b y => if first y < first b then y else b) q
    takeFirst (fun y => decide (y = best)) s.radio.zoneQ

/-- The next flit of a flushed record is handed over: the units of up to two that have credit (R300). -/
def State.handRecord (s : State) (fl : FlowSlot) : State :=
  match s.nextRecord fl with
  | none => s
  | some (q, rest) =>
    if s.now + 24 < q.earliest then s
    else
      let us := (q.units.take 2).filter fun x => s.hasCredit (64 + q.rim.val) q.tile.val q.zone.val x.1
      let left := q.units.drop 2
      let zq := if left = [] then rest else replaceFirst (fun y => decide (y = q)) { q with units := left } s.radio.zoneQ
      let s : State := { s with radio := { s.radio with zoneQ := zq } }
      if us = [] then s
      else s.handOver { rim := q.rim, flow := fl.flow, zone := some (q.tile, q.zone), tile := q.tile, nominal := 0, sent := 0,
                        payload := .landing (us.map fun (u, d) => { tile := q.tile, zone := q.zone.val, unit := u, mask := 0xF, owner := BitVec.ofNat 7 q.owner,
                                                                    src := BitVec.ofNat 7 (72 + q.rim.val), data := d }) }

/-- The next flit of a read leg is handed over. -/
def State.handLeg (s : State) (fl : FlowSlot) (rim : Fin 4) : State :=
  match takeFirst (fun q => decide (q.flow = fl.flow)) s.mesh.radioQ with
  | none => s
  | some (q, rest) =>
    if s.now + 24 < q.earliest ∨ !s.readLeg q then s
    else match q.memx with
      | none => s
      | some (id, n) => match s.mem.memx.find? fun m => decide (m.id = id) with
        | none => s
        | some m =>
          let q' : RadioQ := { q with left := q.left - 1, memx := some (id, n + 1) }
          let s : State := { s with mesh := { s.mesh with radioQ := if q'.left = 0 then rest else replaceFirst (fun x => decide (x.flow = fl.flow)) q' s.mesh.radioQ } }
          s.handOver { rim := rim, flow := fl.flow, tile := q.tile, nominal := 0, sent := 0, payload := legPayload m rim.val n }

/-- What the rim dies hand to their links in this cycle: for each flow from a rim die that owns the phase 24 cycles on, its next flit. -/
def State.handCycle (s : State) : State :=
  s.mesh.slots.foldl (fun (s : State) fl =>
    if 64 ≤ fl.src ∧ fl.src < 68 ∧ fl.phases.contains (s.phase (s.now + 24)) then
      match fl.flow with
      | .leg _ _ r => s.handLeg fl r
      | _ => s.handRecord fl
    else s) s

/-- RADIO_FLIT_INJECT of a frame from a rim die (R197): the oldest of its flow, when it has crossed, in the first owned phase after the
flow's last injection, and by its deadline - 64. -/
def crossInject (mine : Crossing → Bool) (s : State) : State :=
  match takeFirst mine s.mesh.crossings with
  | none => s
  | some (x, rest) =>
    match s.flowOf x.flow with
    | none => s
    | some fl =>
      if s.now ≠ s.firstOwned fl.phases (later (x.sent + 24) (s.freeAt x.flow)) ∨ x.nominal + 64 < s.now
          ∨ s.mesh.crossings.find? (fun y => decide (y.flow = x.flow)) ≠ some x then s
      else (State.flowUsed { s with mesh := { s.mesh with crossings := rest } } x.flow).flit (s.now + 64) x.payload (some (x.nominal + 128))

/-- The frame of a flow on a rim die's link: a zone names the records for it. -/
def Crossing.of (f : FlowId) (x : Crossing) : Bool :=
  match f with
  | .zone t z => decide (x.zone = some (t, z))
  | f => decide (x.flow = f)

/-- RADIO_FLIT_INJECT of any flow. -/
def flowInject (f : FlowId) (s : State) : State :=
  if s.mesh.crossings.any (·.of f) then crossInject (·.of f) s else radioInject f s

def execRadioFlitInject (f : FlowId) (s : State) : Res := .next (flowInject f s)

/-! ## Tenant flits (R207) -/

/-- The cycle in which a tenant flit is delivered: the first that the links leave it, and no later than 1,536 cycles after its issue,
counted from the last cycle in which it lacked credit (R207; log entry 174). -/
def Xfer.by_ (x : Xfer) (due least : W64) : W64 := if due ≤ x.base + 1536 then due else later (x.base + 1536) least

/-- A tenant flit from a tile enters the mesh now: to a tile or the control cluster, or over the link of a rim die. -/
def State.tenantFlit (s : State) (x : Xfer) (p : Payload) : State :=
  let a := stopOf (s.ptile x.tile)
  let b := s.destStop x.dest
  let least := s.now + BitVec.ofNat 64 (4 + 3 * hops a b)
  let y := (s.take (outPort a) s.now).transit a b s.now
  let due := x.by_ y.1 least
  if 64 ≤ x.dest ∧ x.dest < 68 then y.2.flitOut (fin 4 (x.dest - 64)) due p none (x.tile, x.ctx) x.issued
  else y.2.flit due p none none (some (x.tile, x.ctx)) x.issued

/-- A line of a MEMX read leaves its rim die: it crosses the link, enters the mesh and lands in the pad (R196, R253). -/
def State.tenantReply (s : State) (x : Xfer) (r : Fin 4) (p : Payload) : State :=
  let h := s.handTo r true s.now
  let a := rimStop r
  let b := stopOf (s.ptile x.tile)
  let v := firstCycle (h.2.open_ (outPort a)) 4096 (h.1 + 24)
  let y := (h.2.take (outPort a) v).transit a b v
  y.2.flit (x.by_ y.1 (v + BitVec.ofNat 64 (4 + 3 * hops a b))) p none (some (r, h.1)) (some (x.tile, x.ctx)) x.issued

/-- The rows of a write transfer's next lines, at most 8, read from the pad. -/
def State.readLinesOf (s : State) (x : Xfer) : List (Nat × Row × Bool) × State :=
  (List.range (Nat.min 8 x.left)).foldl (fun (y : List (Nat × Row × Bool) × State) i =>
    let z := y.2.padRead x.tile (rowOf (x.addr + 64 * i)) x.owner
    (enq y.1 (x.unit.toNat + i, z.1.data, z.1.poison), z.2)) ([], s)

/-- TENANT_FLIT_INJECT (R207): the next flit of a tenant transfer leaves, one in each cycle from the one after its issue on; where the egress
port is taken, or credit lacks, it waits. A leg that a link error lost waits for its TIMEOUT (R474). -/
def tenantInject (id : Nat) (s : State) : State :=
  match takeFirst (fun x => decide (x.id = id)) s.mesh.xfers with
  | none => s
  | some (x, rest) =>
    let put (s : State) (y : Xfer) : State := { s with mesh := { s.mesh with xfers := if y.left = 0 then rest else s.mesh.xfers.map fun z => if z.id = id then y else z } }
    let js := match x.memx with
      | some _ => List.range (Nat.min 8 x.left)
      | none => (List.range (Nat.min 2 x.left)).takeWhile fun j => s.hasCredit x.tile.val x.dest x.zone (x.unit + BitVec.ofNat 32 j)
    let n := js.length
    if !(decide (x.next = s.now) || (x.held && decide (x.next ≤ s.now))) ∨ x.left = 0 then s
    else match x.rim with
      | some r => (put (s.act fun a => { a with flits := a.flits + 1 }) { x with left := 0 }).tenantReply x r (.lines (x.memx.getD 0) x.tile x.owner x.lines)
      | none =>
        if n = 0 ∨ !s.open_ (outPort (stopOf (s.ptile x.tile))) s.now then put s { x with held := true, base := if n = 0 then s.now else x.base }
        else
          let s := s.act fun a => { a with flits := a.flits + 1 }
          let step : Nat := if x.memx.isSome then 64 else 256
          let y : Xfer := { x with left := x.left - n, unit := x.unit + BitVec.ofNat 32 n, addr := x.addr + step * n, next := s.now + 1, held := false }
          match x.memx with
          | some m => let r := s.readLinesOf x; (put r.2 y).tenantFlit x (.memxW m r.1)
          | none =>
            let r := s.readUnits x.tile x.owner x.unit x.addr js
            (put r.2 y).tenantFlit x (unitPayload x.tile x.ctx (stopOf (s.ptile x.tile)) x.owner x.dest x.zone r.1)

/-- In ordered mode the transfers of one pair of stops keep their order (R223). -/
def State.xferTurn (s : State) (id : Nat) : Bool :=
  match s.mesh.xfers.find? fun x => decide (x.id = id) with
  | some x => !s.orderedMode || (s.mesh.xfers.takeWhile fun y => decide (y.id ≠ id)).all fun y =>
      !decide (y.tile = x.tile ∧ y.dest = x.dest ∧ y.rim = x.rim)
  | none => false

def execTenantFlitInject (id : Nat) (s : State) : Res := guarded (s.xferTurn id) (tenantInject id) s

/-! ## Deliveries in a cycle -/

/-- Lines of a MEMX read land in the pad under the task's tag (R243, R249). -/
def State.landLines (s : State) (id : Nat) (t : LTile) (owner : Nat) (ls : List (Nat × Row × Bool)) : State :=
  (ls.foldl (fun s (a, d, p) => s.padWrite t { row := rowOf a, rank := rankLanding, tag := owner, data := d, mask := fullMask, poison := p }) s).memxLine id ls.length

/-- Lines of a MEMX write reach a rim die: a radio one holds them for its group, a tenant one asks its channels. -/
def State.rimLines (s : State) (id : Nat) (ls : List (Nat × Row × Bool)) : State :=
  match s.mem.memx.find? fun m => decide (m.id = id) with
  | none => s
  | some m =>
    if m.radio then
      s.modMem fun x => { x with memx := mapIf (fun y => decide (y.id = id)) (fun y => { y with buf := ls.foldl (fun b (i, d, p) => tput i (d, p) b) y.buf }) x.memx }
    else
      let op (d : Row) (p : Bool) : LineOp := if m.op = 1 then .write d p else if m.op = 2 then .accInt d else .accFp d
      s.ask (taskSource m.tile m.ctx) (ls.map fun (i, d, p) => (m.addr / 64 + i, op d p, .memx id i))

/-- The status row of a task is written, its flags captured and cleared (R210). -/
def State.writeFlags (s : State) (t : LTile) (c : CtxNo) (row : Nat) : State :=
  match s.ctx t c with
  | none => s
  | some k =>
    let b := k.sat.toNat + 2 * k.nan.toNat + 4 * k.poison.toNat
    let s := s.padWrite t { row := row, rank := rankOther, tag := k.owner, data := BitVec.ofNat 512 b, mask := fullMask }
    s.setCtx t c (some { k with sat := false, nan := false, poison := false })

/-- The next-cycle effects that are due on a tile (R209, R210). -/
def State.laterCycle (s : State) (t : LTile) : State :=
  let due := (s.tiles.get t).later.filter fun l => decide (l.1 ≤ s.now)
  let s := s.modTile t fun x => { x with later := x.later.filter fun l => !decide (l.1 ≤ s.now) }
  due.foldl (fun s l => match l.2 with
    | .cret z n => s.setRd t z.val (BitVec.ofNat 32 (s.fget (zrd t z.val) 31 0 + n))
    | .flags c row => s.writeFlags t c row) s

/-- The task timer (R472): a cycle in which the next operation waits on the task's own earlier work. -/
def State.timerCycle (s : State) (t : LTile) : State :=
  (List.finRange 8).foldl (fun s c => match s.ctx t c with
    | none => s
    | some k =>
      if !k.radio && k.ended.isNone && !s.issueStopped t && ((match k.fence with | some n => decide (n < 3) | none => false) || decide (64 < tget 0 s.ten.frtBusy (8 * t.val + c.val)))
      then s.setCtx t c (some { k with timer := k.timer + 1 }) else s) s

/-! ## Contexts (R149, R200, R212, R217, R475, R545) -/

/-- A context is released: its completion record leaves for the owning Fenen core, and what the mesh still carries of
it no longer belongs to it (R212, R471). -/
def releaseCtx (t : LTile) (c : CtxNo) (s : State) : State :=
  match s.ctx t c with
  | none => s
  | some k =>
    let s := s.setCtx t c none
    let s := s.modTile t fun x =>
      { x with arr := { x.arr with last := x.arr.last.filter fun l => decide (l.2.ctx ≠ c) }, later := x.later.filter fun l => match l.2 with | .flags d _ => decide (d ≠ c) | .cret _ _ => true }
    let strip (p : Payload) : Payload := match p with
      | .landing ws => .landing (ws.map fun w => if w.sender = some (t, c) then { w with sender := none } else w)
      | .nack a snd r => .nack a (if snd = some (t, c) then none else snd) r
      | p => p
    let s := { s with
      mesh := { s.mesh with flits := s.mesh.flits.map fun (f : Flit) => ({ f with payload := strip f.payload, sender := if f.sender = some (t, c) then none else f.sender } : Flit)
                            xfers := mapIf (fun x => decide (x.tile = t ∧ x.ctx = c)) (fun (x : Xfer) => { x with dead := true }) s.mesh.xfers }
      mem := { s.mem with memx := mapIf (fun m => decide (m.tile = t ∧ m.ctx = c)) (fun (m : MemX) => { m with dead := true }) s.mem.memx }
      ten := { s.ten with frtBusy := tdel (8 * t.val + c.val) s.ten.frtBusy }
      fab := { s.fab with frts := mapIf (fun r => decide (r.tile = t ∧ r.ctx = c)) (fun (r : FrtRun) => { r with dead := true }) s.fab.frts } }
    s.flit (s.now + 65) (.done t k.owner k.entry k.recIdx (k.sat.toNat + 2 * k.nan.toNat + 4 * k.poison.toNat) k.kernel (k.ended.getD 0) k.started k.endedAt)

/-- CONTEXT_RECLAIM (R545): a tenant task still in a context that a pending commit reserves is dropped 983,040 cy before
the commit's instant. -/
def State.reclaimDue (s : State) (t : LTile) (c : CtxNo) : Bool :=
  (match s.ctx t c with | some k => !k.radio | none => false)
  && s.ctl.pend.any fun p => decide (p.x - 983040 = s.now) && match p.set with
    | .slice _ => (match imageAfter none p.settings with
        | some i => i.recs.any fun r => !recTenant r && decide (recTile r = t.val ∧ recCtx r = c.val)
        | none => false)
    | _ => false

def execContextReclaim (t : LTile) (c : CtxNo) (s : State) : Res := guarded (s.reclaimDue t c) (·.dropTask t c 11) s

/-- PARK of the sequencer (R225). -/
def execSchPark (t : LTile) (a : Agent) (s : State) : Res := .next (parkReg (treg .schCtrl t) 0 t a s)

/-- TASK_TIMEOUT (R472). -/
def taskTimeout (t : LTile) (c : CtxNo) (s : State) : State :=
  match s.ctx t c with
  | none => s
  | some k =>
    if k.radio ∨ k.ended.isSome ∨ k.timer < k.timeout then s
    else ((s.schFault t c 4).finc (treg .schStat t) 63 48).dropTask t c 5

def execTaskTimeout (t : LTile) (c : CtxNo) (s : State) : Res := .next (taskTimeout t c s)

/-- The window of a tile that opens in this cycle. -/
def State.opening (s : State) (t : LTile) : Option (Win × W64) :=
  match s.openWindow s.now t with
  | some (w, o, c) => if o = s.now then some (w, c) else none
  | none => none

/-- The task of a window starts in its context (R200, R217); the engine is cleared for a new owner (R140). -/
def windowOpen (t : LTile) (s : State) : State :=
  match s.opening t with
  | none => s
  | some (w, close) =>
    match s.imageAt s.now w.slice with
    | none => s
    | some i =>
      match i.recs[winTask w.entry]? with
      | none => s
      | some r =>
        let a := tget (0, 0) (s.tiles.get t).alloc w.slice.val
        let sl := s.ctl.slices.get w.slice
        if bit (s.rget (treg .schCtrl t)) 0 then s
        else match startTask r (winTask w.entry) (.slice w.slice) w.slice.val a.1 a.2 sl.win0 sl.win1 s.now with
          | none => s
          | some k =>
            let c := fin 8 (recCtx r)
            let s := releaseCtx t c s
            let k : TaskCtx := { k with opens := s.now, closes := close }
            ((s.setCtx t c (some k)).engOwn t w.slice.val).modEng t (·.forget c)

def execRadioWindowOpen (t : LTile) (s : State) : Res := .next (windowOpen t s)

/-- RADIO_WINDOW_CLOSE (R201): in cycle V + L - 1 a radio task whose next operation would issue at V + L or later is
refused it. -/
def windowClose (t : LTile) (s : State) : State :=
  (List.finRange 8).foldl (fun s c => match s.ctx t c with
    | none => s
    | some k =>
      match s.nextOp k with
      | some w =>
        if k.radio ∧ k.ended.isNone ∧ s.now + 1 = k.closes ∧ (k.closes ≤ k.dueAt w ∨ s.stopped t k) then s.refuse t c else s
      | none => s) s

def execRadioWindowClose (t : LTile) (s : State) : Res := .next (windowClose t s)

end Sys2Proof.Machine
end

