-- ==== Sys2Proof/Machine/Mailbox.lean ====
section
/-!
DEFINITION. The mailboxes: slots, sweeps, the header and payload checks, replies (R437-R452), and the event rings
(R462-R464, R476).
-/
namespace Sys2Proof.Machine

/-! ## Slots (R437-R440) -/

/-- The number of a slot in the table of slots. -/
def slotKey : SlotId → Nat
  | .pf0 n => n.val
  | .pf1 n => 256 + n.val

def isPf1 : SlotId → Bool
  | .pf0 _ => false
  | .pf1 _ => true

/-- The slots in the order of a sweep (R441): PF1 first, ascending. -/
def sweepOrder : List SlotId := (List.finRange 16).map .pf1 ++ (List.finRange 256).map .pf0

def State.slot (s : State) (i : SlotId) : Slot := tget {} s.mbx.slots (slotKey i)

def State.modSlot (s : State) (i : SlotId) (f : Slot → Slot) : State :=
  { s with mbx := { s.mbx with slots := tset {} s.mbx.slots (slotKey i) (f (s.slot i)) } }

/-- The stage passed last (R488, R504). -/
def State.stage (s : State) : Nat := s.fget (creg .secStatus) 3 0

/-- The owner of a slot (R443). -/
def State.slotOwner (s : State) : SlotId → Option Sender
  | .pf1 _ => some .mgmt
  | .pf0 n =>
    if n.val ≤ 7 then some .manager
    else match (List.finRange 64).find? fun k => let x := s.ctl.slices.get k; decide (x.slot0 ≤ n.val ∧ n.val < x.slot0 + x.nslot) with
      | some k => some (.slice k)
      | none => if s.ten.state ≠ .closed ∧ s.ten.cfg.slot0 ≤ n.val ∧ n.val < s.ten.cfg.slot0 + s.ten.cfg.nslot then some .tenant else none

/-- The PASID registered for a sender (R415, R447). -/
def State.pasidOf (s : State) : Sender → Option Nat
  | .manager => s.mbx.mgrPasid.map (·.toNat)
  | .slice n => some (s.ctl.slices.get n).pasid.toNat
  | .tenant => some s.ten.cfg.pasid.toNat
  | .mgmt => none

/-- The first vector and the count of a sender's range (R414, R461, R514). -/
def State.vectors (s : State) : Sender → Nat × Nat
  | .manager => if s.mbx.mgrPasid.isSome then (0, 64) else (0, 0)
  | .slice n => let x := s.ctl.slices.get n; (x.vec0, x.nvec)
  | .tenant => (s.ten.cfg.vec0, s.ten.cfg.nvec)
  | .mgmt => (0, s.pci.msi)

/-- The view owner of a sender's records. -/
def Sender.owner : Sender → Owner
  | .manager => .manager | .slice n => .slice n | .tenant => .tenant | .mgmt => .management

/-- SLOT_ARM (R439): one write of all 64 header bytes with OWN = 1 arms the slot; without it the bytes are stored. -/
def slotArm (i : SlotId) (h : BitVec 512) (s : State) : State :=
  if (s.slot i).armed.isSome then s.finc (creg .mbxStat) 31 16
  else s.modSlot i fun x => { x with hdr := h, armed := if bit h 32 then some s.now else none }

def execSlotArm (slot : SlotId) (header : BitVec 512) (s : State) : Res := guarded (!s.boot.held) (slotArm slot header) s

/-- MAILBOX_SLOT_WRITE (R439): bytes 0-63 are the header, 64-4,095 the payload. A longer write that covers the whole header
with OWN = 1 arms the slot as well. -/
def slotWrite (i : SlotId) (off : Nat) (b : Bytes) (s : State) : State :=
  if (s.slot i).armed.isSome then s.finc (creg .mbxStat) 31 16
  else s.modSlot i fun x =>
    let y := ((List.range b.length).zip b).foldl (fun (x : Slot) (k, v) =>
      if off + k < 64 then { x with hdr := putBits x.hdr (8 * (off + k) + 7) (8 * (off + k)) v.toNat }
      else if off + k < 4096 then { x with body := tset 0 x.body (off + k - 64) v } else x) x
    if off = 0 ∧ 64 ≤ b.length ∧ bit y.hdr 32 then { y with armed := some s.now } else y

def execMailboxSlotWrite (slot : SlotId) (offset : Nat) (bytes : Bytes) (s : State) : Res :=
  guarded (!s.boot.held) (slotWrite slot offset bytes) s

/-! ## Interrupts (R514) -/

/-- A vector of PF0 is sent, or its pending bit set while it is masked. -/
def State.raise (s : State) (v : Nat) : State :=
  if bit s.pci.masked v then { s with pci := { s.pci with pend := putBit s.pci.pend v true } } else s.emit (.msix v)

/-- The vector after a reply or event on a function. -/
def State.raiseOn (s : State) (pf1 : Bool) (v : Nat) : State := if pf1 then s.emit (.msi v) else s.raise v

/-! ## Replies (R445-R447) -/

/-- The writes of a reply: payload, header, vector. -/
def State.sendReply (s : State) (r : Reply) : State :=
  let s := s.emit (.reply r)
  match r.vec with
  | some v => s.raiseOn (isPf1 r.slot) v
  | none => s

/-- A message is answered: the payload is cut to RLEN - 64, and the reply kept (R445, R447). -/
def State.reply (s : State) (m : Msg) (status : Nat) (detail : Nat := 0) (payload : Bytes := []) : State :=
  let r : Reply := {
    slot := m.slot, raddr := m.raddr, seq := m.seq, opcode := m.opcode, status := status, detail := detail,
    trunc := decide (m.rlen - 64 < payload.length), dup := m.dup, pasid := m.pasid, wpasid := m.wpasid, taken := m.taken,
    done := s.now, payload := payload.take (m.rlen - 64), vec := m.vec }
  let s := s.modSlot m.slot fun x => match x.kept with
    | some (q, o, _) => if q = m.seq ∧ o = m.opcode then { x with kept := some (q, o, some r) } else x
    | none => x
  s.sendReply r

/-! ## Sweeps (R441, R442, R452) -/

/-- A record of a malformed message (code 0x0401). -/
def State.malRec (s : State) (i : SlotId) (own : Owner) : State :=
  (s.finc (creg .mbxStat) 15 0).logRec { cls := .ce, unit := 11, code := .num 0x0401, owners := [own], object := slotKey i, limit := perX 3 (slotKey i) }

/-- Reserved header bits by byte (R438). -/
def hdrMask (k : Nat) : Nat :=
  if k = 4 ∨ k = 5 then 0xFE else if k = 11 then 0xF8 else if k = 14 then 0xF0 else if k = 15 ∨ 28 ≤ k then 0xFF else 0

/-- The first header byte with a reserved bit set. -/
def hdrBad (h : BitVec 512) : Option Nat := (List.range 64).find? fun k => bits h (8 * k + 7) (8 * k) &&& hdrMask k ≠ 0

/-- The checks that follow the header's, in the order of R452: status and DETAIL of the first that fails. -/
def checkMsg (s : State) (i : SlotId) (o : Sender) (op len vec : Nat) (h : BitVec 512) (p : Bytes) : Option (Nat × Nat) :=
  match hdrBad h with
  | some k => some (stMalformed, k)
  | none =>
    if (s.vectors o).2 ≤ vec then some (stMalformed, 10)
    else
      let recov := s.boot.recovery && decide (op ≠ 0x0802)
      match opSenders op with
      | none => some (stUnknown, 6)
      | some c =>
        if !famServed op (isPf1 i) ∨ recov then some (stUnknown, 6)
        else
          let named : Bool := match o with
            | .slice n => decide ((op / 256 = 2 ∨ (op / 256 = 3 ∧ op ≠ 0x0308) ∨ op / 256 = 4) ∧ namedSet op p ≠ n.val)
            | .mgmt => decide (op / 256 = 4 ∧ namedSet op p ≠ 255 ∧ setOk (namedSet op p))
            | _ => false
          let slotBad := decide (op = 0x0802 ∧ i ≠ .pf1 0)
          if c &&& o.cls = 0 ∨ named ∨ slotBad then some (stNotPermitted, 6)
          else if 4032 < len ∨ len ≠ payloadLen op p then some (stMalformed, 8)
          else (payloadBad op p).map fun k => (stMalformed, 64 + k)

/-- A slot released and its message judged (R441, R445, R452). -/
def takeMsg (i : SlotId) (s : State) : State :=
  let x := s.slot i
  let h := x.hdr
  let seq := bits h 31 0
  let op := bits h 63 48
  let len := bits h 79 64
  let vec := bits h 90 80
  let pasid := bits h 115 96
  let raddr := bits h 191 128
  let rlen := bits h 223 192
  let p : Bytes := (List.range (Nat.min 4032 len)).map fun k => tget 0 x.body k
  let release (s : State) : State := s.modSlot i fun y => { y with hdr := putBit y.hdr 32 false, armed := none }
  let keep (s : State) : State := s.modSlot i fun y => { y with kept := some (seq, op, none) }
  let s := release s
  match s.slotOwner i with
  | none => (keep s).malRec i .management
  | some o =>
    if raddr % 64 ≠ 0 ∨ rlen < 64 ∨ 4096 < rlen ∨ rlen % 64 ≠ 0 then (keep s).malRec i o.owner
    else
      let irq := bit h 40
      let m : Msg := {
        slot := i, seq := seq, opcode := op, vec := if irq then some ((s.vectors o).1 + vec) else none, pasid := pasid,
        wpasid := s.pasidOf o, sender := o, raddr := raddr, rlen := rlen, payload := p, taken := s.now }
      let fail (m : Msg) (c : Nat × Nat) : State := ((keep s).malRec i o.owner).reply m c.1 c.2
      if some pasid ≠ (match o with | .mgmt => some 0 | o => s.pasidOf o) then fail m (stMalformed, 12)
      else match x.kept with
        | some (q, ko, r) =>
          if q = seq ∧ ko = op then
            let s := s.finc (creg .mbxStat) 63 48
            match r with
            | some r => s.sendReply { r with dup := true }
            | none =>
              let mark (m : Msg) : Msg := if m.slot = i ∧ m.seq = seq then { m with dup := true } else m
              { s with mbx := { s.mbx with taken := s.mbx.taken.map mark, waiting := s.mbx.waiting.map fun (m, w) => (mark m, w) } }
          else if q = seq then fail m (stMalformed, 0)
          else match checkMsg s i o op len vec h p with
            | some c => fail { m with vec := if c = (stMalformed, 10) then none else m.vec } c
            | none => let s := keep s; { s with mbx := { s.mbx with taken := enq s.mbx.taken m } }
        | none => match checkMsg s i o op len vec h p with
          | some c => fail { m with vec := if c = (stMalformed, 10) then none else m.vec } c
          | none => let s := keep s; { s with mbx := { s.mbx with taken := enq s.mbx.taken m } }

/-- The position that holds a role (R412). -/
def State.holder (s : State) (r : Fin 8) : Fin 8 := fin 8 (s.fget (creg .ctlRole) (4 * r.val + 2) (4 * r.val))

/-- A role that takes no slot: its handover is being prepared (R431), or its holder has failed. -/
def State.roleAway (s : State) (r : Fin 8) : Bool := s.cores.failed.getLsbD (s.holder r).val || s.cores.away.getLsbD r.val

/-- Whether the agent that serves a slot's message is there to take it (R442, R489, R490). -/
def State.served (s : State) (i : SlotId) : Bool :=
  match i with
  | .pf1 n => if s.boot.recovery then n.val == 0 else s.cores.m0Up
  | .pf0 _ =>
    let h := (s.slot i).hdr
    let p : Bytes := (List.range 4).map fun k => tget 0 (s.slot i).body k
    decide (12 ≤ s.stage) && !s.boot.dies && !s.roleAway (servingRole (bits h 63 48) p)

/-- MAILBOX_SWEEP (R441): a sweep starts where the offset is a multiple of 2,048; it takes every slot armed before. -/
def sweep (s : State) : State :=
  (sweepOrder.filter fun i => (match (s.slot i).armed with | some a => decide (a < s.now) | none => false) && s.served i).foldl (fun s i => takeMsg i s) s

def execMailboxSweep (s : State) : Res := guarded (decide (s.off s.now % 2048 = 0)) sweep s

/-! ## Execution (R444) -/

/-- The first taken message of a slot is executed, when it has the opcode, the slot's previous message is answered, and
no message taken before it names the same object. -/
def onMsg (op : Nat) (i : SlotId) (want : Msg → Bool) (f : Msg → State → State) (s : State) : State :=
  match takeFirst (fun m => decide (m.slot = i)) s.mbx.taken with
  | none => s
  | some (m, rest) =>
    let before := s.mbx.taken.takeWhile fun x => decide (x ≠ m)
    if m.opcode ≠ op ∨ !want m ∨ s.mbx.waiting.any (fun w => decide (w.1.slot = i))
       ∨ (before.any fun x => sameObject x.opcode x.payload m.opcode m.payload) then s
    else f m { s with mbx := { s.mbx with taken := rest } }

/-- A message command. -/
def message (op : Nat) (i : SlotId) (f : Msg → State → State) (s : State) : Res := .next (onMsg op i (fun _ => true) f s)

/-- Whether the staged-commit unit takes a request now: a control-plane one waits in a cycle that has had a management-plane one (R30). -/
def State.unitTurn (s : State) (i : SlotId) : Bool := isPf1 i || decide (s.ctl.mgmtAt ≠ some s.now)

/-- A request of a slot reaches the staged-commit unit. -/
def State.unitSeen (s : State) (i : SlotId) : State := if isPf1 i then { s with ctl := { s.ctl with mgmtAt := some s.now } } else s

/-- A message command of the staged-commit unit (R30). -/
def unitMessage (op : Nat) (i : SlotId) (want : Msg → Bool) (f : Msg → State → State) (s : State) : Res :=
  .next (onMsg op i (fun m => s.unitTurn i && want m) (fun m s => f m (s.unitSeen i)) s)

/-- A message that is answered later. -/
def State.await (s : State) (m : Msg) (w : WaitFor) : State := { s with mbx := { s.mbx with waiting := enq s.mbx.waiting (m, w) } }

/-- Every message that waits for `w` is answered. -/
def State.answerAll (s : State) (w : WaitFor) (f : Msg → State → State) : State :=
  let ms := s.mbx.waiting.filter fun x => decide (x.2 = w)
  ms.foldl (fun s x => f x.1 s) { s with mbx := { s.mbx with waiting := s.mbx.waiting.filter fun x => decide (x.2 ≠ w) } }

/-! ## Events (R462-R464, R476) -/

/-- The number of an owner's ring: a slice as n, the tenant as 64. -/
def ringOf (owner : Nat) : Fin 65 := if h : owner < 64 then ⟨owner, by omega⟩ else 64

def State.event (s : State) (e : Event) : State := { s with mbx := { s.mbx with events := enq s.mbx.events e } }

def State.modRing (s : State) (o : Fin 65) (f : Ring → Ring) : State :=
  match tfind o.val s.mbx.rings with
  | some r => { s with mbx := { s.mbx with rings := tput o.val (f r) s.mbx.rings } }
  | none => s

/-- Whether a ring's cached consumer index shows it full. -/
def Ring.full (r : Ring) : Bool := decide (r.entries ≤ (r.index - r.seen) % 2 ^ 64)

/-- EVENT_RECORD_WRITE (R462, R464): the owner's oldest event is written; `consumer` is what CONS reads as. -/
def writeEvent (o : Fin 65) (consumer : Option W64) (s : State) : State :=
  match takeFirst (fun e => decide (e.owner = o)) s.mbx.events with
  | none => s
  | some (e, rest) =>
    let s := { s with mbx := { s.mbx with events := rest } }
    match tfind o.val s.mbx.rings with
    | none => s
    | some r =>
      if r.entries = 0 ∨ (e.kind = 2 ∧ !r.compl) then s
      else
        let may := match r.readAt with | some t => decide (2048 ≤ (s.now - t).toNat) | none => true
        let r := match r.full && may, consumer with
          | true, some c => { r with seen := c.toNat, readAt := some s.now }
          | _, _ => r
        if r.full then s.modRing o fun _ => { r with lost := Nat.min 0xFFFF (r.lost + 1) }
        else
          let s := s.emit (.event (r.base + 512 * (r.index % r.entries)) r.index r.lost e r.prod)
          let s := s.modRing o fun _ => { r with index := r.index + 1, lost := 0 }
          if r.irq then s.raise r.vec else s

def execEventRecordWrite (owner : Fin 65) (consumer : Option W64) (s : State) : Res := .next (writeEvent owner consumer s)

/-- The unit that a POST with CODE[14] takes: the oldest of the posting task's flow (R463). -/
def State.takeUnit (s : State) (t : LTile) (owner : Nat) : Option (BitVec 2048) × State :=
  match takeFirst (fun u => decide (u.1 = t ∧ u.2.1 = owner)) s.mbx.units with
  | some (u, rest) => (some u.2.2.2, { s with mbx := { s.mbx with units := rest } })
  | none => (none, s)

/-- REF of a task's record: its window-table index, or its run-list entry (R462). -/
def State.refOf (s : State) (owner recIdx : Nat) (entry : Option (BitVec 32)) : Nat :=
  if h : owner < 64 then (((s.ctl.slices.get ⟨owner, h⟩).image.bind fun i => i.recs[recIdx]?).map recWindow).getD 0xFFFFFFFF
  else (entry.map (·.toNat)).getD 0xFFFFFFFF

/-- A unit that reaches the control cluster: at most four of a flow, the oldest replaced (R463). -/
def State.holdUnit (s : State) (t : LTile) (owner zone : Nat) (d : BitVec 2048) : State :=
  let same (u : LTile × Nat × Nat × BitVec 2048) : Bool := decide (u.1 = t ∧ u.2.1 = owner ∧ u.2.2.1 = zone)
  let us := s.mbx.units
  let us := if (us.filter same).length < 4 then us else (match takeFirst same us with | some (_, r) => r | none => us)
  { s with mbx := { s.mbx with units := enq us (t, owner, zone, d) } }

/-- An ordinary POST reaches its core (R462, R463). -/
def State.postEvent (s : State) (t : LTile) (owner recIdx : Nat) (entry : Option (BitVec 32)) (kernel : BitVec 32) (code : BitVec 16) (flags : Nat) : State :=
  let r := if bit code 14 then s.takeUnit t owner else (none, s)
  let s := r.2
  s.event { owner := ringOf owner, kind := 1, ltile := t, code := code.toNat, flags := flags % 8 + 8 * r.1.isSome.toNat, atb := s.now,
            kernel := kernel.toNat, ref := s.refOf owner recIdx entry, unit := r.1 }

end Sys2Proof.Machine
end

