-- ==== Sys2Proof/Machine/ImageFile.lean ====
section
/-!
DEFINITION. Schedule images as byte strings: the header, the sections, and the checks of R188 that Fenen makes before
it accepts one (R188, R214-R221, R545 apart).
-/
namespace Sys2Proof.Machine

/-! ## Header and sections (R214, R215) -/

def allZero (b : Bytes) (off len : Nat) : Bool := (slice b off len).all (· == 0)

/-- The SHA-384 bytes of a string. -/
def hash48 (b : Bytes) : Bytes := toBytes (Config.sha384 b) 48

/-- Entry size of a section TYPE; 0 for no TYPE. -/
def entrySize (ty : Nat) : Nat :=
  if ty = 1 ∨ ty = 4 ∨ ty = 5 ∨ ty = 7 then 32 else if ty = 2 ∨ ty = 3 then 8 else if ty = 6 ∨ (8 ≤ ty ∧ ty ≤ 10) then 16 else 0

/-- A section of an image. -/
structure Sect where
  ty : Nat
  resv : Nat
  off : Nat
  len : Nat
  count : Nat
  deriving DecidableEq, Repr

/-- The section table. -/
def sections (b : Bytes) : List Sect :=
  (List.range (fld b 12 2)).map fun i =>
    let o := 128 + 16 * i
    ⟨fld b o 2, fld b (o + 2) 2, fld b (o + 4) 4, fld b (o + 8) 4, fld b (o + 12) 4⟩

/-- The fields of the header under item 1 of R188, by the offset of each that fails: for reserved bytes the first that is
not 0 (log entry 54). -/
def headerBad (b : Bytes) (tenant ordered : Bool) (avail : Nat) : List Nat :=
  let len := fld b 8 4
  [(0, decide (fld b 0 4 = 0x49535649)), (4, decide (fld b 4 2 = 1)), (6, decide (fld b 6 1 = tenant.toNat)),
   (8, decide (len % 64 = 0 ∧ 128 ≤ len ∧ len ≤ avail)), (12, decide (1 ≤ fld b 12 2 ∧ fld b 12 2 ≤ 4096 ∧ 128 + 16 * fld b 12 2 ≤ avail)),
   (14, decide (fld b 14 1 = ordered.toNat)), (15, allZero b 15 1),
   (16, decide (slice b 16 48 = hash48 (slice b 128 (len - 128))))].filterMap (fun (o, ok) => if ok then none else some o)
  ++ (((List.range 56).map (72 + ·)).find? fun o => decide (b.getD o 0 ≠ 0)).toList

/-- Whether a section stands right beside those before it (R215). -/
def sectOk (b : Bytes) (tenant : Bool) (before : List Sect) (x : Sect) : Bool :=
  decide (entrySize x.ty ≠ 0 ∧ x.resv = 0 ∧ x.off % 64 = 0 ∧ 128 + 16 * fld b 12 2 ≤ x.off ∧ x.off + x.len ≤ Nat.min (fld b 8 4) b.length
    ∧ x.count * entrySize x.ty ≤ x.len)
  && before.all (fun y => decide (y.ty ≠ x.ty) && !overlaps x.off (x.off + x.len) y.off (y.off + y.len))
  && !(tenant && (x.ty == 8 || x.ty == 9))

/-- The sections that stand right, and the offsets of the entries of the others. -/
def sectSplit (b : Bytes) (tenant : Bool) : List Sect × List Nat :=
  let all := sections b
  ((List.range all.length).zip all).foldl (fun (g : List Sect × List Nat) (i, x) =>
    if sectOk b tenant g.1 x then (enq g.1 x, g.2) else (g.1, enq g.2 (128 + 16 * i))) ([], [])

/-- The entries of a section. -/
def sectOf (good : List Sect) (b : Bytes) (ty : Nat) : List Bytes :=
  match good.find? fun x => x.ty == ty with
  | none => []
  | some x => (List.range x.count).map fun i => slice b (x.off + entrySize ty * i) (entrySize ty)

/-- The image that a byte string holds, from the sections of it that stand right. -/
def imageOfBytes (b : Bytes) : Image :=
  let tenant := decide (fld b 6 1 = 1)
  let good := (sectSplit b tenant).1
  { tenant := tenant, ordered := fld b 14 1 % 2 = 1, length := fld b 8 4, hash := slice b 16 48,
    recs := sectOf good b 1, ops := (sectOf good b 2).map (ofBytes 64), eng := (sectOf good b 3).map (ofBytes 64),
    passes := sectOf good b 4, padops := sectOf good b 5, sends := sectOf good b 6, memxs := sectOf good b 7, wins := sectOf good b 8,
    flows := sectOf good b 9, kernels := sectOf good b 10,
    passOff := ((good.find? fun x => x.ty == 4).map (·.off)).getD 0 }

/-! ## Entries -/

/-- Fields of a dispatch record (R216), and the range of its pad window (R150). -/
def recOk (tenant : Bool) (r : Bytes) : Bool :=
  decide (fld r 0 1 = tenant.toNat ∧ fld r 3 1 = 0 ∧ fld r 7 1 = 0 ∧ fld r 11 1 = 0 ∧ fld r 12 2 < 4096
    ∧ recBase r % 64 = 0 ∧ recBound r % 64 = 0 ∧ recBase r < recBound r ∧ recBound r ≤ 0xC00000)
  && (if tenant then decide ((recTile r < 64 ∨ recTile r = 0xFF) ∧ recCtx r = 0xFF ∧ recWindow r = 0xFFFF)
      else decide (recTile r < 64 ∧ recCtx r < 8 ∧ fld r 24 4 = 0))

/-- Fields of a flow entry (R219). -/
def flowOk (f : Bytes) : Bool := decide (fld f 2 1 ≤ 68 ∧ fld f 3 1 ≤ 68 ∧ 1 ≤ fld f 4 1 ∧ fld f 4 1 ≤ 32) && allZero f 5 11

/-- A list without repeats. -/
def noRepeats (l : List Nat) : Bool := l.eraseDups.length == l.length

/-- The operations of a dispatch record. -/
def Image.opsOf (i : Image) (r : Bytes) : List W64 := (i.ops.drop (recSeqFirst r)).take (recSeqCount r)

/-- A dispatch record as a task in an allocation that starts at 0, for the checks against its window. -/
def recTask (i : Image) (r : Bytes) : TaskCtx :=
  { radio := !i.tenant, img := .epoch, recIdx := 0, owner := 0, base := recBase r, bound := recBound r, srow := recSrow r }

/-- Whether an operation of a dispatch record uses entry `n` of the section of opcode `op`. -/
def Image.uses (i : Image) (r : Bytes) (op n : Nat) : Bool :=
  (i.opsOf r).any fun w => decide (seqOp w = op ∧ seqArg w % 65536 = n)

/-- Entries that fail, with their index. -/
def failing (l : List Bytes) (ok : Nat → Bytes → Bool) : List Nat :=
  ((List.range l.length).zip l).filterMap fun (n, d) => if ok n d then none else some n

/-- A descriptor that holds for every record that uses it. -/
def Image.forUsers (i : Image) (op n : Nat) (ok : Bytes → Bool) : Bool := i.recs.all fun r => !i.uses r op n || ok r

/-- The violations of items 1-7 of R188 in an image's entries: (item, section TYPE, index). -/
def Image.itemsBad (i : Image) : List (Nat × Nat × Nat) :=
  let t := i.tenant
  let tag (item ty : Nat) (l : List Nat) : List (Nat × Nat × Nat) := l.map fun n => (item, ty, n)
  let twice (l : List Bytes) (len : Nat) (n : Nat) (d : Bytes) : Bool := (l.take n).any fun e => decide (fld e 0 len = fld d 0 len)
  tag 1 1 (failing i.recs fun _ r => recOk t r)
  ++ tag 1 9 (failing i.flows fun n f => flowOk f && !twice i.flows 2 n f)
  ++ tag 1 10 (failing i.kernels fun n k => !twice i.kernels 4 n k)
  ++ tag 3 4 (failing i.passes fun n d => (dStaticFault d).isNone && i.forUsers 1 n fun r => dInWindow (recTask i r) d)
  ++ tag 3 5 (failing i.padops fun n d => (poStaticFault d).isNone && i.forUsers 3 n fun r => (poFault (recTask i r) d).isNone)
  ++ tag 3 6 (failing i.sends fun n d => sdOk t d && i.forUsers 4 n fun r =>
      ((recTask i r).span (sdAddr d) (256 * sdUnits d)).isSome
      && (t || i.flows.any fun f => decide (fld f 0 2 = sdFlow d ∧ fld f 2 1 = recTile r ∧ fld f 3 1 = sdDest d)))
  ++ tag 3 7 (failing i.memxs fun n d => mxOk t i.ordered d && i.forUsers 7 n fun r => ((recTask i r).span (mxPad d) (64 * mxLines d)).isSome)
  ++ tag 4 3 (failing (i.eng.map fun w => toBytes w 8) fun _ b => wordOk (ofBytes 64 b))
  ++ tag 5 2 (failing (i.ops.map fun w => toBytes w 8) fun _ b => let w := ofBytes 64 b; opFieldsOk w && opIndexOk i w)
  ++ tag 5 1 (failing i.recs fun _ r =>
      decide (1 ≤ recSeqCount r ∧ recSeqFirst r + recSeqCount r ≤ i.ops.length)
      && (match (i.opsOf r).getLast? with | some w => decide (seqOp w = 0x0F) | none => false)
      && (i.opsOf r).all fun w => decide (seqOp w ≠ 0x06) || ((recTask i r).span (seqArg w) 64).isSome)
  ++ (if t then [] else
    tag 6 2 (failing (i.ops.map fun w => toBytes w 8) fun _ b => decide (seqOp (ofBytes 64 b) ≠ 0x0A))
    ++ tag 7 8 (failing i.wins fun n w =>
        decide (fld w 0 1 < 64 ∧ fld w 1 1 ≤ 1 ∧ fld w 12 4 = 0 ∧ 1 ≤ winLen w ∧ winLen w ≤ 240 ∧ winStart w + winLen w ≤ winPeriod w
          ∧ winBudget w < 8192 * winLen w)
        && (match i.recs[winTask w]? with
            | some r => decide (!recTenant r ∧ recTile r = winTile w ∧ recWindow r = n)
            | none => false))
    ++ tag 7 1 (failing i.recs fun n r => recTenant r || (match i.wins[recWindow r]? with
        | some w => decide (winTask w = n)
        | none => false)))

/-- Required sections that an image lacks (R215), one for each. -/
def missing (b : Bytes) (tenant : Bool) (good : List Sect) : List Nat :=
  let sends := (sectOf good b 2).any fun w => decide (seqOp (ofBytes 64 w) = 0x04)
  ((if tenant then [1, 2, 10] else if sends then [1, 2, 8, 9] else [1, 2, 8]).filter fun ty => !good.any fun x => x.ty == ty).map fun _ => 0

/-- Every violation of items 1-7 of R188 in a byte string: (item, TYPE, index). Where the section table does not fit,
nothing beyond the header can be read. A missing section has no entry: its offset is 0 (log entry 54). -/
def imageBad (b : Bytes) (tenant ordered : Bool) : List (Nat × Nat × Nat) :=
  let hb := headerBad b tenant ordered b.length
  let st := if fld b 7 1 = 0xB1 then [] else [(2, 0, 7)]
  let g := sectSplit b tenant
  hb.map (fun o => (1, 0, o)) ++ st
  ++ (if hb.contains 12 then [] else
    (g.2 ++ missing b tenant g.1).map (fun o => (1, 0, o)) ++ { imageOfBytes b with tenant := tenant }.itemsBad)

/-- The largest BOUND of an image's records (R330). -/
def Image.maxBound (i : Image) : Nat := i.recs.foldl (fun m r => Nat.max m (recBound r)) 0

end Sys2Proof.Machine
end

