-- ==== Sys2Proof/Machine/Plan.lean ====
section
/-!
DEFINITION. The configuration that commits lead to (R418-R423): what settings make of slices, cells, streams,
templates and pads, the slot table that Fenen builds for it (R192, R193), and the egress settings it derives (R306,
R307).
-/
namespace Sys2Proof.Machine

/-! ## A configuration -/

/-- A configuration: what commits change. -/
structure Cfg where
  slices : Vector SliceSt 64
  map : Vector PTile 64
  frameOff : Int
  /-- valid streams: rim die, index, cell, registers -/
  streams : List (Fin 4 × Fin 8192 × Fin 512 × StreamRegs)
  /-- templates: rim die, TMPL, slice, entry -/
  templates : List (Fin 4 × Nat × Nat × Bytes)
  /-- pad allocations: tile, slice, start, size in 64 KiB -/
  alloc : List (LTile × Nat × Nat × Nat)
  /-- the cells of each port (first lane) in the order of their C-plane and of their U-plane queues (R306) -/
  places : List (Nat × List (Fin 64 × Fin 512) × List (Fin 64 × Fin 512))
  /-- the slot table (R192) -/
  slots : List FlowSlot
  deriving DecidableEq, Repr

def sliceOfFact (v : W64) : Nat := bits v 15 10

def State.streamRegs (s : State) (rim f : Nat) : StreamRegs :=
  ⟨s.rget ⟨.radFkey, rim, f⟩, s.rget ⟨.radFact, rim, f⟩, s.rget ⟨.radFtime, rim, f⟩, s.rget ⟨.radFgain, rim, f⟩⟩

/-- The rims with what they keep, in order. -/
def State.rimList (s : State) : List (Fin 4 × RimSt) := (List.finRange 4).map fun r => (r, s.radio.rims.get r)

/-- The configuration in force. -/
def State.cfg (s : State) : Cfg :=
  { slices := s.ctl.slices, map := s.tileMap, frameOff := s.frameOff,
    streams := s.rimList.flatMap fun (r, x) => x.streams.filterMap fun (f, st) =>
      let g := s.streamRegs r.val f
      if bit g.key 34 then some (r, fin 8192 f, fin 512 st.cell, g) else none,
    templates := s.rimList.flatMap fun (r, x) => x.templates.map fun (n, sl, b) => (r, n, sl, b),
    alloc := (List.finRange 64).flatMap fun t => (s.tiles.get t).alloc.map fun (n, a) => (t, n, a.1, a.2),
    places := s.ports.map fun (l, p) => (l, p.cells, p.ucells), slots := s.mesh.slots }

/-- The cell of a template entry. -/
def tmplCell (b : Bytes) : Nat := fld b 4 2
def tmplPort (b : Bytes) : Nat := fld b 2 1 % 16

/-- A configuration without a cell's streams and templates (R324, R459). -/
def Cfg.dropCell (c : Cfg) (n k : Nat) : Cfg :=
  { c with streams := c.streams.filter fun (_, _, cell, g) => !(decide (sliceOfFact g.fact = n) && decide (cell.val = k))
           templates := c.templates.filter fun (_, _, sl, b) => !(decide (sl = n) && decide (tmplCell b = k)) }

def Cfg.modSlice (c : Cfg) (n : Fin 64) (f : SliceSt → SliceSt) : Cfg := { c with slices := vmod c.slices n f }

/-- A cell's state changed: 0 deletes it. -/
def Cfg.cellTo (c : Cfg) (n : Fin 64) (k : Fin 512) (st : Nat) : Cfg :=
  if st = 0 then (c.modSlice n fun x => { x with cells := tdel k.val x.cells }).dropCell n.val k.val
  else c.modSlice n fun x => match tfind k.val x.cells with
    | some y => { x with cells := tput k.val { y with st := st } x.cells }
    | none => x

/-- What one setting of the stage set of slice `n` (or of the device and action sets) does. -/
def Cfg.apply (n : Fin 64) (c : Cfg) (x : Setting) : Cfg :=
  match x with
  | .create pasid slot0 nslot vec0 nvec =>
    c.modSlice n fun y => { y with st := .serving, pasid := pasid, slot0 := slot0, nslot := nslot, vec0 := vec0, nvec := nvec }
  | .alloc w0 w1 tiles =>
    let c := c.modSlice n fun y => { y with win0 := w0, win1 := w1, pads := tiles.foldl (fun t (l, sz, _) => tput l.val sz t) [] }
    { c with alloc := (c.alloc.filter fun (_, m, _) => decide (m ≠ n.val)) ++ tiles.map fun (l, sz, st) => (l, n.val, st, sz) }
  | .delete =>
    let c := (c.slices.get n).cells.foldl (fun c (k, _) => c.dropCell n.val k) c
    let c := c.modSlice n fun _ => {}
    { c with alloc := c.alloc.filter fun (_, m, _) => decide (m ≠ n.val) }
  | .cell k p => c.modSlice n fun y => { y with cells := tput k.val (match tfind k.val y.cells with | some z => { z with payload := p } | none => { payload := p }) y.cells }
  | .cellState k st => c.cellTo n k st.val
  | .stream cell rim f g =>
    { c with streams := (c.streams.filter fun (r, i, _) => !(decide (r = rim ∧ i = f))) ++ (if bit g.key 34 then [(rim, f, cell, g)] else []) }
  | .template rim m b => { c with templates := (c.templates.filter fun (r, i, _) => !(decide (r = rim ∧ i = m))) ++ [(rim, m, n.val, b)] }
  | .image i _ => c.modSlice n fun y => { y with image := some i }
  | .standby k sb => c.modSlice n fun y => match tfind k.val y.cells with
    | some z => { y with cells := tput k.val { z with standby := sb } y.cells }
    | none => y
  | .tileSwap t p => { c with map := c.map.set t p }
  | .frameOffset f => { c with frameOff := f }
  | .roleMove _ _ => c
  | .shed l => l.foldl (fun c (m, k) => c.cellTo m k 0) c
  | .mute l => l.foldl (fun c (m, k) => c.cellTo m k 2) c
  | .unmute l => l.foldl (fun c (m, k) => c.cellTo m k 1) c

/-- The slice whose settings a set holds; the device and action sets name no slice of their own. -/
def setSlice : SetId → Fin 64
  | .slice n => n
  | _ => 0

/-! ## The slot table (R192, R193) -/

/-- The flows that a configuration must carry: declared ones, and the rim legs of radio MEMX (R192, R247). -/
def Cfg.flows (c : Cfg) : List (FlowId × Nat × Nat × Nat) :=
  (List.finRange 64).flatMap fun n => match (c.slices.get n).image with
    | none => []
    | some i =>
      (i.flows.map fun f => (FlowId.declared n (fld f 0 2), fld f 2 1, fld f 3 1, fld f 4 1))
      ++ ((List.range i.memxs.length).zip i.memxs).flatMap fun (k, d) =>
          match i.recs.find? fun r => i.uses r 7 k with
          | none => []
          | some r => (List.finRange 4).filterMap fun rim =>
              if (legLines (mxM d) rim.val).isEmpty then none
              else some (FlowId.leg n k rim, if mxOp d = 0 then 64 + rim.val else recTile r, if mxOp d = 0 then recTile r else 64 + rim.val, mxRate d)

/-- A flow with the phases that it keeps (R192): none for a new one or one between other ends, else its own ones, the highest-numbered
released where its rate has fallen. -/
def keptSlot (old : List FlowSlot) (f : FlowId × Nat × Nat × Nat) : FlowSlot :=
  let (id, src, dst, rate) := f
  let own := ((old.find? fun x => decide (x.flow = id ∧ x.src = src ∧ x.dest = dst)).map (·.phases)).getD []
  ⟨id, src, dst, rate, ((List.range 64).filter own.contains).take rate⟩

/-- The links at which a table has two radio flits in one cycle or more than 32 of 64 phases held, and the first links of flows that own
a phase of another flow of the same end (R193). -/
def slotClash (map : Vector PTile 64) (l : List FlowSlot) : List Nat :=
  let held := l.flatMap fun x => heldLinks (endStop map x.src) (endStop map x.dest) x.phases
  let twice := held.filterMap fun h => if 1 < (held.filter fun k => decide (k = h)).length then some h.1 else none
  let full := held.filterMap fun h => if 32 < (held.filter fun k => decide (k.1 = h.1)).length then some h.1 else none
  let clash (e : FlowSlot → Nat) (x : FlowSlot) : Bool :=
    (decide (e x < 64) || decide (e x = 68)) && l.any fun y => decide (y ≠ x ∧ e y = e x) && x.phases.any (y.phases.contains ·)
  (twice ++ full ++ (l.filter fun x => clash (·.src) x || clash (·.dest) x).map fun x =>
    ((radioRoute (endStop map x.src) (endStop map x.dest)).head?).getD (4 * endStop map x.src)).eraseDups

/-- The first links of flows without as many phases as their rate (R193). -/
def slotShort (map : Vector PTile 64) (l : List FlowSlot) : List Nat :=
  (l.filter fun x => decide (x.phases.eraseDups.length ≠ x.rate ∨ x.rate = 0)).map fun x =>
    ((radioRoute (endStop map x.src) (endStop map x.dest)).head?).getD (4 * endStop map x.src)

/-- The links that a slot table cannot serve (R193). -/
def slotsBad (map : Vector PTile 64) (l : List FlowSlot) : List Nat := (slotClash map l ++ slotShort map l).eraseDups

/-- A table whose flow at place `i` owns one more phase. -/
def addPhases (l : List FlowSlot) (i : Nat) (ps : List Nat) : List FlowSlot :=
  ((List.range l.length).zip l).map fun (k, x) => if k = i then { x with phases := x.phases ++ ps } else x

/-- A table without a clash that gives one more phase to each place of a list, if there is one. -/
def searchSlots (map : Vector PTile 64) : List Nat → List FlowSlot → Option (List FlowSlot)
  | [], l => some l
  | i :: r, l => (List.range 64).findSome? fun p =>
      let m := addPhases l i [p]
      if (l[i]?).any (·.phases.contains p) || slotClash map m ≠ [] then none else searchSlots map r m

/-- The phases still to place: the place of a flow once for each. -/
def toPlace (l : List FlowSlot) : List Nat := ((List.range l.length).zip l).flatMap fun (k, x) => List.replicate (x.rate - x.phases.length) k

/-- The table that Fenen's choice makes of the kept phases (log entry 11). -/
def chosenSlots (map : Vector PTile 64) (l : List FlowSlot) : List FlowSlot :=
  (List.range l.length).foldl (fun (l : List FlowSlot) i => match l[i]? with
    | none => l
    | some x =>
      let n := x.rate - x.phases.length
      let ps := Config.placePhases (endStop map x.src) (endStop map x.dest) n (l.map fun y => (endStop map y.src, endStop map y.dest, y.phases))
      if n = 0 then l else addPhases l i ((ps.filter fun p => decide (p < 64) && !x.phases.contains p).take n)) l

/-- The slot table of a configuration after an older one: kept phases stay, and the rest is Fenen's choice among the tables that R193
allows; where its choice is none of them, the first of them that there is. A result that R193 refuses means that there is no table. -/
def Cfg.table (c : Cfg) (old : List FlowSlot) : List FlowSlot :=
  let kept := c.flows.map (keptSlot old)
  let best := chosenSlots c.map kept
  if slotsBad c.map best = [] then best
  else if slotClash c.map kept ≠ [] then best
  else (searchSlots c.map (toPlace kept) kept).getD best

/-- A configuration after a set's settings, with its slot table. -/
def Cfg.after (c : Cfg) (id : SetId) (l : List Setting) : Cfg :=
  let d := l.foldl (fun c x => c.apply (setSlice id) x) c
  { d with slots := d.table c.slots }

/-- Pending commits in the order of their instants, those of one instant in the order of acceptance. -/
def byInstant : List Pending → List Pending
  | [] => []
  | p :: r =>
    let rec ins (p : Pending) : List Pending → List Pending
      | [] => [p]
      | q :: l => if p.x ≤ q.x then p :: q :: l else q :: ins p l
    ins p (byInstant r)

/-- The configuration with pending commits up to an instant applied; `none` applies them all. -/
def State.cfgAt (s : State) (x : Option W64) : Cfg :=
  ((byInstant s.ctl.pend).filter fun p => match x with | some v => decide (p.x ≤ v) | none => true).foldl (fun c p => c.after p.set p.settings) s.cfg

/-! ## Pad allocations (R330, R460) -/

/-- Spans in use on a tile, in 64 KiB units, other than those of a slice. -/
def Cfg.spans (c : Cfg) (t : LTile) (but : Nat) : List (Nat × Nat) :=
  c.alloc.filterMap fun (l, n, st, sz) => if l = t ∧ n ≠ but then some (st, st + sz) else none

def spanFree (l : List (Nat × Nat)) (a b : Nat) : Bool := l.all fun x => !overlaps a b x.1 x.2

/-- The lowest free range of a size on a tile of 192 units. -/
def lowestFree (l : List (Nat × Nat)) (sz : Nat) : Option Nat := (List.range (193 - sz)).find? fun a => spanFree l a (a + sz)

/-- The highest free range. -/
def highestFree (l : List (Nat × Nat)) (sz : Nat) : Option Nat := ((List.range (193 - sz)).reverse).find? fun a => spanFree l a (a + sz)

/-- The open epoch's allocation on a tile. -/
def State.epochSpan (s : State) (t : LTile) : List (Nat × Nat) :=
  if s.ten.state = .closed then [] else match (s.tiles.get t).tenAlloc with | some (a, n) => [(a, a + n)] | none => []

/-- Every allocation of pending commits on a tile, other than a slice's own. -/
def State.pendSpans (s : State) (t : LTile) (but : Nat) : List (Nat × Nat) :=
  s.ctl.pend.flatMap fun p => p.settings.flatMap fun x => match x, p.set with
    | .alloc _ _ tiles, .slice n => if n.val = but then [] else tiles.filterMap fun (l, sz, st) => if l = t then some (st, st + sz) else none
    | _, _ => []

/-- The starts of a SLICE_ALLOC's entries: a replaced allocation keeps its start where that is free, any other one takes
the lowest free range; 256 where none is free (R460). -/
def State.placeAlloc (s : State) (n : Fin 64) (tiles : List (LTile × Nat × Nat)) : List (LTile × Nat × Nat) :=
  tiles.map fun (t, sz, _) =>
    let used := s.cfg.spans t n.val ++ s.pendSpans t n.val ++ s.epochSpan t
    let own := tfind n.val (s.tiles.get t).alloc
    match own with
    | some (st, _) => if st + sz ≤ 192 ∧ spanFree used st (st + sz) then (t, sz, st) else (t, sz, (lowestFree used sz).getD 256)
    | none => (t, sz, (lowestFree used sz).getD 256)

def State.placed (s : State) (id : SetId) (l : List Setting) : List Setting :=
  match id with
  | .slice n => l.map fun x => match x with | .alloc a b t => .alloc a b (s.placeAlloc n t) | y => y
  | _ => l

/-! ## Ports and the egress windows (R268, R276, R306, R307) -/

/-- The first lane of the port with a role and an index. -/
def State.lane (s : State) (role idx : Nat) : Option (Fin 24) :=
  (List.finRange 24).find? fun l => let v := s.rget ⟨.fhpCfg, l.val, 0⟩; decide (bits v 2 0 = role ∧ bits v 19 16 = idx ∧ bits v 12 8 = l.val)

/-- The Ethernet speed of a port in units of 400 Gbit/s. -/
def State.speed (s : State) (l : Nat) : Nat :=
  let v := s.rget ⟨.fhpCfg, l, 0⟩
  Nat.max 1 (if bit v 3 then bits v 6 4 else bits v 6 4 / 2)

/-- MAXFRAME of a port (R288). -/
def State.maxFrame (s : State) (l : Nat) : Nat :=
  let v := s.fget ⟨.fhpCtrl, l, 0⟩ 21 8
  if 1518 ≤ v ∧ v ≤ 9216 then v else 9216

/-- The cycles a frame of a cost occupies a port (R276). -/
def State.occupancy (s : State) (l cost : Nat) : Nat := ceilDiv (cost * (3072 / s.speed l)) 78125 + 1

/-- The first cycle of each symbol of a slot (R39). -/
def symStart (mu0 : Bool) (i : Nat) : Nat :=
  if mu0 then 140288 * i + (if 1 ≤ i then 1024 else 0) + (if 8 ≤ i then 1024 else 0)
  else 70144 * i + (if 1 ≤ i then 1024 else 0)

def slotLen (mu0 : Bool) : Nat := if mu0 then 1966080 else 983040

/-- Whether a CELL_STAGE payload is a mu0 cell (R458: NUM 0 is mu0). -/
def cellMu0 (p : Bytes) : Bool := fld p 5 1 % 2 = 0

/-- Spans joined where they meet; in order of their starts. -/
def joinSpans : List (Nat × Nat) → List (Nat × Nat)
  | [] => []
  | (a, b) :: r =>
    match joinSpans r with
    | (c, d) :: t => if c ≤ b then (a, Nat.max b d) :: t else (a, b) :: (c, d) :: t
    | [] => [(a, b)]

def insSpan (x : Nat × Nat) : List (Nat × Nat) → List (Nat × Nat)
  | [] => [x]
  | y :: r => if x.1 ≤ y.1 then x :: y :: r else y :: insSpan x r

/-- The spans of a period in which a plane of a cell may send: from OPEN to CLOSE cycles before each symbol (R291); the whole period
where they leave nothing of it (R278). -/
def planeSpans (mu0 : Bool) (opn cls : Nat) : List (Nat × Nat) :=
  let p := slotLen mu0
  joinSpans (((List.range 14).flatMap fun i =>
    let a := (symStart mu0 i + 2 * p - opn) % p
    let b := a + (opn - cls)
    if p ≤ opn - cls then [(0, p)] else if b ≤ p then [(a, b)] else [(a, p), (0, b - p)]).foldl (fun l x => insSpan x l) [])

/-- A group of places with the same numerology and window offsets: first and last queue. -/
structure QRun where
  mu0 : Bool
  opn : Nat
  cls : Nat
  q0 : Nat
  q1 : Nat
  deriving DecidableEq, Repr

def joinRuns : List QRun → List QRun
  | [] => []
  | x :: r => match joinRuns r with
    | y :: t => if x.mu0 = y.mu0 ∧ x.opn = y.opn ∧ x.cls = y.cls ∧ x.q1 + 1 = y.q0 then { x with q1 := y.q1 } :: t else x :: y :: t
    | [] => [x]

/-- The cells of a configuration with templates on a port, ascending. -/
def Cfg.cellsOn (c : Cfg) (fh : Nat) : List (Fin 64 × Fin 512) :=
  (List.finRange 64).flatMap fun n => (c.slices.get n).cells.filterMap fun (k, _) =>
    if c.templates.any fun (_, _, sl, b) => decide (sl = n.val ∧ tmplCell b = k ∧ tmplPort b = fh) then some (n, fin 512 k) else none

/-- What the windows of a cell's C-plane or U-plane (true) follow from: numerology, OPEN and CLOSE. -/
def Cfg.planeKey (c : Cfg) (u : Bool) (x : Fin 64 × Fin 512) : Option (Bool × Nat × Nat) :=
  (tfind x.2.val (c.slices.get x.1).cells).map fun y => (cellMu0 y.payload, fld y.payload (if u then 16 else 24) 4, fld y.payload (if u then 20 else 28) 4)

/-- A cell is placed after the last one with the same windows, or at the end. -/
def Cfg.insCell (c : Cfg) (u : Bool) (l : List (Fin 64 × Fin 512)) (x : Fin 64 × Fin 512) : List (Fin 64 × Fin 512) :=
  let like (y : Fin 64 × Fin 512) : Bool := decide (c.planeKey u y = c.planeKey u x)
  let after := (l.reverse.takeWhile fun y => !like y).length
  if l.any like then l.take (l.length - after) ++ x :: l.drop (l.length - after) else l ++ [x]

/-- The order of a port's cells in a plane after a configuration change: in commit order, those that share windows together (R306, R307;
log entry 30). -/
def Cfg.orderOf (c : Cfg) (u : Bool) (old cells : List (Fin 64 × Fin 512)) : List (Fin 64 × Fin 512) :=
  let kept := old.filter cells.contains
  (kept ++ cells.filter fun x => !kept.contains x).foldl (c.insCell u) []

/-- The runs of queues of a port's cells: C-plane queues k, U-plane queues 64 + k (R306, R307; log entry 30). -/
def Cfg.runs (c : Cfg) (p : List (Fin 64 × Fin 512) × List (Fin 64 × Fin 512)) : List QRun :=
  let of (u : Bool) (base : Nat) (l : List (Fin 64 × Fin 512)) : List QRun :=
    joinRuns (((List.range l.length).zip l).filterMap fun (k, x) => (c.planeKey u x).map fun y => ⟨y.1, y.2.1, y.2.2, base + k, base + k⟩)
  of false 0 p.1 ++ of true 64 p.2

/-- FHP_TTW values of a port's runs (R278, R307). -/
def ttwOf (l : List QRun) : List W64 :=
  l.flatMap fun r => (planeSpans r.mu0 r.opn r.cls).map fun (a, b) =>
    BitVec.ofNat 64 (a + (b - a) * 2 ^ 21 + r.mu0.toNat * 2 ^ 42 + 2 ^ 43 + 2 ^ 44 + r.q0 * 2 ^ 48 + r.q1 * 2 ^ 56)

/-- The span of a window entry within 1,966,080 cy: one or two openings (R282). -/
def ttwSpans (v : W64) : List (Nat × Nat) :=
  let a := bits v 20 0
  let n := bits v 41 21
  if bit v 42 then [(a, a + n)] else [(a, a + n), (a + 983040, a + 983040 + n)]

end Sys2Proof.Machine
end

