-- ==== Sys2Proof/Machine/TimeBase.lean ====
section
/-!
DEFINITION. The time base's commands (R34-R59): snapshots, the servo and its sources, SyncE, 1PPS and ToD.
-/
namespace Sys2Proof.Machine

/-! ## Derived fields (R39, R40) -/

/-- Symbol and cycle within it of an offset within a slot: first symbol of length `a`, symbol 7 of length `a`
at mu0, the others of length `b`. -/
def symCyc (mu0 : Bool) (r : Nat) : Nat × Nat :=
  if mu0 then
    if r < 983040 then
      if r < 141312 then (0, r) else (1 + (r - 141312) / 140288, (r - 141312) % 140288)
    else
      let q := r - 983040
      if q < 141312 then (7, q) else (8 + (q - 141312) / 140288, (q - 141312) % 140288)
  else if r < 71168 then (0, r) else (1 + (r - 71168) / 70144, (r - 71168) % 70144)

/-- ATB_SNAP_F0 or ATB_SNAP_F1 of an offset in the SFN period (R39, R41). -/
def snapFields (mu0 : Bool) (off : Nat) : W64 :=
  let sl := if mu0 then 1966080 else 983040
  let r := off % 19660800
  let slot := r / sl
  let sub := if mu0 then slot else slot / 2
  let p := symCyc mu0 (r % sl)
  BitVec.ofNat 64 (p.2 + 2 ^ 20 * p.1 + 2 ^ 24 * slot + 2 ^ 32 * sub + 2 ^ 40 * (off / 19660800) + 2 ^ 56 * (r % sl / 8192))

/-- ATB_SNAP_MF (R41). -/
def snapMf (off : Nat) : W64 := BitVec.ofNat 64 (off % 8192 + 2 ^ 16 * (off / 8192))

/-- The snapshot: the count and every derived field in one cycle (R41). -/
def snap (s : State) : State :=
  let o := s.off s.now
  ((s.rset (creg .atbSnapNow) s.now).rset (creg .atbSnapF0) (snapFields true o)
    |>.rset (creg .atbSnapF1) (snapFields false o)).rset (creg .atbSnapMf) (snapMf o)

/-- ATB_SNAP: only M0 writes it (R41); a reserved bit is recorded (R11). -/
def execAtbSnap (a : Agent) (value : W64) (s : State) : Res :=
  if a = .m0 then
    let s := if value.toNat % 2 ^ 64 ≤ 1 then s else s.regRec (creg .atbSnap)
    .next (if bit value 0 then snap s else s)
  else .next (s.regRec (creg .atbSnap))

/-! ## Servo state -/

/-- The servo states (R49), coded as ATB_STATE.STATE. -/
def stFreerun : Nat := 0
def stAcquiring : Nat := 1
def stLocked : Nat := 2
def stHoldFreq : Nat := 3
def stHold : Nat := 4

/-- ATB_STATE.STATE. -/
def State.servoState (s : State) : Nat := s.fget (creg .atbState) 2 0

/-- ATB_CTRL fields. -/
def State.tsrc (s : State) : Nat := s.fget (creg .atbCtrl) 2 0
def State.fsrc (s : State) : Nat := s.fget (creg .atbCtrl) 5 4

/-- ATB_STATE.FREQ_OK: the selected frequency source is qualified (R42, R52). -/
def State.freqOk (s : State) : Bool :=
  if s.fsrc = 1 then s.time.src.synceOk
  else if s.fsrc = 2 then s.time.src.tenMhzOk
  else s.time.src.timeOk

/-- The frequency source in use is PRC-traceable (R45). -/
def State.prcTraceable (s : State) : Bool :=
  (s.fsrc == 1 && decide (s.time.src.rxQl = .prc))
  || (s.fsrc == 0 && s.tsrc == 1 && bit (s.rget (creg .atbTod)) 19)
  || (s.fsrc == 2 && s.board.tenMhzPrc)

/-- The quality level for the servo state (R45). -/
def State.wantedQl (s : State) : Ql :=
  if s.servoState = stLocked then
    if s.prcTraceable then .prc
    else if s.fsrc = 1 then s.time.src.rxQl
    else .eec1
  else .eec1

/-- Whether a port is the one that the SyncE input's lane belongs to (R45, R268). -/
def State.isSynceInput (s : State) (p : Fin 16) : Bool :=
  let v := s.rget ⟨.fhpCfg, s.fget (creg .atbCtrl) 28 24, 0⟩
  decide (bits v 2 0 = 1 ∧ bits v 19 16 = p.val)

/-- The quality level that a port is to transmit: QL-DNU on the port of the SyncE input's lane (R45). -/
def State.portQl (s : State) (p : Fin 16) : Ql := if s.isSynceInput p then .dnu else s.wantedQl

/-- One port's part of `refreshQl`. -/
def State.refreshPort (s : State) (p : Fin 16) : State :=
  if s.board.synce.getLsbD p.val && s.portQl p != s.time.txQl.get p then
    State.emit { s with time := { s.time with txQl := s.time.txQl.set p (s.portQl p) } } (.esmc p (s.portQl p) true)
  else s

/-- A change of the quality level that a SyncE-enabled port transmits is sent at once (R45), by M0 (R54). -/
def State.refreshQl (s : State) : State :=
  if s.time.src.paused then s else (List.finRange 16).foldl (fun (s : State) (p : Fin 16) => s.refreshPort p) s

/-- HOLD_EST (R55): growth since the holdover state was entered on top of its value then. -/
def State.holdEst (s : State) : Nat :=
  let st := s.servoState
  if st = stHold ∨ st = stHoldFreq then
    let n := (s.now - s.time.servo.holdSince).toNat
    let f := if st = stHold then s.board.f0 else s.board.wander
    let a := if st = stHold then s.board.ageing else 0
    let t := 1966080000
    s.time.servo.holdBase + 196608 * (2 * f * n * t + a * n * n) / (2 * t * t * 1000 * 100000)
  else 0

/-- The correction that HOLDOVER_FREQ applies: it follows the frequency input within ±50 ppm (R35, R42). -/
def State.freqFollowed (s : State) : W64 := BitVec.ofInt 64 (sat (Config.freqInput s.fsrc s.now) (-50000000) 50000000)

/-- ATB_FREQ (R41): in HOLDOVER_FREQ the frequency loop follows its input, unless M0 is stopped (R42, R54). -/
def State.freqNow (s : State) : W64 :=
  if s.servoState = stHoldFreq ∧ !s.time.src.paused then s.freqFollowed else s.rget (creg .atbFreq)

/-- The correction in force is kept: the frequency loop stops following. -/
def State.keepFreq (s : State) : State := if s.freqNow = s.rget (creg .atbFreq) then s else s.rset (creg .atbFreq) s.freqNow

/-- The 1PPS output is driven in LOCKED and the holdover states only: it goes low elsewhere (R47, R530). -/
def State.ppsLow (s : State) : State :=
  if s.time.ppsOut && decide (s.servoState < stLocked) then State.emit { s with time := { s.time with ppsOut := false } } (.ppsOut false) else s

/-- The servo moves to a state (R49): entering a holdover state starts its clock (R55); leaving them clears
HOLD_EXCEEDED; LOCKED is remembered; ACQUIRING starts the lock count; the correction and PPS_OUT follow. -/
def State.toServo (s : State) (n : Nat) : State :=
  let est := s.holdEst
  let s := s.keepFreq
  let v := s.time.servo
  let v := if n = stHold ∨ n = stHoldFreq then { v with holdSince := s.now, holdBase := est }
    else if n = stLocked then { v with everLocked := true, outliers := 0 }
    else if n = stAcquiring then { v with lockCount := 0, first := true, outliers := 0, history := [] }
    else v
  let s : State := { s with time := { s.time with servo := v } }
  let s := s.fset (creg .atbState) 2 0 n
  (if n = stHold ∨ n = stHoldFreq then s else s.fset (creg .atbState) 9 9 0).ppsLow

/-- A CE record of a change of source (R52, codes 0x0202 and 0x0205 of R481; 0x02FF for the other time sources). -/
def State.srcRec (s : State) (code : BitVec 16) : State :=
  (s.finc (creg .atbStat) 47 32).logRec { cls := .ce, unit := 8, code := .num code }

/-- The time source is lost (R49). -/
def State.timeLost (s : State) (code : BitVec 16) : State :=
  let st := s.servoState
  let ok := s.freqOk && s.fsrc != 0
  let s := s.srcRec code
  let s : State := { s with time := { s.time with src := { s.time.src with timeOk := false, selected := none, masters := [], ppsGood := 0, ppsBad := 0 } } }
  let s := s.fset (creg .atbState) 6 4 0
  if st = stAcquiring then
    if s.time.servo.everLocked then s.toServo (if ok then stHoldFreq else stHold) else s.toServo stFreerun
  else if st = stLocked then s.toServo (if ok then stHoldFreq else stHold)
  else s

/-- The time source is qualified (R49). -/
def State.timeQualified (s : State) : State :=
  let st := s.servoState
  let s : State := { s with time := { s.time with src := { s.time.src with timeOk := true, lastSample := s.now } } }
  let s := s.fset (creg .atbState) 6 4 s.tsrc
  if st = stFreerun ∨ st = stHold ∨ st = stHoldFreq then s.toServo stAcquiring else s

/-- The frequency source is lost (R49, R52). -/
def State.freqLost (s : State) (sel : Nat) : State :=
  if s.fsrc = sel then
    let s := s.srcRec 0x0205
    if s.servoState = stHoldFreq then s.toServo stHold else s
  else s

/-- The slave port: the alternate one while ALT_IN_USE (R52). -/
def State.slavePort (s : State) : Nat :=
  if bit (s.rget (creg .atbState)) 7 then s.fget (creg .atbCtrl) 15 12 else s.fget (creg .atbCtrl) 11 8

/-- The other of the two slave ports, where ALT_EN is set. -/
def State.otherPort (s : State) : Option Nat :=
  if bit (s.rget (creg .atbCtrl)) 16 then
    some (if bit (s.rget (creg .atbState)) 7 then s.fget (creg .atbCtrl) 11 8 else s.fget (creg .atbCtrl) 15 12)
  else none

/-- A master whose Announces are not older than three of their intervals (R52). -/
def State.fresh (s : State) (m : Master) : Bool := decide ((s.now - m.last).toNat < 737280000)

/-- The better of a master and one chosen so far (R43). -/
def betterMaster (best : Option Master) (m : Master) : Option Master :=
  match best with
  | some b => if Config.bmcaBetter m.port.val m.dataSet b.port.val b.dataSet then some m else some b
  | none => some m

/-- The best master of a port: of those whose 3 Announces named an acceptable clockClass and that are still heard (R43, R49). -/
def State.bestMaster (s : State) (port : Nat) : Option Master :=
  (s.time.src.masters.filter fun m => decide (m.port.val = port ∧ 3 ≤ m.count) && s.fresh m).foldl betterMaster none

/-- The alternate port is enabled and qualified (R52). -/
def State.altMaster (s : State) : Option Master := s.otherPort.bind s.bestMaster

/-- The PTP slave port is lost: a qualified alternate port takes its place, or the time source is lost (R52). -/
def State.ptpLost (s : State) : State :=
  match s.altMaster with
  | some m =>
    let s := (s.srcRec 0x0202).fset (creg .atbState) 7 7 (if bit (s.rget (creg .atbState)) 7 then 0 else 1)
    { s with time := { s.time with
        servo := { s.time.servo with switched := true }
        src := { s.time.src with masters := s.time.src.masters.filter fun x => decide (x.port = m.port), selected := some m.sender,
                                 lastAnnounce := m.last, lastSample := s.now } } }
  | none => s.timeLost 0x0202

/-- An ATB event is armed (R50, R57, R58): an epoch end, a commit, a barrier, a self-test, or the radio windows of a committed
image, with the pre-emptions and the egress windows that follow from them. -/
def State.eventArmed (s : State) : Bool :=
  s.rget (creg .tenEnd) != 0xFFFFFFFFFFFFFFFF#64 || !s.ctl.pend.isEmpty || !s.tests.isEmpty
  || s.ctl.slices.toList.any (fun x => x.image.any fun i => !i.wins.isEmpty)
  || (List.range 16).any fun b => decide (bits (s.rget (creg .fabBarB b)) 2 0 = 1 ∨ bits (s.rget (creg .fabBarB b)) 2 0 = 2)

/-- The ATB steps by `d` (R50). Timers count cycles, which a step neither adds nor drops (R34): the instants that they
count from or to move with the count (log entry 142). -/
def State.stepBy (s : State) (d : W64) : State :=
  let v := s.time.src
  let tabs (l : Tab W64) : Tab W64 := l.map fun (k, t) => (k, t + d)
  { s with
    time := { s.time with now := s.now + d, ppsRose := s.time.ppsRose + d, badFrames := s.time.badFrames.map (fun (k, t) => (k, t + d))
                          src := { v with masters := v.masters.map (fun m => { m with last := m.last + d }), lastPps := v.lastPps.map (· + d), lastAnnounce := v.lastAnnounce + d, lastSample := v.lastSample + d
                                          lastEsmc := v.lastEsmc + d } }
    pads := s.pads.map fun p => { p with sweep := p.sweep.map (fun (g, t) => (g, t + d)), patrolAt := p.patrolAt.map (· + d), sweepFree := p.sweepFree + d, regrow := p.regrow.map fun (r, t, x) => (r, t + d, x) }
    mesh := { s.mesh with
      flits := s.mesh.flits.map fun f => { f with due := f.due + d, deadline := f.deadline.map (· + d), cross := f.cross.map fun (r, t) => (r, t + d) }
      crossings := s.mesh.crossings.map fun c => { c with nominal := c.nominal + d, sent := c.sent + d }
      xfers := s.mesh.xfers.map fun x => { x with issued := x.issued + d, base := x.base + d, next := x.next + d }
      taken := s.mesh.taken.map fun (n, t) => (n, t + d)
      flowFree := s.mesh.flowFree.map fun (f, t) => (f, t + d)
      outputs := s.mesh.outputs.map fun o => { o with closes := o.closes + d }
      links := s.mesh.links.map fun (k, l) => (k, { l with
        replayAt := l.replayAt + d, retrain := l.retrain.map (· + d), into := { upto := l.into.upto + d, tail := l.into.tail + d },
        from_ := { upto := l.from_.upto + d, tail := l.from_.tail + d } }) }
    mem := { s.mem with chans := s.mem.chans.map (fun c => { c with group := c.group + d, repair := c.repair.map fun r => { r with last := r.last + d } })
                        cache := s.mem.cache.map fun (k, e) => (k, { e with made := e.made + d }) }
    ports := s.ports.map fun (k, p) => (k, { p with freeAt := p.freeAt + d, freshAt := p.freshAt + d })
    ctl := { s.ctl with mgmtAt := s.ctl.mgmtAt.map (· + d) }
    log := { s.log with mgmtAt := s.log.mgmtAt.map (· + d) }
    radio := { s.radio with rims := s.radio.rims.map fun x => { x with clsFree := x.clsFree + d, rings := x.rings.map fun (k, l) => (k, l.map fun (u, t) => (u, t + d)) } }
    ten := { s.ten with powerAt := s.ten.powerAt + d, shedAt := s.ten.shedAt.map (· + d), clearing := s.ten.clearing.map (· + d) }
    fab := { s.fab with
      linkFree := tabs s.fab.linkFree, shownAt := tabs s.fab.shownAt, regNew := s.fab.regNew.map (fun (k, t, v) => (k, t + d, v))
      waiting := s.fab.waiting.map fun q => { q with at_ := q.at_ + d }
      heartOn := tabs s.fab.heartOn, timeBack := tabs s.fab.timeBack, heartOf := s.fab.heartOf.map (fun (k, t, b) => (k, t + d, b))
      outs := s.fab.outs.map fun o => { o with sent := o.sent.map fun (g, t) => (g, t + d) }
      gouts := s.fab.gouts.map fun o => { o with first := o.first + d, last := o.last + d }
      callBack := s.fab.callBack.map fun c => { c with at_ := c.at_ + d } }
    mbx := { s.mbx with
      slots := s.mbx.slots.map fun (k, x) => (k, { x with armed := x.armed.map (· + d) })
      rings := s.mbx.rings.map fun (k, x) => (k, { x with readAt := x.readAt.map (· + d) }) }
    cores := { s.cores with beatAt := s.cores.beatAt.map (· + d), restart := s.cores.restart.map (· + d) }
    boot := { s.boot with enAt := s.boot.enAt.map (· + d) } }

/-- The frequency loop follows the input that FSRC names, while it is qualified (R42). -/
def State.freqInputUsed (s : State) : Bool := decide (s.fsrc = 1 ∨ s.fsrc = 2) && s.freqOk

/-- The frequency that locks the clock to the reference (R35): that of the frequency input, or of the time source. -/
def State.lockFreq (s : State) (history : List Int) : Int :=
  if s.freqInputUsed then Config.freqInput s.fsrc s.now else Config.servoLock history

/-- What the loops apply before its limits: hybrid with a frequency input (R42). -/
def State.loopFreq (s : State) (bw : Nat) (history : List Int) : Int :=
  if s.freqInputUsed then Config.hybridFreq bw s.fsrc s.now history else Config.servoFreq bw history

/-- A phase sample enters the servo (R49-R51): `x` is the ATB minus the reference in 1/16 cy. -/
def State.servoSample (s : State) (cellInForce : Bool) (x : Int) : State :=
  let sv := s.rget (creg .atbServo)
  let v := s.time.servo
  let st := s.servoState
  let bw := bits sv 1 0
  let est := Config.servoFilter bw v.history            -- 2^-16 cy
  let far (d : Int) : Bool := decide ((bits sv 23 8 : Int) * 65536 < Int.natAbs d)
  let away := far (x * 4096 - est)
  let s : State := { s with time := { s.time with src := { s.time.src with lastSample := s.now } } }
  if st ≠ stAcquiring ∧ st ≠ stLocked then s
  else if v.history ≠ [] ∧ away then
    -- an outlier (R51); 64 in a row that agree within LOCK_THR (R49), or one that is the first sample on a new slave port
    -- (R52), restart the servo
    let agree := v.outliers = 0 ∨ Int.natAbs (x - v.outlierRef) ≤ 16 * bits sv 47 32
    let n := if agree then v.outliers + 1 else 1
    let r := if v.outliers = 0 ∨ !agree then x else v.outlierRef
    let s := (s.finc (creg .atbStat) 15 0).logRec { cls := .ce, unit := 8, code := .num 0x0201, limit := perX 1 0 }
    let s : State := { s with time := { s.time with servo := { v with outliers := n, outlierRef := r, lockCount := 0, switched := false } } }
    if st = stLocked ∧ (v.switched ∨ 64 ≤ n) then s.toServo stAcquiring else s
  else if st = stAcquiring ∧ v.first ∧ !cellInForce ∧ s.ten.state = .closed ∧ !s.eventArmed then
    -- the step (R50): the ATB is set to the reference
    let s := (s.fset (creg .atbState) 23 16 (Nat.min 255 (s.fget (creg .atbState) 23 16 + 1)))
    State.stepBy { s with time := { s.time with servo := { v with first := false, lockCount := 0, history := [0] } } } (BitVec.ofInt 64 (-(x / 16)))
  else
    let ok := decide (Int.natAbs x ≤ 16 * bits sv 47 32)
    let h := x :: v.history
    let lock := if ok then v.lockCount + 1 else 0
    let s : State := { s with time := { s.time with servo := { v with history := h, lockCount := lock, outliers := 0, first := false, switched := false } } }
    let slew : Int := Nat.min 50 (bits sv 31 24) * 10000
    let lf := s.lockFreq h
    let f := sat (sat (s.loopFreq bw h) (lf - slew) (lf + slew)) (-50000000) 50000000
    let s := (s.rset (creg .atbOffset) (BitVec.ofInt 64 (-(Config.servoFilter bw h)))).rset (creg .atbFreq) (BitVec.ofInt 64 f)
    if st = stAcquiring ∧ bits sv 55 48 ≤ lock then s.toServo stLocked else s

/-! ## PTP (R43, R44, R52) -/

/-- MCAST chooses the destination address (R41). -/
def State.mcast (s : State) : Bool := bit (s.rget (creg .atbCtrl)) 41

/-- Acceptable masters (R43). -/
def acceptable (c : Byte) : Bool := c == 6 || c == 7 || c == 135

/-- A message that R43 does not support or the port's role does not accept (0x0203). -/
def State.ptpReject (s : State) (p : Fin 16) : State :=
  s.logRec { cls := .ce, unit := 8, code := .num 0x0203, object := p, limit := perX 2 p }

/-- ATB_TOD from the active source (R41). -/
def State.setTod (s : State) (utc : BitVec 16) (l61 l59 tt ft : Bool) (cls : Byte) : State :=
  s.rset (creg .atbTod) (BitVec.ofNat 64 (utc.toNat + 2 ^ 16 * l61.toNat + 2 ^ 17 * l59.toNat + 2 ^ 18 * tt.toNat + 2 ^ 19 * ft.toNat + 2 ^ 24 * cls.toNat))

/-- An Announce enters the list of masters: one that is late starts its count anew (R43, R49, R52). -/
def State.heardMaster (s : State) (m : PtpMsg) (cls : Byte) (dataSet : Bytes) : State :=
  let mine (x : Master) : Bool := decide (x.port = m.port ∧ x.sender = m.sender)
  let n : Nat := match s.time.src.masters.find? mine with
    | some x => if s.fresh x then x.count else 0
    | none => 0
  let x : Master := { port := m.port, sender := m.sender, dataSet := dataSet, count := if acceptable cls then Nat.min 3 (n + 1) else 0, last := s.now }
  { s with time := { s.time with src := { s.time.src with
      masters := x :: s.time.src.masters.filter fun y => !mine y && s.fresh y
      lastAnnounce := if s.time.src.selected = some m.sender ∧ m.port.val = s.slavePort then s.now else s.time.src.lastAnnounce } } }

/-- The best master selection on the slave port: the first master qualifies the time source (R43, R49). -/
def State.selectMaster (s : State) : State :=
  match s.bestMaster s.slavePort with
  | none => s
  | some b =>
    let s : State := { s with time := { s.time with src := { s.time.src with selected := some b.sender, lastAnnounce := b.last } } }
    if s.time.src.timeOk then s else s.timeQualified

/-- ATB_TOD follows the selected master, and before one is selected every acceptable one (R41). -/
def State.todFollows (s : State) (sender : BitVec 80) : Bool := s.time.src.selected.all fun x => x == sender

/-- What M0 does with a PTP message (R43, R44, R49-R52). -/
def ptpReceive (inForce : Bool) (m : PtpMsg) (s : State) : State :=
  let slave := s.tsrc = 1 ∧ m.port.val = s.slavePort
  let other := s.tsrc = 1 ∧ s.otherPort = some m.port.val
  if m.domain.toNat ≠ s.fget (creg .atbCtrl) 39 32 then s.ptpReject m.port
  else match m.body with
  | .announce c utc l61 l59 tt ft d =>
    if slave then
      let was := decide (s.time.src.selected = some m.sender)
      let s := s.heardMaster m c d
      if acceptable c then
        let s := s.selectMaster
        if s.todFollows m.sender then s.setTod utc l61 l59 tt ft c else s
      else if was && s.time.src.timeOk then (s.setTod utc l61 l59 tt ft c).ptpLost else s
    else if other then s.heardMaster m c d
    else s.ptpReject m.port
  | .sync t1 t2 t3 t4 =>
    if slave ∧ s.time.src.timeOk ∧ s.time.src.selected = some m.sender then
      let c := s.rget ⟨.atbTscorr, 0, m.port⟩
      let t2 := t2 - bits c 15 0
      let t3 := t3 + bits c 31 16
      s.servoSample inForce (((t2 - t1) - (t4 - t3)) / 2)
    else if slave ∨ other then s
    else s.ptpReject m.port
  | .delayReq at_ =>
    if bit (s.rget (creg .atbPtpMaster)) m.port ∧ s.servoState = stLocked then
      s.emit (.delayResp m.port s.mcast (at_ - bits (s.rget ⟨.atbTscorr, 0, m.port⟩) 15 0))
    else s.ptpReject m.port
  | .unsupported => s.ptpReject m.port

/-- PTP_SOURCE_TIMEOUT (R52): no Announce for 375 ms, or no usable sample for 1 s. -/
def ptpTimedOut (s : State) : Bool :=
  decide (s.tsrc = 1) && s.time.src.timeOk && !s.time.src.paused
  && (decide (737280000 ≤ (s.now - s.time.src.lastAnnounce).toNat) || decide (1966080000 ≤ (s.now - s.time.src.lastSample).toNat))

def execPtpSourceTimeout (s : State) : Res :=
  guarded (ptpTimedOut s) (fun s => ((s.finc (creg .atbStat) 31 16).ptpLost).refreshQl) s

/-- Whether M0 may send a PTP message of a kind on a port (R43). -/
def ptpMaySend (port : Fin 16) (k : PtpTx) (s : State) : Bool :=
  match k with
  | .delayReq => decide (s.tsrc = 1) && decide (port.val = s.slavePort) && !s.time.src.paused
  | _ => bit (s.rget (creg .atbPtpMaster)) port && decide (s.servoState = stLocked) && !s.time.src.paused

/-- The egress timestamp that the PCS inserts into a master's Sync, in 1/16 cy, corrected by EGR (R43, R44). -/
def ptpStamp (port : Fin 16) (k : PtpTx) (s : State) : Option Nat :=
  match k with
  | .sync frac => some (16 * s.now.toNat + frac.val + bits (s.rget ⟨.atbTscorr, 0, port⟩) 31 16)
  | _ => none

def execPtpMessageTransmit (port : Fin 16) (k : PtpTx) (s : State) : Res :=
  guarded (ptpMaySend port k s) (fun s => s.emit (.ptp port k s.mcast (ptpStamp port k s))) s

/-! ## SyncE and the 10 MHz input (R45, R52) -/

/-- An ESMC message on the SyncE lane's port gives the received level; QL-DNU loses the source (R45, R52). -/
def esmcReceive (ql : Ql) (s : State) : State :=
  let was := s.time.src.synceOk
  let s : State := { s with time := { s.time with src := { s.time.src with rxQl := ql, lastEsmc := s.now, synceOk := decide (ql ≠ .dnu) } } }
  (if was && decide (ql = .dnu) then s.freqLost 1 else s).refreshQl

/-- A malformed ESMC message, or one with an option that is not supported, is discarded (R3; the closest case of R481). -/
def esmcReject (s : State) : State := s.logRec { cls := .ce, unit := 8, code := .num 0x02FF, limit := perX 20 0 }

def execEsmcReceive (ql : Option Ql) (s : State) : Res :=
  guarded (!s.time.src.paused) (fun s => match ql with | some q => esmcReceive q s | none => esmcReject s) s

/-- SyncE is lost (R52). -/
def synceLost (s : State) : State :=
  let s : State := { s with time := { s.time with src := { s.time.src with synceOk := false } } }
  (s.freqLost 1).refreshQl

/-- 5 s without ESMC (R52). -/
def esmcTimedOut (s : State) : Bool :=
  s.time.src.synceOk && !s.time.src.paused && decide (9830400000 ≤ (s.now - s.time.src.lastEsmc).toNat)

def execEsmcTimeout (s : State) : Res := guarded (esmcTimedOut s) synceLost s

/-- A periodic ESMC information message on a SyncE-enabled port (R45). -/
def execEsmcInfoTransmit (port : Fin 16) (s : State) : Res :=
  guarded (s.board.synce.getLsbD port && !s.time.src.paused) (fun s => s.emit (.esmc port (s.portQl port) false)) s

def execSynceLockLoss (s : State) : Res := guarded (s.time.src.synceOk && !s.time.src.paused) synceLost s

def execFreqInputOutOfWindow (s : State) : Res :=
  guarded (s.time.src.tenMhzOk && !s.time.src.paused)
    (fun s => (State.freqLost { s with time := { s.time with src := { s.time.src with tenMhzOk := false } } } 2).refreshQl) s

def execFreqInputQualified (s : State) : Res :=
  guarded (!s.time.src.tenMhzOk && !s.time.src.paused)
    (fun s =>
      let s : State := { s with time := { s.time with src := { s.time.src with tenMhzOk := true } } }
      (if s.fsrc = 2 then s.srcRec 0x0205 else s).refreshQl) s

/-! ## 1PPS and ToD (R46, R52) -/

/-- An edge without a good frame, or a missing one: the third in a row loses the source (R46, R52). -/
def State.ppsBadEdge (s : State) : State :=
  let n := s.time.src.ppsBad + 1
  let s : State := { s with time := { s.time with src := { s.time.src with
    ppsBad := n, ppsGood := 0, lastPps := if 3 ≤ n then none else s.time.src.lastPps } } }
  if 3 ≤ n ∧ s.time.src.timeOk then s.timeLost 0x02FF else s

/-- A ToD frame that is missing or bad (R46, code 0x0204). -/
def State.todError (s : State) : State :=
  (s.finc (creg .atbStat) 63 48).logRec { cls := .ce, unit := 8, code := .num 0x0204, limit := perX 3 0 }

/-- A second passes without any frame having come for its edge. -/
def State.todGap (s : State) : State :=
  let s := if s.time.src.todCame then s else s.todError
  { s with time := { s.time with src := { s.time.src with todCame := false } } }

/-- An edge comes within 2,000 cy of its predicted cycle, where one is predicted (R52). -/
def State.ppsExpected (s : State) : Bool :=
  match s.time.src.lastPps with
  | some v => let d := (s.now - v).toNat; decide (1966078000 ≤ d ∧ d ≤ 1966082000)
  | none => true

/-- An edge: it marks the TAI second that the last frame named, or SECONDS + 1 of the last good one (R46). An edge far from
its predicted cycle is none: the predicted one counts as missing (R52, log entry 143). -/
def ppsEdge (inForce : Bool) (ts16 : Nat) (s : State) : State :=
  if !s.ppsExpected then s else
  let s := s.todGap
  match s.time.src.todSeconds with
  | none => s.ppsBadEdge
  | some sec =>
    let fresh := s.time.src.todFresh
    let s : State := { s with time := { s.time with src := { s.time.src with
      todFresh := false, lastPps := some s.now, todSeconds := some (sec + 1),
      ppsGood := if fresh then s.time.src.ppsGood + 1 else 0, ppsBad := if fresh then 0 else s.time.src.ppsBad } } }
    let s := if fresh then (if 2 ≤ s.time.src.ppsGood ∧ !s.time.src.timeOk then s.timeQualified else s) else s.ppsBadEdge
    if s.time.src.timeOk then s.servoSample inForce ((ts16 : Int) - s.board.ppsIn - (sec : Int) * 1966080000 * 16) else s

/-- An expected edge missing by more than 2,000 cy (R52): the second it would have marked has passed. -/
def ppsMissing (s : State) : State :=
  let s := s.todGap
  let s : State := { s with time := { s.time with src := { s.time.src with
    todFresh := false, todSeconds := s.time.src.todSeconds.map (· + 1), lastPps := s.time.src.lastPps.map (· + 1966080000) } } }
  s.ppsBadEdge.refreshQl

/-- The predicted edge has not come 2,000 cy after its cycle. -/
def State.ppsOverdue (s : State) : Bool :=
  match s.time.src.lastPps with
  | some v => decide (1966082000 < (s.now - v).toNat)
  | none => false

def execPpsEdgeMissing (s : State) : Res := guarded (decide (s.tsrc = 2) && !s.time.src.paused && s.ppsOverdue) ppsMissing s

/-- Whether the bytes are a ToD frame with a good CRC that says it is valid (R46). -/
def todGood (f : Bytes) : Bool :=
  decide (f.length = 16) && decide (f.take 4 = [0xA5, 0x5A, 0x01, 0x0A])
  && decide ((crc16 (slice f 2 12)).toNat = beNat (slice f 14 2)) && bit (f.getD 12 0) 0

/-- A frame is complete within 950 ms of the last edge (R46). -/
def State.todInTime (s : State) : Bool :=
  match s.time.src.lastPps with
  | some v => decide ((s.now - v).toNat ≤ 1867776000)
  | none => true

/-- A ToD frame (R46): it names the next edge; one that is bad, or comes too late for it, is counted (0x0204). -/
def todFrame (f : Bytes) (s : State) : State :=
  let s : State := { s with time := { s.time with src := { s.time.src with todCame := true } } }
  if todGood f && s.todInTime then
    let fl := f.getD 12 0
    let s : State := { s with time := { s.time with src := { s.time.src with todSeconds := some (beNat (slice f 4 6)), todFresh := true } } }
    (if s.tsrc = 2 then s.setTod (BitVec.ofNat 16 (beNat (slice f 10 2))) (bit fl 1) (bit fl 2) (bit fl 3) (bit fl 3) (f.getD 13 0) else s).refreshQl
  else s.todError

def execTodFrameReceive (frame : Bytes) (s : State) : Res := guarded (!s.time.src.paused) (todFrame frame) s

/-- PPS_OUT rises at a TAI second plus the output correction, in LOCKED and the holdover states (R47). -/
def ppsDue (s : State) : Bool :=
  decide ((s.now - BitVec.ofNat 64 s.board.ppsOut).toNat % 1966080000 = 0) && decide (stLocked ≤ s.servoState)

def execPpsOutRise (s : State) : Res :=
  guarded (ppsDue s) (fun s => State.emit { s with time := { s.time with ppsOut := true, ppsRose := s.now } } (.ppsOut true)) s

/-- PPS_OUT falls 196,608,000 cy after it rose (R530). -/
def execPpsOutFall (s : State) : Res :=
  guarded (s.time.ppsOut && decide ((s.now - s.time.ppsRose).toNat = 196608000))
    (fun s => State.emit { s with time := { s.time with ppsOut := false } } (.ppsOut false)) s

end Sys2Proof.Machine
end

