-- ==== Sys2Proof/Machine/StageCheck.lean ====
section
/-!
DEFINITION. The rules that a stage set must pass (R25, R38, R53, R248, R250, R282, R307, R323, R330, R408, R419, R420) and
their violation records (R457).
-/
namespace Sys2Proof.Machine

/-! ## What a cell costs (R24, R321-R323) -/

/-- Memory frames, radio channel slots per mu1 slot and MiB of HARQ region of a CONFIG row (R321). -/
def cellFrames (cfg : Nat) : Nat := [0, 9, 4, 2, 36, 66].getD cfg 0
def cellSlots (cfg : Nat) : Nat := [0, 96, 40, 16, 256, 512].getD cfg 0
def harqMiB (cfg : Nat) : Nat := [0, 24, 10, 4, 48, 96].getD cfg 0

/-- Bytes of a PRB: 1 + 3 WMAX, or 48 in expand mode (R297). -/
def prbBytes (fact : W64) : Nat :=
  let w := if bits fact 19 16 = 0 then 16 else bits fact 19 16
  if bit fact 20 then 48 else 1 + 3 * w

/-- Record bytes and units of a stream (R297). -/
def recordBytes (fact : W64) : Nat := 64 * ceilDiv (256 + bits fact 33 25 * prbBytes fact) 64
def unitsPerRecord (fact : W64) : Nat := ceilDiv (recordBytes fact) 256

/-- The lane of fronthaul port FHn. -/
def State.fhLane (s : State) (n : Nat) : Nat := ((s.lane 1 n).map (·.val)).getD n

def State.overhead (s : State) (l : Nat) : Nat := s.fget ⟨.fhpCtrl, l, 0⟩ 5 0

/-- D_F of a port (R298). -/
def State.dF (s : State) (l : Nat) : Nat :=
  s.occupancy l (s.maxFrame l + s.overhead l) + (if bit (s.rget ⟨.fhpCfg, l, 0⟩) 3 then 161 else 225) + 32

/-- Bytes of the assembly store that a stream commits (R295). -/
def State.asmBytes (s : State) (g : StreamRegs) : Nat :=
  let sym := if bit g.fact 21 then 70144 else 140288
  recordBytes g.fact * (ceilDiv (bits g.ftime 41 21 + s.dF (s.fhLane (bits g.key 3 0))) sym + 1)

/-- The assembly store that a rim die's valid streams commit, in units of 64 bytes (RAD_ASM). -/
def State.asmUsed (s : State) (rim : Fin 4) : Nat :=
  ceilDiv (sumNat ((s.radio.rims.get rim).streams.map fun e => let g := s.streamRegs rim.val e.1; if bit g.key 34 then s.asmBytes g else 0)) 64

/-- What one cell takes of the resources of checks 1-4 of R323. Tables are by rim die, and by 2 * port + direction. -/
structure Load where
  frames : Nat := 0
  slots : Nat := 0
  n4 : Nat := 0
  nm : Nat := 0
  streams : Vector Nat 4 := Vector.replicate 4 0
  asm : Vector Nat 4 := Vector.replicate 4 0
  port : Vector Nat 32 := Vector.replicate 32 0
  deriving DecidableEq, Repr

def Load.add (a b : Load) : Load :=
  { frames := a.frames + b.frames, slots := a.slots + b.slots, n4 := a.n4 + b.n4, nm := a.nm + b.nm,
    streams := Vector.zipWith (· + ·) a.streams b.streams, asm := Vector.zipWith (· + ·) a.asm b.asm,
    port := Vector.zipWith (· + ·) a.port b.port }

/-- The streams and templates of a cell. -/
def Cfg.streamsOf (c : Cfg) (n k : Nat) : List (Fin 4 × Fin 8192 × Fin 512 × StreamRegs) :=
  c.streams.filter fun (_, _, cell, g) => decide (sliceOfFact g.fact = n) && decide (cell.val = k)
def Cfg.templatesOf (c : Cfg) (n k : Nat) : List (Fin 4 × Nat × Nat × Bytes) :=
  c.templates.filter fun (_, _, sl, b) => decide (sl = n) && decide (tmplCell b = k)

/-- Symbols of a numerology in a mu1 slot. -/
def symbolsPerSlot (mu0 : Bool) : Nat := if mu0 then 7 else 14

/-- The load of a cell: one uplink frame per data stream and symbol, one downlink frame per U-plane template and
symbol, at WMAX and with OVERHEAD, and the C-plane bytes of its templates (log entry 31). -/
def State.cellLoad (s : State) (c : Cfg) (n k : Nat) (p : Bytes) : Load :=
  let cfg := fld p 4 1
  let sy := symbolsPerSlot (cellMu0 p)
  let frame (w l : Nat) : Nat := fld p 6 2 * (1 + 3 * w) + 38 + s.overhead l
  let ss := c.streamsOf n k
  let l : Load := { frames := cellFrames cfg, slots := cellSlots cfg, n4 := if cfg = 4 ∨ cfg = 5 then 0 else 1, nm := if cfg = 4 ∨ cfg = 5 then 1 else 0 }
  let l := ss.foldl (fun l (rim, _, _, g) =>
    let fh := bits g.key 3 0
    { l with streams := vmod l.streams rim (· + 1), asm := vmod l.asm rim (· + s.asmBytes g),
             port := if bit g.key 33 then l.port else vmod l.port (fin 32 (2 * fh)) (· + sy * frame (fld p 33 1) (s.fhLane fh)) }) l
  (c.templatesOf n k).foldl (fun l (_, _, _, b) =>
    let fh := tmplPort b
    let bytes := if fld b 3 1 % 2 = 0 then sy * frame (fld p 33 1) (s.fhLane fh) else Config.cplaneBytes p b
    { l with port := vmod l.port (fin 32 (2 * fh + 1)) (· + bytes) }) l

/-- The limits of checks 1-4 that a load breaks (R25, R323): 0.9 of the port's bytes in a slot. -/
def State.loadBad (s : State) (l : Load) : List Nat :=
  [(1, decide (5760 < l.frames ∨ 512 < l.n4 ∨ 64 < l.nm)), (2, decide (49920 < l.slots)),
   (3, l.streams.toList.any (fun x => decide (8192 < x)) || l.asm.toList.any (fun x => decide (16777216 < x))),
   (4, (List.range 32).any fun i => decide (22500000 * s.speed (s.fhLane (i / 2)) < l.port.toList.getD i 0))].filterMap
    fun (k, b) => if b then some k else none

/-- Whether a cell has the same parameters, streams and templates in two configurations. -/
def sameCell (c d : Cfg) (n k : Nat) (p q : Bytes) : Bool :=
  decide (p = q) && decide (c.streamsOf n k = d.streamsOf n k) && decide (c.templatesOf n k = d.templatesOf n k)

/-- Every cell of a configuration, ascending: slice, cell, payload. -/
def Cfg.cells (c : Cfg) : List (Fin 64 × Nat × CellSt) := (List.finRange 64).flatMap fun n => (c.slices.get n).cells.map fun (k, x) => (n, k, x)

def cellIdx (n k : Nat) : Nat := 2 ^ 24 * n + k

/-- Checks 1-4 of R323: the staged cells tried one at a time. -/
def State.admission (s : State) (before after : Cfg) : List Viol :=
  let same (n : Fin 64) (k : Nat) (x : CellSt) : Bool := match tfind k (before.slices.get n).cells with
    | some y => sameCell before after n.val k y.payload x.payload
    | none => false
  let kept := after.cells.filter fun (n, k, x) => same n k x
  let start : Load := kept.foldl (fun (l : Load) (n, k, x) => l.add (s.cellLoad after n.val k x.payload)) {}
  ((after.cells.filter fun (n, k, x) => !same n k x).foldl (fun (a : Load × List Viol) (n, k, x) =>
    let l := a.1.add (s.cellLoad after n.val k x.payload)
    match s.loadBad l with
    | [] => (l, a.2)
    | bad => (a.1, a.2 ++ bad.map fun r => ⟨r, 1, 0, cellIdx n.val k⟩)) (start, [])).2

/-! ## Radio channel claims (R248) and windows (R188, R204) -/

/-- Windows of a configuration: slice, index, entry. -/
def Cfg.wins (c : Cfg) : List (Fin 64 × Nat × Bytes) :=
  (List.finRange 64).flatMap fun n => match (c.slices.get n).image with
    | none => []
    | some i => ((List.range i.wins.length).zip i.wins).map fun (k, w) => (n, k, w)

/-- The frames of a window in 240 memory frames, as spans. -/
def winSpans (w : Bytes) : List (Nat × Nat) :=
  let a := winStart w
  let b := a + winLen w
  if winPeriod w = 240 then [(a, b)] else [(a, b), (a + 120, b + 120)]

def winsShare (v w : Bytes) : Bool := (winSpans v).any fun x => (winSpans w).any fun y => overlaps x.1 x.2 y.1 y.2

/-- The radio MEMX descriptors that the windows use: slice, index, descriptor, window. -/
def Cfg.claims (c : Cfg) : List (Fin 64 × Nat × Bytes × Bytes) :=
  c.wins.flatMap fun (n, _, w) => match (c.slices.get n).image with
    | none => []
    | some i => match i.recs[winTask w]? with
      | none => []
      | some r => ((List.range i.memxs.length).zip i.memxs).filterMap fun (k, d) => if i.uses r 7 k then some (n, k, d, w) else none

/-- Two descriptors claim a common slot of a common radio group. -/
def claimClash (d e : Bytes) : Bool :=
  (mxRgrp d &&& mxRgrp e != 0) && overlaps (mxSlot0 d) (mxSlot0 d + mxM d + 1) (mxSlot0 e) (mxSlot0 e + mxM e + 1)

/-- Check 2's other half: every descriptor in a clash of R248, and every one whose rim legs have too few phases. -/
def Cfg.claimsBad (c : Cfg) (slots : List FlowSlot) : List Viol :=
  let l := c.claims
  let bad := l.filter fun (n, k, d, w) =>
    (l.any fun (m, j, e, v) => !(decide (m = n) && decide (j = k)) && claimClash d e && winsShare w v)
    || slots.any fun f => match f.flow with
      | .leg m j _ => decide (m = n ∧ j = k ∧ f.phases.length < f.rate)
      | _ => false
  (bad.map fun (n, k, _, _) => (⟨2, 6, 0, ownIdx n.val 7 k⟩ : Viol)).eraseDups

/-- Rule 8: windows that overlap on one tile; of two the one that slice `n` brings, else the one later in the tables
(log entry 54). -/
def Cfg.overlapping (c : Cfg) (n : Nat) : List (Fin 64 × Nat) :=
  let l := c.wins
  ((List.range l.length).zip l).flatMap fun (i, a, k, w) => (l.drop (i + 1)).filterMap fun (b, j, v) =>
    if winTile v = winTile w ∧ winsShare w v then some (if a.val = n ∧ b.val ≠ n then (a, k) else (b, j)) else none

/-! ## The other rules -/

/-- The order of a fronthaul port's cells in a configuration, by C-plane and by U-plane queue (R306). -/
def State.placesOf (s : State) (c : Cfg) (fh : Nat) : List (Fin 64 × Fin 512) × List (Fin 64 × Fin 512) :=
  let old := ((c.places.find? fun x => decide (x.1 = s.fhLane fh)).map (·.2)).getD ([], [])
  (c.orderOf false old.1 (c.cellsOn fh), c.orderOf true old.2 (c.cellsOn fh))

/-- The window entries of a fronthaul port in a configuration. -/
def State.portTtw (s : State) (c : Cfg) (fh : Nat) : List W64 := ttwOf (c.runs (s.placesOf c fh))

/-- Rule 5 (R282, R307): the ports whose windows or queues do not fit. -/
def State.portsBad (s : State) (c : Cfg) : List Nat :=
  (List.range 16).filter fun fh =>
    let t := s.portTtw c fh
    decide (64 < t.length) || decide (64 < (s.placesOf c fh).1.length)
    || ((List.range t.length).zip t).any fun (i, v) => ((List.range t.length).zip t).any fun (j, u) =>
        decide (i ≠ j) && (ttwSpans v).any fun x => (ttwSpans u).any fun y => overlaps x.1 x.2 y.1 y.2

/-- Rule 7: pads of each tile at most 176 units, every allocation placed, none over the open epoch's; HARQ regions within
their windows (R320, R323, R330). -/
def State.padsBad (s : State) (c : Cfg) : List Viol :=
  ((List.finRange 64).filter fun t =>
    let mine := c.alloc.filter fun (l, _) => decide (l = t)
    decide (176 < sumNat (mine.map fun (_, _, _, sz) => sz)) || mine.any (fun (_, _, st, _) => decide (192 ≤ st))
    || mine.any fun (_, _, st, sz) => (s.epochSpan t).any fun e => overlaps st (st + sz) e.1 e.2).map (fun t => (⟨7, 3, 0, t.val⟩ : Viol))
  ++ c.cells.filterMap fun (n, k, x) =>
      let p := x.payload
      let w := if fld p 56 1 % 2 = 0 then (c.slices.get n).win0 else (c.slices.get n).win1
      if w.valid ∧ w.lo + 10240 * fld p 52 4 + 1048576 * harqMiB (fld p 4 1) ≤ w.hi then none else some (⟨7, 1, 0, cellIdx n.val k⟩ : Viol)

/-- The DRAM windows of a slice. -/
def SliceSt.wins (x : SliceSt) : List DWin := [x.win0, x.win1]

def winsMeet (a b : List DWin) : Bool := a.any fun x => b.any fun y => x.meets y

/-- The open epoch's windows. -/
def State.epochWins (s : State) : List DWin := if s.ten.state = .closed then [] else [s.ten.cfg.win0, s.ten.cfg.win1]

/-- Slices in force. -/
def Cfg.live (c : Cfg) : List (Fin 64) := (List.finRange 64).filter fun n => decide ((c.slices.get n).st = .serving ∨ (c.slices.get n).st = .deleting)

/-- Whether two ranges of `n` from a start share a number. -/
def rangesMeet (a n b m : Nat) : Bool := overlaps a (a + n) b (b + m)

/-- Whether windows cover memory under scrub (R264). -/
def State.scrubMeets (s : State) (l : List DWin) : Bool :=
  match s.mem.scrub with
  | some (ws, _) => l.any fun x => x.valid && ws.any fun w => overlaps x.lo x.hi (64 * w.1) (64 * (w.1 + w.2))
  | none => false

/-- Rule 11: the slices whose windows overlap those of another owner (R250), or are allocated over memory under scrub (R264). -/
def State.dramBad (s : State) (c : Cfg) : List Viol :=
  c.live.filterMap fun n =>
    let w := (c.slices.get n).wins
    if winsMeet s.epochWins w || (decide (w ≠ (s.ctl.slices.get n).wins) && s.scrubMeets w) || c.live.any (fun m => decide (m ≠ n) && winsMeet (c.slices.get m).wins w) then some ⟨11, 2, 0, n.val⟩ else none

/-- Rule 15: a slice whose PASID or ranges are another owner's, or leave the pool (R414). -/
def State.rangesBad (s : State) (c : Cfg) (n : Fin 64) : List Viol :=
  let x := c.slices.get n
  let clash (p : BitVec 20) (s0 ns v0 nv : Nat) : Bool := decide (p = x.pasid) || rangesMeet s0 ns x.slot0 x.nslot || rangesMeet v0 nv x.vec0 x.nvec
  let e := s.ten.cfg
  let bad := c.live.any (fun m => let y := c.slices.get m; decide (m ≠ n) && clash y.pasid y.slot0 y.nslot y.vec0 y.nvec)
    || decide (s.mbx.mgrPasid = some x.pasid) || decide (256 < x.slot0 + x.nslot) || decide (2048 < x.vec0 + x.nvec)
    || rangesMeet (s.vectors .manager).1 (s.vectors .manager).2 x.vec0 x.nvec
    || (decide (s.ten.state ≠ .closed) && clash e.pasid e.slot0 e.nslot e.vec0 e.nvec)
  if x.st ≠ .free ∧ bad then [⟨15, 2, 0, n.val⟩] else []

/-- Rule 12 (R408): cells whose peer receives too many context bytes in a slot. -/
def Cfg.mirrorBad (c : Cfg) : List Viol :=
  let l := c.cells.filterMap fun (n, k, x) => x.standby.map fun sb => (n, k, sb)
  l.filterMap fun (n, k, sb) =>
    if 7864320 < sumNat ((l.filter fun (_, _, z) => decide (z.peer = sb.peer)).map fun (_, _, z) => z.ctxLen) then some ⟨12, 1, 0, cellIdx n.val k⟩ else none

/-- Rule 13 (R38, R53): cells made active outside LOCKED; a frame offset changed with a cell in force or an epoch open. -/
def State.timeBad (s : State) (before after : Cfg) : List Viol :=
  let activated := after.cells.any fun (n, k, x) => x.st == 1 && (match tfind k (before.slices.get n).cells with | some y => y.st != 1 | none => true)
  (if activated && s.servoState != stLocked && !bit (s.rget (creg .atbCtrl)) 40 then [⟨13, 14, 0, s.servoState⟩] else [])
  ++ (if after.frameOff ≠ before.frameOff then
        (before.cells.map fun (n, k, _) => (⟨13, 1, 0, cellIdx n.val k⟩ : Viol))
        ++ (if s.ten.state = .closed then [] else [⟨13, 13, 0, s.ten.tag⟩])
      else [])

/-- Rule 14: settings that reach beyond the slice's own cells, tiles, streams and templates (R417). -/
def Cfg.foreign (before after : Cfg) (n : Fin 64) (l : List Setting) : List Viol :=
  let x := after.slices.get n
  let own (k : Nat) : Bool := (tfind k x.cells).isSome
  let tile (t : Nat) : Bool := after.alloc.any fun (l, m, _, _) => decide (l.val = t ∧ m = n.val)
  l.flatMap fun y => match y with
    | .cellState k st => if own k.val ∨ st = 0 ∧ (tfind k.val (before.slices.get n).cells).isSome then [] else [⟨14, 1, 0, cellIdx n.val k.val⟩]
    | .standby k _ => if own k.val then [] else [⟨14, 1, 0, cellIdx n.val k.val⟩]
    | .stream cell rim f g =>
      let taken := before.streams.any fun (r, i, _, h) => decide (r = rim ∧ i = f ∧ sliceOfFact h.fact ≠ n.val)
      let key := before.streams.any fun (_, _, _, h) => decide (h.key &&& 0x1FFFFFFFF#64 = g.key &&& 0x1FFFFFFFF#64 ∧ sliceOfFact h.fact ≠ n.val)
      let zone := after.streams.any fun (r, _, _, h) => decide (bits h.fact 9 0 = bits g.fact 9 0)
        && (decide (sliceOfFact h.fact ≠ n.val ∨ r ≠ rim ∨ bits h.fact 21 21 ≠ bits g.fact 21 21 ∨ bits h.ftime 41 21 ≠ bits g.ftime 41 21))
      if own cell.val && tile (bits g.fact 5 0) && !taken && !key && !zone then [] else [⟨14, 8, 0, 8192 * rim.val + f.val⟩]
    | .template rim m b =>
      if own (tmplCell b) && !(before.templates.any fun (r, i, sl, _) => decide (r = rim ∧ i = m ∧ sl ≠ n.val)) then []
      else [⟨14, 9, 0, 4096 * rim.val + m⟩]
    | .image i _ =>
      (((List.range i.wins.length).zip i.wins).filterMap fun (k, w) => if tile (winTile w) then none else some (⟨14, 7, 0, ownIdx n.val 0 k⟩ : Viol))
      ++ ((List.range i.recs.length).zip i.recs).filterMap fun (k, r) =>
        if recTenant r || after.alloc.any fun (l, m, _, sz) => decide (l.val = recTile r ∧ m = n.val ∧ recBound r ≤ 65536 * sz) then none
        else some (⟨14, 6, 0, ownIdx n.val 1 k⟩ : Viol)
    | _ => []

/-- The number of a set in violation records and payloads (R455, R457). -/
def SetId.num : SetId → Nat
  | .slice n => n.val | .device => 255 | .action _ => 254

/-- Rules 17 and 18 for tile swaps and role moves: the spare is free, and no pending commit takes it. -/
def State.swapsBad (s : State) (id : SetId) (before : Cfg) (l : List Setting) : List Viol :=
  (l.flatMap fun y => match y with
    | .tileSwap t p =>
      (if (s.pads.get p).stat = .spare ∧ !before.map.contains p ∧ !(s.tests.any fun x => decide (x.kind ≠ 3 ∧ x.target = p.val)) then [] else [(⟨17, 3, 0, 256 + p.val⟩ : Viol)])
      ++ (if (s.pad t).stat = .service then [] else [⟨17, 3, 0, t.val⟩])
    | _ => [])
  ++ (if 1 < (l.filter fun y => match y with | .tileSwap _ _ => true | _ => false).length
         ∨ 1 < (l.filter fun y => match y with | .roleMove _ _ => true | _ => false).length then [⟨18, 12, 0, id.num⟩] else [])

/-- Rule 19 (R204, R282, R420). -/
def State.instantBad (s : State) (id : SetId) (before after : Cfg) (x : W64) : List Viol :=
  (if s.slotStart x then [] else [⟨19, 12, 0, id.num⟩])
  ++ (if s.slot0Start x then [] else
    let long (c : Cfg) : List (Fin 64 × Nat × Bytes) := c.wins.filter fun (_, _, w) => decide (winPeriod w = 240)
    let diff := ((long after).filter fun w => !(long before).contains w) ++ (long before).filter fun w => !(long after).contains w
    ((diff.map fun (n, k, _) => (⟨19, 7, 0, ownIdx n.val 0 k⟩ : Viol)).eraseDups)
    ++ (List.range 16).filterMap fun fh =>
        let m (c : Cfg) : List W64 := (s.portTtw c fh).filter fun v => bit v 42
        if m before = m after then none else some (⟨19, 4, 0, fh⟩ : Viol))

/-- The slices whose ranges and resources a set can change. -/
def setSlices (id : SetId) : List (Fin 64) := match id with | .slice n => [n] | _ => []

/-- Violations in the order of their codes, kinds, indices and items, each once (log entry 54). -/
def Viol.before (a b : Viol) : Bool :=
  let key (v : Viol) : Nat := ((v.code * 256 + v.kind) * 2 ^ 32 + v.index) * 256 + v.item
  decide (key a < key b)

def addViol (v : Viol) : List Viol → List Viol
  | [] => [v]
  | w :: r => if w = v then w :: r else if v.before w then v :: w :: r else w :: addViol v r

def sortViols (l : List Viol) : List Viol := l.foldl (fun a v => addViol v a) []

/-- The record of a failed item of R188 (R457): a descriptor is KIND 6, a window KIND 7, anything else KIND 11. -/
def itemViol (item owner ty k : Nat) : Viol :=
  if ty = 8 then ⟨9, 7, item, ownIdx owner 0 k⟩ else ⟨9, if 4 ≤ ty ∧ ty ≤ 7 then 6 else 11, item, ownIdx owner ty k⟩

/-- Every violation of R419 of a set whose settings are applied to a configuration; `x` is the instant, where one is named. -/
def State.violations (s : State) (id : SetId) (l : List Setting) (before : Cfg) (x : Option W64) : List Viol :=
  let after := before.after id l
  let links := slotsBad after.map after.slots
  let imgs := l.filterMap fun y => match y with | .image i b => some (i, b) | _ => none
  let n := setSlice id
  let deleted := l.any fun y => match y with | .delete => true | _ => false
  sortViols (s.admission before after ++ after.claimsBad after.slots
  ++ ((s.portsBad after).map fun p => ⟨5, 4, 0, p⟩)
  ++ (links.map fun k => ⟨6, 5, 0, k⟩)
  ++ s.padsBad after
  ++ ((after.overlapping n.val).map fun (m, k) => ⟨8, 7, 0, ownIdx m.val 0 k⟩)
  ++ (imgs.flatMap fun (_, bad) =>
      (bad.map fun (item, ty, k) => itemViol item n.val ty k)
      ++ bad.filterMap fun (item, ty, k) => if item = 3 ∧ ty = 7 then some ⟨10, 6, 0, ownIdx n.val 7 k⟩ else none)
  ++ s.dramBad after
  ++ ((setSlices id).flatMap fun m => s.rangesBad after m)
  ++ after.mirrorBad
  ++ s.timeBad before after
  ++ ((setSlices id).flatMap fun m => before.foreign after m l)
  ++ (if deleted ∧ (after.slices.get n).cells ≠ [] then [⟨16, 2, 0, n.val⟩] else [])
  ++ s.swapsBad id before l
  ++ (match x with | some v => s.instantBad id before after v | none => []))

/-- The violations of a pending commit, given what precedes it. -/
def State.pendBad (s : State) (before : Cfg) (p : Pending) : List Viol := s.violations p.set p.settings before (some p.x)

/-- The pending commits with an instant after `x` that an added set makes fail, in order of instant (R420, R422): each is
judged over the configuration that those before it leave, with and without the set. -/
def State.dependents (s : State) (id : SetId) (l : List Setting) (x : W64) : List Pending :=
  let base := s.cfgAt (some x)
  let later := (byInstant s.ctl.pend).filter fun p => decide (x < p.x)
  (later.foldl (fun (a : Cfg × Cfg × List Pending) p =>
    let (c0, c1, l) := a
    let worse := s.pendBad c0 p = [] && s.pendBad c1 p != []
    (c0.after p.set p.settings, c1.after p.set p.settings, if worse then enq l p else l)) (base, base.after id l, [])).2.2

/-- Whether a set changes the tile map, the slot table, or a window, image, flow, MEMX descriptor or cell other than by a
mute or an unmute (R420). -/
def movesWindows (before after : Cfg) : Bool :=
  let cells (c : Cfg) : List (Nat × Nat × Bytes) := c.cells.map fun (n, k, x) => (n.val, k, x.payload)
  let images (c : Cfg) : List (Option Image) := c.slices.toList.map (·.image)
  decide (before.map ≠ after.map) || decide (before.slots ≠ after.slots)
  || decide (images before ≠ images after) || decide (cells before ≠ cells after)

/-- Whether a window of a configuration holds both cycles of the pair around `x`. -/
def State.windowAcross (s : State) (c : Cfg) (x : W64) : Bool :=
  let f := s.off x / 8192
  c.wins.any fun (_, _, w) => let r := f % winPeriod w; decide (winStart w < r ∧ r < winStart w + winLen w)

/-- The outcome of evaluating a commit request (R420): status and payload of the first condition that fails. -/
def State.judge (s : State) (id : SetId) (l : List Setting) (x : W64) : Option (Nat × Bytes) :=
  let before := s.cfgAt (some x)
  let after := before.after id l
  let v := s.violations id l before (some x)
  if x ≤ s.now then some (stInstantPassed, [])
  else if v ≠ [] then some (stCheckFailed, violBytes v)
  else if x < s.now + 3932160 then some (stTooSoon, [])
  else match s.dependents id l x with
    | p :: _ => some (stDependent, leBytes 8 p.set.num ++ leBytes 8 p.x.toNat)
    | [] =>
      if movesWindows before after ∧ (s.windowAcross (s.cfgAt (some (x - 1))) x ∨ s.windowAcross after x) then some (stInWindow, [])
      else none

end Sys2Proof.Machine
end

