-- ==== Sys2Proof/Machine/Staging.lean ====
section
/-!
DEFINITION. The messages of families 2, 3 (staging) and 4 (R416-R425, R454, R455, R458-R460): what they put into stage
sets, and how a commit is requested, withdrawn and read.
-/
namespace Sys2Proof.Machine

/-! ## Stage sets (R418) -/

/-- The pending commit of a set. -/
def State.pendOf (s : State) (id : SetId) : Option Pending := s.ctl.pend.find? fun p => decide (p.set = id)

/-- The settings of a set. -/
def State.stagedOf (s : State) : SetId → List Setting
  | .slice n => s.ctl.staged.get n
  | .device => s.ctl.device
  | .action _ => []

def State.setStaged (s : State) (id : SetId) (l : List Setting) : State :=
  match id with
  | .slice n => { s with ctl := { s.ctl with staged := s.ctl.staged.set n l } }
  | .device => { s with ctl := { s.ctl with device := l } }
  | .action _ => s

/-- Whether two settings set the same thing, so that the later one stands. -/
def sameThing (a b : Setting) : Bool :=
  match a, b with
  | .create .., .create .. => true
  | .alloc .., .alloc .. => true
  | .delete, .delete => true
  | .cell n _, .cell m _ => n == m
  | .cellState n _, .cellState m _ => n == m
  | .stream _ r f _, .stream _ q g _ => r == q && f == g
  | .template r n _, .template q m _ => r == q && n == m
  | .image .., .image .. => true
  | .standby n _, .standby m _ => n == m
  | .tileSwap t _, .tileSwap u _ => t == u
  | .frameOffset _, .frameOffset _ => true
  | .roleMove r _, .roleMove q _ => r == q
  | _, _ => false

def stageOne (l : List Setting) (x : Setting) : List Setting := enq (l.filter fun y => !sameThing y x) x

/-- Settings staged into a set that no pending commit locks, and the reply. -/
def State.stageInto (s : State) (m : Msg) (id : SetId) (xs : List Setting) : State :=
  if (s.pendOf id).isSome then s.reply m stStageLocked
  else (s.setStaged id (xs.foldl stageOne (s.stagedOf id))).reply m stOk

/-- A message of a slice that must exist (R417, R454). -/
def onSlice (m : Msg) (n : Nat) (f : Fin 64 → State → State) (s : State) : State :=
  let k : Fin 64 := fin 64 n
  if (s.ctl.slices.get k).st = .free then s.reply m stBadState else f k s

def State.sliceState (s : State) (n : Fin 64) (x : SliceState) : State :=
  { s with ctl := { s.ctl with slices := vmod s.ctl.slices n fun y => { y with st := x } } }

/-! ## Slices (R414-R417) -/

def sliceCreate (m : Msg) (s : State) : State :=
  let p := m.payload
  let n : Fin 64 := fin 64 (fld p 0 1)
  let x : Setting := .create (BitVec.ofNat 20 (fld p 4 4)) (fld p 8 2) (fld p 10 2) (fld p 12 2) (fld p 14 2)
  match (s.ctl.slices.get n).st with
  | .serving => s.reply m stBadState
  | .deleting => s.reply m stBadState
  | .staged => s.stageInto m (.slice n) [x]
  | .free => if s.sweeping n.val then s.reply m stBusy else (s.sliceState n .staged).stageInto m (.slice n) [x]

def execSliceCreate (slot : SlotId) (s : State) : Res := unitMessage 0x0201 slot (fun _ => true) sliceCreate s

/-- A window of a payload, in units of 327,680 bytes; BOUND 0 is none (R251, R460). -/
def winOf (p : Bytes) (off : Nat) : DWin := { base := fld p off 4, bound := fld p (off + 4) 4, valid := decide (fld p (off + 4) 4 ≠ 0) }

def sliceAlloc (m : Msg) (s : State) : State :=
  let p := m.payload
  onSlice m (fld p 0 1) (fun n s =>
    let tiles : List (LTile × Nat × Nat) := (List.range (fld p 1 1)).map fun i => (fin 64 (fld p (32 + 8 * i) 1), fld p (34 + 8 * i) 2, 0)
    let last := tiles.foldl (fun (l : List (LTile × Nat × Nat)) x => enq (l.filter fun y => decide (y.1 ≠ x.1)) x) []
    s.stageInto m (.slice n) [.alloc (winOf p 8) (winOf p 16) last]) s

def execSliceAlloc (slot : SlotId) (s : State) : Res := unitMessage 0x0202 slot (fun _ => true) sliceAlloc s

def sliceDelete (m : Msg) (s : State) : State :=
  onSlice m (fld m.payload 0 4) (fun n s =>
    if (s.ctl.slices.get n).st = .staged then s.reply m stBadState
    else if (s.pendOf (.slice n)).isSome then s.reply m stStageLocked
    else (s.sliceState n .deleting).stageInto m (.slice n) [.delete]) s

def execSliceDelete (slot : SlotId) (s : State) : Res := unitMessage 0x0203 slot (fun _ => true) sliceDelete s

def sliceStatus (m : Msg) (s : State) : State :=
  let n : Fin 64 := fin 64 (fld m.payload 0 4)
  let y := s.ctl.slices.get n
  let x := (s.pendOf (.slice n)).elim 0 (·.x.toNat)
  let st := match y.st with | .free => 0 | .staged => 1 | .serving => 2 | .deleting => 3
  let made := match y.st, (s.ctl.staged.get n).find? (fun z => sameThing z (.create 0 0 0 0 0)) with
    | .staged, some (.create p a b c d) => (p.toNat, a, b, c, d)
    | _, _ => (y.pasid.toNat, y.slot0, y.nslot, y.vec0, y.nvec)
  let (p, a, b, c, d) := made
  s.reply m stOk 0 (leBytes 1 st ++ leBytes 7 0 ++ leBytes 8 x ++ leBytes 4 p ++ leBytes 2 a ++ leBytes 2 b ++ leBytes 2 c ++ leBytes 2 d
    ++ leBytes 4 y.cells.length)

def execSliceStatus (slot : SlotId) (s : State) : Res := message 0x0204 slot sliceStatus s

/-! ## Cells, streams, templates, images, standbys (R291, R324, R455, R458, R459) -/

def cellStage (m : Msg) (s : State) : State :=
  onSlice m (fld m.payload 0 1) (fun n s => s.stageInto m (.slice n) [.cell (fin 512 (fld m.payload 2 2)) m.payload]) s

def execCellStage (slot : SlotId) (s : State) : Res := unitMessage 0x0301 slot (fun _ => true) cellStage s

def cellState (m : Msg) (s : State) : State :=
  onSlice m (fld m.payload 0 1) (fun n s =>
    s.stageInto m (.slice n) [.cellState (fin 512 (fld m.payload 2 2)) (fin 3 (fld m.payload 1 1))]) s

def execCellState (slot : SlotId) (s : State) : Res := message 0x0302 slot cellState s

/-- The rim die of fronthaul port FHn (R266-R268). -/
def State.rimOfFh (s : State) (n : Nat) : Fin 4 := fin 4 (s.fhLane n / 6)

/-- The key of a stream: port, tag, VID and eAxC (R292). -/
def streamKey (v : W64) : Nat := bits v 32 0

/-- The streams of every stage set and pending commit on a rim die. -/
def State.stagedStreams (s : State) (rim : Fin 4) : List (Fin 8192 × StreamRegs) :=
  (s.ctl.staged.toList.flatten ++ s.ctl.pend.flatMap (·.settings)).filterMap fun x => match x with
    | .stream _ r f g => if r = rim then some (f, g) else none
    | _ => none

/-- The table entry for a stream: the one with its key, else the lowest that nothing uses. -/
def State.streamIndex (s : State) (rim : Fin 4) (taken : List (Fin 8192 × StreamRegs)) (g : StreamRegs) : Option (Fin 8192) :=
  let now : List (Fin 8192 × StreamRegs) := s.cfg.streams.filterMap fun (r, f, _, h) => if r = rim then some (f, h) else none
  let all := taken ++ s.stagedStreams rim ++ now
  match all.find? fun x => decide (streamKey x.2.key = streamKey g.key) with
  | some x => some x.1
  | none => (List.finRange 8192).find? fun f => !all.any fun x => decide (x.1 = f)

def streamStage (m : Msg) (s : State) : State :=
  let p := m.payload
  onSlice m (fld p 0 1) (fun n s =>
    let cell : Fin 512 := fin 512 (fld p 2 2)
    let r := (List.range (fld p 4 2)).foldl (fun (a : Option (List Setting)) i => a.bind fun l =>
      let o := 8 + 32 * i
      let g : StreamRegs := ⟨BitVec.ofNat 64 (fld p o 8), BitVec.ofNat 64 (fld p (o + 8) 8), BitVec.ofNat 64 (fld p (o + 16) 8), BitVec.ofNat 64 (fld p (o + 24) 8)⟩
      let rim := s.rimOfFh (bits g.key 3 0)
      let taken := l.filterMap fun x => match x with | .stream _ q f h => if q = rim then some (f, h) else none | _ => none
      (s.streamIndex rim taken g).map fun f => stageOne l (.stream cell rim f g)) (some [])
    match r with
    | none => if (s.pendOf (.slice n)).isSome then s.reply m stStageLocked else s.reply m stNoResource
    | some l => s.stageInto m (.slice n) l) s

def execStreamStage (slot : SlotId) (s : State) : Res := unitMessage 0x0303 slot (fun _ => true) streamStage s

def templateStage (m : Msg) (s : State) : State :=
  let p := m.payload
  onSlice m (fld p 0 1) (fun n s =>
    s.stageInto m (.slice n) ((List.range (fld p 2 2)).map fun i =>
      let b := slice p (8 + 32 * i) 32
      .template (s.rimOfFh (tmplPort b)) (fld b 0 2) b)) s

def execTemplateStage (slot : SlotId) (s : State) : Res := unitMessage 0x0304 slot (fun _ => true) templateStage s

/-- The bytes of an image buffer: an image ends at its header's LENGTH (R214, R454). -/
def imageBytes (buffer : Bytes) (len : Nat) : Bytes :=
  let b := buffer.take len
  let n := fld b 8 4
  if 128 ≤ n ∧ n ≤ b.length ∧ n % 64 = 0 then b.take n else b

def imageStage (buffer : Bytes) (m : Msg) (s : State) : State :=
  onSlice m (fld m.payload 0 1) (fun n s =>
    let b := imageBytes buffer (fld m.payload 16 4)
    let bad := imageBad b false false
    let img : Image := if bad.contains (1, 0, 12) then {} else imageOfBytes b
    s.stageInto m (.slice n) [.image img bad]) s

def execImageStage (slot : SlotId) (buffer : Bytes) (s : State) : Res := unitMessage 0x0305 slot (fun _ => true) (imageStage buffer) s

def standbyStage (m : Msg) (s : State) : State :=
  let p := m.payload
  onSlice m (fld p 0 1) (fun n s =>
    let sb : Standby := ⟨fin 8 (fld p 1 1), fin 64 (fld p 4 1), fld p 8 8, fld p 16 4, fld p 24 8⟩
    s.stageInto m (.slice n) [.standby (fin 512 (fld p 2 2)) (if sb.ctxLen = 0 then none else some sb)]) s

def execStandbyStage (slot : SlotId) (s : State) : Res := unitMessage 0x0306 slot (fun _ => true) standbyStage s

/-- SHED_ORDER (R346): the manager's order replaces the old one at once. -/
def shedOrder (m : Msg) (s : State) : State :=
  let p := m.payload
  let l : List (Fin 64 × Fin 512) := (List.range (fld p 0 2)).map fun i => (fin 64 (fld p (8 + 4 * i) 1), fin 512 (fld p (10 + 4 * i) 2))
  State.reply { s with mbx := { s.mbx with shedOrder := l } } m stOk

def execShedOrder (slot : SlotId) (s : State) : Res := unitMessage 0x0307 slot (fun _ => true) shedOrder s

/-- CELL_STATS: the eight counts since the last one, then zeros. The PRACH detections are the radio libraries' (R317, R318),
and nothing says how they reach the part: their count is a free value (log entry 85). -/
def cellStats (m : Msg) (s : State) : State :=
  let n : Fin 64 := fin 64 (fld m.payload 0 1)
  let k := fld m.payload 2 2
  match tfind k (s.ctl.slices.get n).cells with
  | none => s.reply m stBadState
  | some c =>
    let d := s.draw
    let s := d.2
    let s : State := { s with ctl := { s.ctl with slices := vmod s.ctl.slices n fun y => { y with cells := tput k { c with stats := Vector.replicate 8 0 } y.cells } } }
    s.reply m stOk 0 ((c.stats.set 6 (Config.freeBits 32 d.1).toNat).toList.flatMap fun v => leBytes 4 v)

def execCellStats (slot : SlotId) (s : State) : Res := message 0x0309 slot cellStats s

/-- The device stage set (R37, R38, R426). -/
def deviceStageTileSwap (m : Msg) (s : State) : State :=
  s.stageInto m .device [.tileSwap (fin 64 (fld m.payload 1 1)) (fin 68 (fld m.payload 2 1))]

def deviceStageFrameOffset (m : Msg) (s : State) : State :=
  s.stageInto m .device [.frameOffset (sbits (BitVec.ofNat 64 (fld m.payload 8 5)) 39 0)]

def execDeviceStageTileSwap (slot : SlotId) (s : State) : Res :=
  unitMessage 0x0406 slot (fun m => fld m.payload 0 1 == 1) deviceStageTileSwap s
def execDeviceStageFrameOffset (slot : SlotId) (s : State) : Res :=
  unitMessage 0x0406 slot (fun m => fld m.payload 0 1 == 2) deviceStageFrameOffset s

/-! ## Checks and commits (R419-R425) -/

/-- The set that a payload names (R455). -/
def setOf (n : Nat) : SetId := if h : n < 64 then .slice ⟨n, h⟩ else .device

/-- The configuration that every pending commit but one leads to. -/
def State.cfgBut (s : State) (id : SetId) : Cfg :=
  ((byInstant s.ctl.pend).filter fun p => decide (p.set ≠ id)).foldl (fun c p => c.after p.set p.settings) s.cfg

def stageCheck (m : Msg) (s : State) : State :=
  let id := setOf (fld m.payload 0 4)
  let v := s.violations id (s.placed id (s.stagedOf id)) (s.cfgBut id) none
  s.reply m (if v = [] then stOk else stCheckFailed) 0 (violBytes v)

def execStageCheck (slot : SlotId) (s : State) : Res := unitMessage 0x0401 slot (fun _ => true) stageCheck s

/-- Commits other than those of the action stage set. -/
def State.hostPend (s : State) : List Pending := s.ctl.pend.filter fun p => match p.set with | .action _ => false | _ => true

/-- The slot tables and tile maps that the pending commits bring, in the order of their instants (R192, R361). -/
def State.retable (s : State) : State :=
  let l := (byInstant s.ctl.pend).foldl (fun (x : Cfg × List (W64 × List FlowSlot × Vector PTile 64)) p =>
    let c := x.1.after p.set p.settings
    (c, enq x.2 (p.x, c.slots, c.map))) (s.cfg, [])
  { s with mesh := { s.mesh with soon := l.2 } }

/-- A commit accepted in this cycle (R420); the copy of a tile swap begins, with R159 applied to the spare (R427). -/
def State.accept (s : State) (id : SetId) (x : W64) (l : List Setting) : State :=
  let s : State := State.retable { s with ctl := { s.ctl with pend := enq s.ctl.pend ⟨id, x, s.now, l⟩ } }
  l.foldl (fun (s : State) y => match y with
    | .tileSwap t p =>
      let s := s.modPad p (·.mapRows fun _ r => { r with tag := 0x7F, poison := false, flips := 0 })
      { s with ctl := { s.ctl with swap := some (t, s.ptile t, p, 0) } }
    | _ => s) s

def stageCommit (m : Msg) (s : State) : State :=
  let id := setOf (fld m.payload 0 1)
  let x := BitVec.ofNat 64 (fld m.payload 8 8)
  if (s.pendOf id).isSome then s.reply m stStageLocked
  else if s.stagedOf id = [] then s.reply m stBadState
  else if 16 ≤ s.hostPend.length then s.reply m stNoResource
  else
    let l := s.placed id (s.stagedOf id)
    match s.judge id l x with
    | some (st, b) => s.reply m st 0 b
    | none => (s.accept id x l).reply m stOk 0 (leBytes 8 s.now.toNat ++ leBytes 8 x.toNat)

def execStageCommit (slot : SlotId) (s : State) : Res := unitMessage 0x0402 slot (fun _ => true) stageCommit s

/-- The pending commits that pass only with the withdrawn one in place (R425). -/
def State.leansOn (s : State) (w : Pending) : List Pending :=
  ((byInstant s.ctl.pend).foldl (fun (a : Cfg × Cfg × List Pending) p =>
    let (c0, c1, l) := a
    if p = w then (c0.after p.set p.settings, c1, l)
    else
      let worse := s.pendBad c0 p = [] && s.pendBad c1 p != []
      (c0.after p.set p.settings, c1.after p.set p.settings, if worse then enq l p else l)) (s.cfg, s.cfg, [])).2.2

/-- A pending commit withdrawn: its stage set is left as it is. -/
def State.withdraw (s : State) (w : Pending) : State :=
  let swaps := w.settings.any fun y => match y with | .tileSwap _ _ => true | _ => false
  State.retable { s with ctl := { s.ctl with pend := s.ctl.pend.filter fun p => decide (p ≠ w), swap := if swaps then none else s.ctl.swap } }

/-- STAGE_CANCEL (R425): refused from X - 1,966,080 on. -/
def stageCancel (m : Msg) (s : State) : State :=
  match s.pendOf (setOf (fld m.payload 0 4)) with
  | none => s.reply m stBadState
  | some w =>
    if w.x ≤ s.now + 1966080 then s.reply m stTooLate
    else match s.leansOn w with
      | p :: _ => s.reply m stDependent 0 (leBytes 8 p.set.num ++ leBytes 8 p.x.toNat)
      | [] => (s.withdraw w).reply m stOk

def execStageCancel (slot : SlotId) (s : State) : Res := unitMessage 0x0403 slot (fun _ => true) stageCancel s

/-- STAGE_CLEAR (R417, R418). -/
def stageClear (m : Msg) (s : State) : State :=
  let id := setOf (fld m.payload 0 4)
  if (s.pendOf id).isSome then s.reply m stStageLocked
  else
    let s := s.setStaged id []
    let s := match id with
      | .slice n => match (s.ctl.slices.get n).st with
        | .staged => s.sliceState n .free
        | .deleting => s.sliceState n .serving
        | _ => s
      | _ => s
    s.reply m stOk

def execStageClear (slot : SlotId) (s : State) : Res := unitMessage 0x0404 slot (fun _ => true) stageClear s

def stageStatus (m : Msg) (s : State) : State :=
  let id := setOf (fld m.payload 0 4)
  let p := s.pendOf id
  s.reply m stOk 0 (leBytes 4 p.isSome.toNat ++ leBytes 4 (s.stagedOf id).length ++ leBytes 8 (p.elim 0 (·.x.toNat))
    ++ leBytes 8 (p.elim 0 (·.accepted.toNat)) ++ leBytes 8 (tget 0 s.ctl.lastX (if id = .device then 64 else id.num)).toNat)

def execStageStatus (slot : SlotId) (s : State) : Res := unitMessage 0x0405 slot (fun _ => true) stageStatus s

end Sys2Proof.Machine
end

