-- ==== Sys2Proof/Machine/Epoch.lean ====
section
/-!
DEFINITION. How an epoch is suspended and how its close begins (R328, R335-R337, R360), and what a UF record brings
about (R468).
-/
namespace Sys2Proof.Machine

def State.modTen (s : State) (f : Tenancy → Tenancy) : State := { s with ten := f s.ten }

/-- The tenant tasks of a tile: contexts and tasks. -/
def State.tenantCtxs (s : State) (t : LTile) : List (CtxNo × TaskCtx) :=
  (List.finRange 8).filterMap fun c => match s.ctx t c with
    | some k => if k.radio then none else some (c, k)
    | none => none

/-- Every tenant task. -/
def State.tenantTasks (s : State) : List (LTile × CtxNo × TaskCtx) :=
  (List.finRange 64).flatMap fun t => (s.tenantCtxs t).map fun (c, k) => (t, c, k)

/-- Whether a tenant task has an operation in flight (R335, R337): one started and not ended, a frozen pass and what
still stands in a pending slot apart. -/
def State.inFlight (s : State) (t : LTile) (c : CtxNo) : Bool :=
  let x := s.tiles.get t
  x.arr.run.any (fun p => decide (p.ctx = c) && !p.frozen) || x.eng.blocks.any (fun b => decide (b.ctx = c))
  || x.eng.flight.any (fun f => decide (f.ctx = c)) || x.cmp.run.any (fun o => decide (o.ctx = c))
  || x.later.any (fun l => match l.2 with | .flags d _ => decide (d = c) | .cret _ _ => false)
  || s.meshBusy t c || decide (tget 0 s.ten.frtBusy (8 * t.val + c.val) ≠ 0)

/-- A context that may be released: this is the cycle after its task's last effect (a dropped one's does not wait for the mesh), or the epoch's close finds nothing of it in flight (R212, R360, R475). -/
def State.releasable (s : State) (t : LTile) (c : CtxNo) : Bool :=
  match s.ctx t c with
  | none => false
  | some k =>
    if k.ended.isSome then decide (s.now = k.busyAt + 1) && !k.live && !(s.tiles.get t).localBusy c && (k.dropped || !s.meshBusy t c)
    else decide (s.ten.state = .closing) && !k.radio && decide (s.ten.closeAt ≠ some s.now) && !s.inFlight t c

/-- TASK_CONTEXT_RELEASE (R212, R475); a task that a close releases ends with CODE 9 (R476). -/
def taskRelease (t : LTile) (c : CtxNo) (s : State) : State :=
  match s.ctx t c with
  | some k => if k.ended.isSome then releaseCtx t c s else releaseCtx t c ((s.modTile t (·.cut c)).endTask t c 9)
  | none => s

def execTaskContextRelease (t : LTile) (c : CtxNo) (s : State) : Res := guarded (s.releasable t c) (taskRelease t c) s

/-- A suspend at this cycle (R335, R336): freezes in progress stand until the resume. -/
def State.beginSuspend (s : State) : State :=
  if s.ten.suspendAt.isSome then s
  else
    let s := s.modTen fun e => { e with suspendAt := some s.now }
    { s with tiles := s.tiles.map fun x => { x with arr := { x.arr with freeze := x.arr.freeze.map fun f => { f with closes := none } } } }

/-- The epoch is SUSPENDED once no tenant operation is in flight (R337); suspends that wait are answered. -/
def State.suspended (s : State) : State :=
  let s := s.modTen fun e => { e with state := .suspended, suspendAt := none }
  s.answerAll .suspend fun m s => s.reply m stOk

def State.trySuspended (s : State) : State :=
  if s.ten.suspendAt.isSome ∧ !(s.tenantTasks.any fun (t, c, _) => s.inFlight t c) then s.suspended else s

/-- A close begins (R360): frozen passes are discarded, and what the close overtakes is answered ABORTED (R453). -/
def State.beginClose (s : State) (byUf : Bool) : State :=
  if s.ten.state = .closed ∨ s.ten.state = .closing then s
  else
    let s := s.modTen fun e => { e with state := .closing, closeAt := some s.now, drainedAt := none, suspendAt := none, sealing := none, unsealing := none, byUf := byUf }
    let s : State := { s with tiles := s.tiles.map fun x => { x with arr := { x.arr with freeze := none, run := x.arr.run.filter fun p => !p.frozen } } }
    let s := s.answerAll .suspend fun m s => s.reply m stAborted
    let s := s.answerAll .seal fun m s => s.reply m stAborted
    s.answerAll .unseal fun m s => s.reply m stAborted

/-- A UF record and what follows it (R468); under R347 only the record. -/
def State.ufRec (s : State) (r : Rec) (only : Bool := false) : State :=
  let s := s.logRec { r with cls := .uf }
  if only then s
  else ({ s with cores := { s.cores with uf := some (s.cores.uf.getD s.now) } } : State).beginClose true

/-- Every fronthaul transmitter is held idle (R468). -/
def State.txIdle (s : State) (v : W64) : Bool := match s.cores.uf with | some u => decide (s.nextSlot u ≤ v) | none => false

end Sys2Proof.Machine
end

