-- ==== Sys2Proof/Machine/Commit.lean ====
section
/-!
DEFINITION. The staged-commit unit at a commit's instant (R423, R424, R426-R429, R316, R286, R161), the action stage set
(R422), the roles and the moult (R412, R413, R430-R434, R450, R32).
-/
namespace Sys2Proof.Machine

/-! ## Streams and templates (R297, R299, R302, R316) -/

/-- A stream's registers as the table holds them: OFF and UPR filled in, and the gain state of R316. -/
def Cfg.streamRegsOf (c : Cfg) (old : Option StreamRegs) (rim : Fin 4) (f : Fin 8192) (g : StreamRegs) : StreamRegs :=
  let zone := c.streams.filter fun (r, _, _, h) => decide (r = rim ∧ bits h.fact 9 0 = bits g.fact 9 0)
  let off := sumNat ((zone.filter fun (_, i, _, _) => decide (i < f)).map fun (_, _, _, h) => unitsPerRecord h.fact)
  let fact := putBits (putBits g.fact 47 34 off) 55 48 (unitsPerRecord g.fact)
  let fresh := putBits (g.fgain &&& 0x1FFFF7F00#64) 5 0 (bits g.fgain 14 9)
  let gain := match old with
    | some o =>
      if streamKey o.key ≠ streamKey g.key ∨ !bit o.key 34 then fresh
      else
        let kept := putBits (g.fgain &&& 0x1FFFF7F00#64) 7 0 (bits o.fgain 7 0)
        if bits o.fgain 32 16 ≠ bits g.fgain 32 16 ∨ bits o.fgain 8 8 ≠ bits g.fgain 8 8 then putBit kept 6 false else kept
    | none => fresh
  { g with fact := fact, fgain := gain }

def State.setStream (s : State) (rim : Fin 4) (f : Nat) (g : StreamRegs) : State :=
  (((s.rset ⟨.radFkey, rim.val, f⟩ g.key).rset ⟨.radFact, rim.val, f⟩ g.fact).rset ⟨.radFtime, rim.val, f⟩ g.ftime).rset ⟨.radFgain, rim.val, f⟩ g.fgain

def State.modRim (s : State) (r : Fin 4) (f : RimSt → RimSt) : State := { s with radio := { s.radio with rims := vmod s.radio.rims r f } }

def State.modStream (s : State) (r : Fin 4) (f : Nat) (g : StreamSt → StreamSt) : State :=
  s.modRim r fun x => { x with streams := tput f (g (tget {} x.streams f)) x.streams }

/-- The entries that still serve symbols before a commit, with the one that it replaces: an older one goes when the records of its
symbols are flushed (R302). -/
def StreamSt.retire (y : StreamSt) (x now : W64) (g : StreamRegs) (dF : Nat) : StreamSt :=
  { y with olds := (x, g) :: y.olds.filter fun o => decide (now ≤ o.1 + BitVec.ofNat 64 (bits o.2.ftime 41 21 + dF)) }

/-- The zone of a stream, as 16 * tile + zone. -/
def StreamRegs.zone (g : StreamRegs) : Nat := 16 * bits g.fact 5 0 + bits g.fact 9 6

/-- The zones that a configuration's streams feed. -/
def Cfg.zones (c : Cfg) : List Nat := (c.streams.map fun (_, _, _, g) => g.zone).eraseDups

/-- The stream tables of a configuration: the entry that a change replaces keeps serving earlier symbols (R302), and a zone that gets
its first stream is activated (R299). -/
def State.writeStreams (s : State) (old new : Cfg) (x : W64) : State :=
  let dF (g : StreamRegs) : Nat := s.dF (s.fhLane (bits g.key 3 0))
  let s := (old.streams.filter fun (r, f, _, _) => !new.streams.any fun (q, i, _, _) => decide (q = r ∧ i = f)).foldl
    (fun (s : State) (r, f, _, g) => (s.rset ⟨.radFkey, r.val, f.val⟩ (putBit g.key 34 false)).modStream r f.val fun y => y.retire x s.now g (dF g)) s
  let s := new.streams.foldl (fun (s : State) (r, f, cell, g) =>
    let was := (old.streams.find? fun (q, i, _, _) => decide (q = r ∧ i = f)).map fun (_, _, _, h) => h
    let h := new.streamRegsOf was r f g
    let s := s.setStream r f.val h
    let moved := decide (was ≠ some h)
    s.modStream r f.val fun y =>
      let y := if was.isNone then { y with seq := none, lateSeen := false, widths := [], gsum := 0, gn := 0 } else y
      let y := if moved then y.retire x s.now (was.getD { h with key := 0 }) (dF (was.getD h)) else y
      { y with cell := cell.val }) s
  let fed := new.zones.filter fun k => !old.zones.contains k
  { s with radio := { s.radio with
      zoneX := fed.foldl (fun z k => tput k (x :: ((tget [] z k).filter fun o => decide (x < o + 0x400000))) z) s.radio.zoneX
      rims := Vector.ofFn fun (r : Fin 4) =>
        { s.radio.rims.get r with templates := new.templates.foldl (fun t (q, n, sl, b) => if q = r then tput n (sl, b) t else t) [] } } }

/-! ## Ports (R285, R286, R306, R307) -/

/-- Frames of an earlier cycle join their queues; queues that become active are appended in ascending number (R284, R285). -/
def PortSt.joined (p : PortSt) (tt : Nat → Bool) : PortSt :=
  ((List.range 256).filter fun q => p.fresh.any fun x => decide (x.1 = q)).foldl (fun (p : PortSt) q =>
    let held := tget [] p.queues q
    { p with
      queues := tput q (held ++ (p.fresh.filter fun x => decide (x.1 = q)).map (·.2)) p.queues
      cur := if held = [] ∧ !tt q then enq p.cur q else p.cur
      deficit := if held = [] then tdel q p.deficit else p.deficit
      fresh := p.fresh.filter fun x => decide (x.1 ≠ q) }) p

/-- A port with every frame in its queue. -/
def State.portAll (s : State) (l : Nat) : PortSt := (tget {} s.ports l).joined fun q => bit (s.rget ⟨.fhpQ, l, q⟩) 20

/-- A port as the decisions of this cycle see it: with the frames that arrived before it (R285). -/
def State.portSt (s : State) (l : Nat) : PortSt :=
  let p := tget {} s.ports l
  if p.fresh = [] ∨ p.freshAt = s.now then p else s.portAll l

def State.modPort (s : State) (l : Nat) (f : PortSt → PortSt) : State := { s with ports := tset {} s.ports l (f (s.portSt l)) }

/-- A queue taken out of use (R286): its held frames are discarded and counted. -/
def State.dropQueue (s : State) (l q : Nat) : State :=
  let n := (tget [] (s.portSt l).queues q).length
  (s.finc ⟨.fhpTxstat, l, 0⟩ 47 32 n).modPort l fun p =>
    { p with queues := tdel q p.queues, deficit := tdel q p.deficit, cur := p.cur.filter (· ≠ q), nxt := p.nxt.filter (· ≠ q),
             visiting := if p.visiting = some q then none else p.visiting }

/-- QUANTUM, TT and EN of a queue set; a queue that is disabled or changes kind is emptied (R286). -/
def State.setQueue (s : State) (l q : Nat) (quantum : Nat) (tt en : Bool) : State :=
  let r : Reg := ⟨.fhpQ, l, q⟩
  let v := s.rget r
  let s := if (bit v 21 && !en) || bit v 20 != tt then s.dropQueue l q else s
  s.rset r (putBit (putBit (putBits v 19 0 quantum) 20 tt) 21 en)

/-- The egress settings of a fronthaul port. -/
def State.writePort (s : State) (new : Cfg) (fh l : Nat) : State :=
  let s : State := { s with ports := tset {} s.ports l (s.portAll l) }
  let p := s.portSt l
  let cells := new.cellsOn fh
  let places := (new.orderOf false p.cells cells, new.orderOf true p.ucells cells)
  -- the queue that a cell's queue becomes
  let dest (q : Nat) : Option Nat :=
    if q < 64 then (p.cells[q]?).bind fun x => places.1.findIdx? fun y => decide (y = x)
    else if q < 128 then ((p.ucells[q - 64]?).bind fun x => places.2.findIdx? fun y => decide (y = x)).map (64 + ·)
    else some q
  let s := ((List.range 128).filter fun q => (dest q).isNone).foldl (fun (s : State) q => s.dropQueue l q) s
  let held := (s.portSt l).queues
  let s := s.modPort l fun p => { p with cells := places.1, ucells := places.2, queues := [] }
  let n := Nat.max p.cells.length places.1.length
  let s := (List.range n).foldl (fun (s : State) k =>
    let used := decide (k < places.1.length)
    (s.setQueue l k 0 used used).setQueue l (64 + k) 0 used used) s
  let s := s.modPort l fun p => { p with queues := held.foldl (fun t x => match dest x.1 with | some q => tput q x.2 t | none => t) [] }
  let s := (List.finRange 64).foldl (fun (s : State) n =>
    let live := decide ((new.slices.get n).st = .serving ∨ (new.slices.get n).st = .deleting)
    if live ∨ bit (s.rget ⟨.fhpQ, l, 128 + n.val⟩) 21 then s.setQueue l (128 + n.val) (if live then 1518 else 0) false live else s) s
  let t := ttwOf (new.runs places)
  (List.range 64).foldl (fun (s : State) w =>
    let v := t.getD w 0
    let s := if v = s.rget ⟨.fhpTtw, l, w⟩ then s else s.modPort l fun p => { p with opened := p.opened.filter (· ≠ w) }
    s.rset ⟨.fhpTtw, l, w⟩ v) s

def State.writePorts (s : State) (new : Cfg) : State :=
  (List.range 16).foldl (fun (s : State) fh => match s.lane 1 fh with
    | some l => s.writePort new fh l.val
    | none => s) s

/-! ## Tile swaps (R426-R429) -/

/-- Every landing zone whose SRC names one stop names another (R426). -/
def State.moveSrc (s : State) (a b : Nat) : State :=
  (List.finRange 64).foldl (fun (s : State) t => (List.range 16).foldl (fun (s : State) z =>
    let r := treg .padLzCfg t z
    if zSrc (s.rget r) = a then s.rset r (putBits (s.rget r) 46 40 b) else s) s) s

/-- Logical tile `t` moves to physical tile `q`, whose pad the copy has filled (R427): the cycle's writes and the sweeps go with it, the
map and the zones' sources follow, and the tenant's work is no longer suspended. Rows that await a regrow stay behind (R429). -/
def State.swapTile (s : State) (t : LTile) (q : PTile) : State :=
  let p := s.ptile t
  let pad := s.pads.get p
  let s := s.modPad q fun x => { x with
    writes := pad.writes, sweep := pad.sweep, held := pad.held, lastSweep := pad.lastSweep, sweepFree := pad.sweepFree, stat := .service }
  let s := s.modPad p fun x => { x with stat := .left false false, writes := [], sweep := none, held := [], failing := [], regrow := none }
  let s := s.modTile t fun x => { x with swapHold := false }
  ({ s with tileMap := s.tileMap.set t q, ctl := { s.ctl with swap := none } } : State).moveSrc (stopOf p) (stopOf q)

/-- A role moves to a position, and F7 to the one it leaves (R412, R431). -/
def State.moveRole (s : State) (k pos : Fin 8) : State :=
  let h := s.holder k
  let s := (s.fset (creg .ctlRole) (4 * k.val + 2) (4 * k.val) pos.val).fset (creg .ctlRole) 30 28 h.val
  let s := (s.fset (creg .ctlHb pos.val) 39 32 k.val).fset (creg .ctlHb h.val) 39 32 7
  { s with cores := { s.cores with
      away := putBit s.cores.away k.val false
      beatAt := (s.cores.beatAt.set pos s.now).set h s.now
      moult := match s.cores.moult with
        | some (.moving, r) => if r = k then some (.confirm h 0, r) else s.cores.moult
        | m => m } }

/-! ## The action stage set (R422) -/

/-- The first slot start from `x` on, of `n` tries, at which a set passes R419 and R420 but for the pending commits it makes fail. -/
def State.firstAccepted (s : State) (id : SetId) (l : List Setting) : Nat → W64 → Option W64
  | 0, _ => none
  | n + 1, x =>
    match s.judge id l x with
    | none => some x
    | some (st, _) => if st = stDependent ∧ !(movesWindows (s.cfgAt (some x)) ((s.cfgAt (some x)).after id l)) then some x else s.firstAccepted id l n (x + 983040)

/-- Pending commits that an accepted action makes fail are withdrawn, with a UC record in their owners' views. -/
def State.withdrawFor (s : State) (k : Fin 4) (id : SetId) (l : List Setting) (x : W64) : State :=
  (s.dependents id l x).foldl (fun (s : State) p =>
    (s.withdraw p).logRec { cls := .uc, unit := 12, code := .rule 422 0, object := p.set.num, owners := match p.set with | .slice n => [.slice n] | _ => [.manager],
                            detail := leBytes 8 p.x.toNat ++ leBytes 1 k.val }) s

/-- Two actions of one kind in one commit. -/
def joinAction (l : List Setting) (x : Setting) : List Setting :=
  match l, x with
  | [.shed a], .shed b => [.shed (a ++ b)]
  | [.mute a], .mute b => [.mute (a ++ b)]
  | [.unmute a], .unmute b => [.unmute (a ++ b)]
  | l, x => enq l x

/-- An action staged and committed (R422), from `lead` cycles on. While a commit of its kind is pending, it joins that one, or stays
staged until that commit's instant: there is one entry for each kind. -/
def State.action (s : State) (k : Fin 4) (x : Setting) (lead : Nat) : State :=
  let id : SetId := .action k
  match s.ctl.pend.find? fun p => decide (p.set = id) with
  | none => match s.firstAccepted id [x] 240 (s.nextSlot (s.now + BitVec.ofNat 64 lead)) with
    | some v => (s.withdrawFor k id [x] v).accept id v [x]
    | none => s
  | some p =>
    let j := joinAction p.settings x
    let rest : State := { s with ctl := { s.ctl with pend := s.ctl.pend.filter fun q => decide (q ≠ p) } }
    if s.now + 3932160 ≤ p.x ∧ rest.violations id j (rest.cfgAt (some p.x)) (some p.x) = [] then
      let s := rest.withdrawFor k id j p.x
      State.retable { s with ctl := { s.ctl with pend := enq s.ctl.pend { p with settings := j } } }
    else { s with ctl := { s.ctl with later := enq s.ctl.later (k, x) } }

/-- The actions that waited for the commits of these kinds, which have taken effect: each is committed at least four slots on (R422). -/
def State.laterActions (s : State) (kinds : List (Fin 4)) : State :=
  let go := s.ctl.later.filter fun x => kinds.contains x.1
  go.foldl (fun (s : State) x => s.action x.1 x.2 3932160)
    { s with ctl := { s.ctl with later := s.ctl.later.filter fun x => !kinds.contains x.1 } }

/-! ## STAGE_COMMIT_APPLY (R423) -/

/-- What a deleted slice leaves behind (R161, R416, R477): the sweep of its tag, its view and ring emptied. -/
def State.dropSlice (s : State) (n : Fin 64) : State :=
  let s := s.sweepAll n.val
  { s with log := { s.log with slices := tdel n.val s.log.slices },
           mbx := { s.mbx with rings := tdel n.val s.mbx.rings, events := s.mbx.events.filter fun e => decide (e.owner.val ≠ n.val),
                               units := s.mbx.units.filter fun u => decide (u.2.1 ≠ n.val) } }

/-- The committed configuration as a string, in stage-set order (R499; log entry 14). -/
def Cfg.text (c : Cfg) : Bytes :=
  let slice (n : Fin 64) : List Nat :=
    let x := c.slices.get n
    [n.val, x.pasid.toNat, x.slot0, x.nslot, x.vec0, x.nvec, x.win0.base, x.win0.bound, x.win1.base, x.win1.bound, leNat ((x.image.map (·.hash)).getD [])]
    ++ x.cells.flatMap fun (k, y) => [k, y.st, leNat y.payload]
  Config.serial 12 ((List.finRange 64).flatMap slice ++ (c.streams.flatMap fun (r, f, k, g) => [r.val, f.val, k.val, g.key.toNat, g.fact.toNat, g.ftime.toNat])
    ++ (c.templates.flatMap fun (r, n, sl, b) => [r.val, n, sl, leNat b]) ++ (c.alloc.flatMap fun (t, n, a, b) => [t.val, n, a, b])
    ++ c.map.toList.map (·.val) ++ [(c.frameOff % 2 ^ 40).toNat])

/-- The registers, tables and maps of a configuration written at instant `x`. -/
def State.writeCfg (s : State) (old new : Cfg) (x : W64) : State :=
  let gone := (List.finRange 64).filter fun n => decide ((old.slices.get n).st ≠ .free ∧ (new.slices.get n).st = .free)
  let s := s.writeStreams old new x
  let s : State := { s with
    ctl := { s.ctl with slices := Vector.ofFn fun (n : Fin 64) => { new.slices.get n with cells := (new.slices.get n).cells.map fun (k, c) =>
      (k, if (tfind k (old.slices.get n).cells).isSome then c else { c with since := x }) } }
    tiles := Vector.ofFn fun (t : Fin 64) => { s.tiles.get t with alloc := new.alloc.foldl (fun a (l, n, st, sz) => if l = t then tput n (st, sz) a else a) [] }
    mesh := { s.mesh with slots := new.slots }
    spdm := { s.spdm with cfg := (Config.sha384 new.text, x), was := s.spdm.cfg } }
  let s := s.writePorts new
  let s := if new.frameOff = old.frameOff then s else s.fset (creg .atbFrameOffset) 39 0 (new.frameOff % 2 ^ 40).toNat
  let s := gone.foldl (fun (s : State) n => s.dropSlice n) s
  let s := (List.finRange 4).foldl (fun (s : State) r =>
    s.fset ⟨.radAsm, r.val, 0⟩ 50 32 (Nat.max (s.fget ⟨.radAsm, r.val, 0⟩ 50 32) (s.asmUsed r))) s
  s.fset (creg .tenPwr) 9 0 (Nat.min 1023 (850 - s.board.radioAllowance - s.board.staticPower))

/-- One applied commit recorded: its set emptied, CTL_LAST and CTL_LASTSET (R423). -/
def State.recordCommit (s : State) (p : Pending) : State :=
  let s := s.setStaged p.set []
  let s := match p.set with
    | .slice n => s.rset (creg .ctlLastset) (putBit (s.rget (creg .ctlLastset)) n.val true)
    | _ => s
  { s with ctl := { s.ctl with lastX := match p.set with | .slice n => tput n.val p.x s.ctl.lastX | .device => tput 64 p.x s.ctl.lastX | .action _ => s.ctl.lastX } }

/-- Every commit whose instant is this cycle takes effect, in the order of acceptance. -/
def commitApply (s : State) : State :=
  let due := (byInstant s.ctl.pend).filter fun p => decide (p.x = s.now)
  let old := s.cfg
  let new := due.foldl (fun c p => c.after p.set p.settings) old
  let s0 := s
  let s : State := { s with ctl := { s.ctl with pend := s.ctl.pend.filter fun p => decide (p.x ≠ s.now) } }
  let s := s.writeCfg old new s.now
  let s := (due.flatMap (·.settings)).foldl (fun (s : State) x => match x with
    | .tileSwap t p => s.swapTile t p
    | .roleMove k pos => s.moveRole k pos
    | _ => s) s
  let s := (s.rset (creg .ctlLast) s.now).rset (creg .ctlLastset) 0
  let moved := (List.finRange 64).flatMap fun t => (List.range 16).filterMap fun z =>
    if zSrc (s.rget (treg .padLzCfg t z)) ≠ zSrc (s0.rget (treg .padLzCfg t z)) then some (16 * t.val + z) else none
  let s : State := { s with ctl := { s.ctl with moved := some (s.now, moved) } }
  let kinds := due.filterMap fun p => match p.set with | .action k => some k | _ => none
  (due.foldl (fun (s : State) p => s.recordCommit p) s).retable.laterActions kinds

def execStageCommitApply (s : State) : Res := guarded (s.ctl.pend.any fun p => decide (p.x = s.now)) commitApply s

/-- R428: 983,040 cy before its instant, a swap suspends the tenant's work on its tile, freezing passes as a suspend does. -/
def swapSuspend (s : State) : State :=
  (s.ctl.pend.flatMap fun p => if p.x = s.now + 983040 then p.settings else []).foldl (fun (s : State) x => match x with
    | .tileSwap t _ =>
      if (s.tiles.get t).swapHold then s
      else
        let s := s.modTile t fun y => { y with swapHold := true }
        if (s.arr t).freeze.isSome then s.modArr t fun a => { a with freeze := a.freeze.map fun f => { f with closes := none } } else s.freezeNow t none
    | _ => s) s

def execTileSwapTenantSuspend (s : State) : Res := .next (swapSuspend s)

/-- The copy of 196,608 rows ends (R427). -/
def swapCopied (s : State) : Bool := match s.ctl.swap with
  | some _ => s.ctl.pend.any fun p => decide (s.now = p.accepted + 196608) && p.settings.any fun x => match x with | .tileSwap _ _ => true | _ => false
  | none => false

def execTileSwapCopyComplete (s : State) : Res := guarded (swapCopied s) (fun s => { s with ctl := { s.ctl with swap := none } }) s

/-! ## Heartbeats and roles (R32, R413, R450, R468) -/

/-- A role that has work, or a spare with a verified image, writes its heartbeat (R413). -/
def heartbeatWrite (r : Fin 8) (s : State) : State :=
  let h := s.holder r
  let s := s.rset (creg .ctlHb h.val) (putBits (s.rget (creg .ctlHb h.val)) 31 0 (s.fget (creg .ctlHb h.val) 31 0 + 1))
  { s with cores := { s.cores with
      beatAt := s.cores.beatAt.set h s.now
      moult := match s.cores.moult with
        | some (.confirm f n, k) => if k = r then some (.confirm f (n + 1), k) else s.cores.moult
        | m => m } }

def State.fenenUp (s : State) : Bool := decide (12 ≤ s.stage) && !s.boot.dies

/-- Whether a role writes heartbeats: the spare does while it holds a verified image, which one that it is loading is not yet (R413, R431). -/
def State.beats (s : State) (r : Fin 8) : Bool :=
  s.fenenUp && !s.cores.failed.getLsbD (s.holder r).val
  && (decide (r ≠ 7) || match s.cores.moult with | some (.load, _) => false | some (.finish, _) => false | _ => true)

def execHeartbeatWrite (role : Fin 8) (s : State) : Res := guarded (s.beats role) (heartbeatWrite role) s

/-- The heartbeat of a role's position has not advanced for its period (R32). -/
def beatMissed (r : Fin 8) (s : State) : Bool :=
  s.beats r && s.cores.m0Up && decide (1966080 ≤ (s.now - s.cores.beatAt.get (s.holder r)).toNat)

/-- Messages taken by a failed role and not executed are answered CORE_FAILED (R450). -/
def State.failMessages (s : State) (r : Fin 8) : State :=
  let mine (m : Msg) : Bool := !isPf1 m.slot && servingRole m.opcode m.payload == r
  let l := s.mbx.taken.filter mine
  l.foldl (fun (s : State) m => s.reply m stCoreFailed) { s with mbx := { s.mbx with taken := s.mbx.taken.filter fun m => !mine m } }

/-- HEARTBEAT_TIMEOUT (R32, R433, R450, R468). -/
def beatTimeout (r : Fin 8) (s : State) : State :=
  let h := s.holder r
  let s : State := { s with cores := { s.cores with failed := putBit s.cores.failed h.val true } }
  let s := s.failMessages r
  match s.cores.moult with
  | some (.confirm f _, k) =>
    if k = r then
      ({ s with cores := { s.cores with moult := none, aborted := true } } : State).action 0 (.roleMove r f) 3932160
    else s
  | _ =>
    let spare := s.holder 7
    if r = 7 then s.logRec { cls := .uc, unit := 12, code := .rule 32 0, object := 7 }
    else if s.cores.failed.getLsbD spare.val then s.ufRec { cls := .uf, unit := 12, code := .rule 468 3, object := r.val }
    else (s.logRec { cls := .uc, unit := 12, code := .rule 32 0, object := r.val }).action 0 (.roleMove r spare) 3932160

def execHeartbeatTimeout (role : Fin 8) (s : State) : Res := guarded (beatMissed role s) (beatTimeout role) s

/-! ## Moult (R430-R434) -/

/-- From X - 983,040 the holder of a role that moves sweeps no new slot (R431). -/
def handoverPrepare (s : State) : State :=
  (s.ctl.pend.flatMap fun p => if p.x = s.now + 983040 then p.settings else []).foldl (fun (s : State) x => match x with
    | .roleMove k _ => { s with cores := { s.cores with away := putBit s.cores.away k.val true } }
    | _ => s) s

def execHandoverPrepare (s : State) : Res := .next (handoverPrepare s)

/-- Step 5 of a handover ends after 2,000 heartbeats (R431); after F6's the last spare loads (R432). -/
def handoverConfirm (s : State) : State :=
  match s.cores.moult with
  | some (.confirm _ n, k) =>
    if n < 2000 then s
    else { s with cores := { s.cores with spareLoaded := false, moult := some (if k.val < 6 then (.load, k + 1) else (.finish, k)) } }
  | _ => s

def execHandoverConfirm (s : State) : Res := .next (handoverConfirm s)

/-- The spare position has loaded and checked the new image: it writes its heartbeat, and M0 commits the role's move; at
the end of the moult M0 writes the flash, and the counter with the smaller of the two images' values (R431, R432, R492). -/
def spareLoaded (s : State) : State :=
  let low (i : FwImage) : Nat := match s.cores.heldM0 with | some j => Nat.min i.rollback j.rollback | none => i.rollback
  match s.cores.moult, s.cores.heldFenen with
  | some (.load, k), some i =>
    let sp := s.holder 7
    let s := heartbeatWrite 7 { s with cores := { s.cores with image := s.cores.image.set sp i, spareLoaded := true, moult := some (.moving, k) } }
    s.action 0 (.roleMove k sp) 3932160
  | some (.finish, k), some i =>
    let sp := s.holder 7
    { s with cores := { s.cores with image := s.cores.image.set sp i, flashFenen := i, moult := some (.m0, k) }
             boot := { s.boot with fwcnt := Nat.max s.boot.fwcnt (low i) } }
  | _, _ => s

def execSpareImageLoaded (s : State) : Res := .next (spareLoaded s)

/-- M0's island restarts (R31, R54, R500): its message handling and loss timers stop, SPDM connections are reset. -/
def State.m0Down (s : State) : State :=
  let s := s.keepFreq
  { s with cores := { s.cores with m0Up := false, restart := some s.now }
           time := { s.time with src := { s.time.src with paused := true } }
           spdm := { s.spdm with pcie := {}, i3c := {} } }

/-- M0 moults itself (R434). -/
def m0Moult (s : State) : State :=
  match s.cores.moult, s.cores.heldM0 with
  | some (.m0, _), some i =>
    State.m0Down { s with cores := { s.cores with m0 := i, flashM0 := i, heldM0 := none, heldFenen := none, moult := none } }
  | _, _ => s

def execM0Moult (s : State) : Res := .next (m0Moult s)

/-- The time source is lost when the clutch leader's link is down (R52). -/
def State.leaderCheck (s : State) : State :=
  (if s.tsrc = 3 ∧ s.time.src.timeOk ∧ bit (s.rget (creg .fabPeer s.board.leader.val)) 1 = false then s.timeLost 0x02FF else s).refreshQl

/-- The 1PPS edges that passed while M0 was stopped have advanced the prediction and are not counted as missing (R54). -/
def Sources.afterStop (v : Sources) (now : W64) : Sources :=
  match v.lastPps with
  | none => v
  | some e =>
    let n := (now - e).toNat / 1966080000
    if n = 0 then { v with ppsBad := 0 }
    else { v with ppsBad := 0, todFresh := false, todCame := true, lastPps := some (e + BitVec.ofNat 64 (1966080000 * n)), todSeconds := v.todSeconds.map (· + n) }

/-- M0 runs again (R434): its loss timers restart from zero (R54), its alias keys follow its image (R494), and it finds out what
it missed: a clutch leader's link that has gone down (R52). -/
def m0Restarted (s : State) : State :=
  let v := s.time.src.afterStop s.now
  let v : Sources := { v with masters := v.masters.map fun m => { m with last := s.now } }
  let s : State :=
    { s with cores := { s.cores with m0Up := true, restart := none }
             boot := { s.boot with aliasOf := (s.cores.m0.hash, s.board.hash) }
             time := { s.time with src := { v with paused := false, lastAnnounce := s.now, lastSample := s.now, lastEsmc := s.now } } }
  s.leaderCheck

def execM0RestartComplete (s : State) : Res := guarded (s.cores.restart.isSome && !s.boot.held) m0Restarted s

/-- The M0 watchdog: 100 ms without a kick resets M0's island (R469). -/
def execM0WatchdogExpiry (s : State) : Res := guarded s.cores.m0Up (·.m0Down) s

/-- MOULT_START (R430, R454): with verified Fenen and M0 images held, a format that the running image accepts, and an
anti-rollback value not below the counter. -/
def moultStart (m : Msg) (s : State) : State :=
  match s.cores.heldFenen, s.cores.heldM0 with
  | some i, some j =>
    if s.cores.moult.isSome then s.reply m stBadState
    else if i.rollback < s.boot.fwcnt ∨ j.rollback < s.boot.fwcnt then s.reply m stRollback
    else if !Config.formatAccepted (s.cores.image.get (s.holder 0)).format i.format then s.reply m stBadState
    else State.reply { s with cores := { s.cores with moult := some (.load, 0), aborted := false, spareLoaded := false } } m stOk
  | _, _ => s.reply m stBadState

def execMoultStart (slot : SlotId) (s : State) : Res := message 0x0901 slot moultStart s

/-- CTL_STATUS (R436). -/
def State.ctlStatus (s : State) : W64 :=
  BitVec.ofNat 64 (Nat.min 31 s.ctl.pend.length + 32 * s.cores.moult.isSome.toNat + 64 * s.cores.aborted.toNat + 128 * s.ctl.swap.isSome.toNat
    + 256 * sumNat ((List.finRange 8).map fun n => if s.cores.image.get n = s.cores.flashFenen then 0 else 2 ^ n.val))

/-- MOULT_STATUS (R454): CTL_STATUS and the role in handover. -/
def moultStatus (m : Msg) (s : State) : State :=
  let role := match s.cores.moult with | some (.m0, _) => 0xFF | some (.finish, _) => 0xFF | some (_, k) => k.val | none => 0xFF
  s.reply m stOk 0 (toBytes s.ctlStatus 8 ++ leBytes 1 role ++ leBytes 7 0)

def execMoultStatus (slot : SlotId) (s : State) : Res := message 0x0902 slot moultStatus s

end Sys2Proof.Machine
end

