-- ==== Sys2Proof/Machine/Egress.lean ====
section
/-!
DEFINITION. The Ethernet ports (R273-R288): queues, time-triggered windows, deficit round robin, link state. A port is
known by its first lane.
-/
namespace Sys2Proof.Machine

/-! ## Queues (R274, R275, R284) -/

/-- A frame's length with its FCS. -/
def wireLen (b : Bytes) : Nat := b.length + 4

def heldBytes (l : List Bytes) : Nat := sumNat (l.map wireLen)

def State.qReg (s : State) (l q : Nat) : W64 := s.rget ⟨.fhpQ, l, q⟩

/-- A fronthaul or gateway port of the board. -/
def State.isEthernet (s : State) (l : Nat) : Bool :=
  let v := s.rget ⟨.fhpCfg, l, 0⟩
  (bits v 2 0 == 1 || bits v 2 0 == 3) && bits v 12 8 == l

/-- A frame arrives at a queue (R274, R275); it joins it for the decisions of the next cycle (R285). -/
def State.enqueue (s : State) (l q : Nat) (b : Bytes) : State :=
  let v := s.qReg l q
  let p := s.portAll l
  let held := tget [] p.queues q
  let limit := Nat.max 1 (bits v 34 24)
  if !s.isEthernet l || !bit v 21 then s
  else if 1024 * limit < heldBytes held + wireLen b ∨ 2097152 < sumNat (p.queues.map fun x => heldBytes x.2) + wireLen b then
    s.finc ⟨.fhpTxstat, l, 0⟩ 47 32
  else
    s.modPort l fun p => { p with fresh := enq p.fresh (q, b), freshAt := s.now }

/-- EGRESS_FRAME_ENQUEUE: no frame longer than MAXFRAME is taken (R270, R288). -/
def execEgressFrameEnqueue (port : Fin 24) (q : Fin 256) (frame : Bytes) (s : State) : Res :=
  guarded (decide (wireLen frame ≤ s.maxFrame port.val)) (·.enqueue port.val q.val frame) s

/-! ## Windows (R278-R281) -/

/-- An enabled window entry: its opening and closing in the period that `v` lies in. -/
def State.ttwAt (s : State) (l w : Nat) (v : W64) : Option (W64 × W64) :=
  let e := s.rget ⟨.fhpTtw, l, w⟩
  if bit e 44 then
    let o := v - BitVec.ofNat 64 (s.off v % slotLen (bit e 42)) + BitVec.ofNat 64 (bits e 20 0)
    some (o, o + BitVec.ofNat 64 (bits e 41 21))
  else none

/-- The window of a port that is open at `v`, with its closing cycle. -/
def State.ttwOpen (s : State) (l : Nat) (v : W64) : Option (W64 × W64) :=
  (List.range 64).findSome? fun w => match s.ttwAt l w v with
    | some (o, c) => if o ≤ v ∧ v < c then some (s.rget ⟨.fhpTtw, l, w⟩, c) else none
    | none => none

/-- The opening of the next enabled window after `v`. -/
def State.ttwNext (s : State) (l : Nat) (v : W64) : Option W64 :=
  ((List.range 64).filterMap fun w => (s.ttwAt l w v).map fun (o, _) =>
    if v < o then o else o + BitVec.ofNat 64 (slotLen (bit (s.rget ⟨.fhpTtw, l, w⟩) 42))).foldl
      (fun (b : Option W64) o => match b with | none => some o | some x => if o < x then some o else some x) none

def execTtWindowOpen (port : Fin 24) (w : Fin 64) (s : State) : Res :=
  guarded (match s.ttwAt port.val w.val s.now with | some (o, _) => decide (o = s.now) | none => false)
    (fun s => s.modPort port.val fun p => { p with opened := if p.opened.contains w.val then p.opened else w.val :: p.opened }) s

/-- A window closes (R280): every frame still held in its queues is discarded. -/
def ttClose (l w : Nat) (s : State) : State :=
  let e := s.rget ⟨.fhpTtw, l, w⟩
  let mine (q : Nat) : Bool := decide (bits e 55 48 ≤ q ∧ q ≤ bits e 63 56)
  let n := sumNat (((s.portSt l).queues.filter fun x => mine x.1).map fun x => x.2.length)
  (s.finc ⟨.fhpTxstat, l, 0⟩ 63 48 n).modPort l fun p => { p with queues := p.queues.filter fun x => !mine x.1, opened := p.opened.filter (· ≠ w) }

def execTtWindowClose (port : Fin 24) (w : Fin 64) (s : State) : Res :=
  guarded (let e := s.rget ⟨.fhpTtw, port.val, w.val⟩
           match s.ttwAt port.val w.val (s.now - 1) with | some (_, c) => decide (c = s.now) && bit e 44 | none => false) (ttClose port.val w.val) s

/-! ## Frame starts (R273, R276, R277, R281, R283) -/

/-- The cost of a frame (R276). -/
def State.cost (s : State) (l : Nat) (b : Bytes) : Nat := wireLen b + s.overhead l

def State.qHead (s : State) (l q : Nat) : Option Bytes := (tget [] (s.portSt l).queues q).head?

/-- The FCS of a frame, CRC-32 of IEEE 802.3, as it goes on the wire. -/
def fcsOf (b : Bytes) : Bytes :=
  let crc := b.foldl (fun (c : BitVec 32) x => (List.range 8).foldl (fun (c : BitVec 32) _ => if c.getLsbD 0 then (c >>> 1) ^^^ 0xEDB88320#32 else c >>> 1)
    (c ^^^ x.setWidth 32)) 0xFFFFFFFF#32
  toBytes (~~~crc) 4

/-- The time in 1/16 cy at which a frame started at instant `t` reaches the MDI (R273); ATB_TSCORR has the fronthaul ports. -/
def State.mdi16 (s : State) (l : Nat) (t : W64) : Nat :=
  let v := s.rget ⟨.fhpCfg, l, 0⟩
  16 * t.toNat + (if bits v 2 0 = 1 then s.fget ⟨.atbTscorr, 0, bits v 19 16⟩ 31 16 else 0)

/-- A frame leaves its queue and starts at instant `t`, with its FCS (R270, R304); a type 5 reply, which only q192 of a fronthaul port
carries (R306), takes its transmit time (R289). -/
def State.startFrame (s : State) (l q : Nat) (b : Bytes) (t : W64) : State :=
  let rest := (tget [] (s.portSt l).queues q).tail
  let s := s.modPort l fun p => { p with queues := if rest = [] then tdel q p.queues else tput q rest p.queues,
                                         freeAt := t + BitVec.ofNat 64 (s.occupancy l (s.cost l b)) }
  let b := if q = 192 ∧ bits (s.rget ⟨.fhpCfg, l, 0⟩) 2 0 = 1 then Config.delayStamp b (s.mdi16 l t) else b
  (s.finc ⟨.fhpTxstat, l, 0⟩ 31 0).emit (.frame (fin 24 l) (b ++ fcsOf b) t (s.mdi16 l t))

/-- The scheduler's choice (R283) with the lists as it leaves them: queues without enough deficit are passed, at most `n`. -/
def State.drrPick (s : State) (l : Nat) : Nat → Option (Nat × Bytes) × State
  | 0 => (none, s)
  | n + 1 =>
    let p := s.portSt l
    let p := if p.visiting.isNone ∧ p.cur = [] then { p with cur := p.nxt, nxt := [] } else p
    match p.visiting, p.cur with
    | none, [] => (none, s.modPort l fun _ => p)
    | v, cur =>
      let q := v.getD (cur.headD 0)
      let p : PortSt := if v.isNone then { p with cur := cur.tail, visiting := some q, deficit := tput q (tget 0 p.deficit q + bits (s.qReg l q) 19 0) p.deficit } else p
      let s := s.modPort l fun _ => p
      match s.qHead l q with
      | none => (s.modPort l fun p => { p with visiting := none, deficit := tdel q p.deficit }).drrPick l n
      | some b =>
        if s.cost l b ≤ tget 0 p.deficit q then (some (q, b), s)
        else (s.modPort l fun p => { p with nxt := enq p.nxt q, visiting := none }).drrPick l n

/-- A DRR frame at instant `t`, where no window stands in its way (R281): otherwise the position stays as it is. -/
def State.drrStart (s : State) (l : Nat) (t : W64) : State :=
  match s.drrPick l 2400000 with
  | (none, s) => s
  | (some (q, b), s) =>
    let fits := match s.ttwNext l t with | some o => decide (t + BitVec.ofNat 64 (s.occupancy l (s.cost l b)) ≤ o) | none => true
    if !fits then s
    else
      let c := s.cost l b
      let s := s.startFrame l q b t
      s.modPort l fun p =>
        if (tfind q p.queues).isNone then { p with deficit := tdel q p.deficit, visiting := none }
        else { p with deficit := tput q (tget 0 p.deficit q - c) p.deficit }

/-- EGRESS_FRAME_START: in cycle t - 128 the scheduler takes the frame of instant t (R273). -/
def egressStart (l : Nat) (s : State) : State :=
  let t := s.now + 128
  let up := bit (s.rget ⟨.fhpStatus, l, 0⟩) 0
  let silent := bits (s.rget ⟨.fhpCfg, l, 0⟩) 2 0 = 1 ∧ s.txIdle t
  if !s.isEthernet l ∨ !up ∨ silent ∨ t < (s.portSt l).freeAt then s
  else match s.ttwOpen l t with
    | none => s.drrStart l t
    | some (e, c) =>
      let q := (s.portSt l).queues.find? fun x => decide (bits e 55 48 ≤ x.1 ∧ x.1 ≤ bits e 63 56)
      let go := q.bind fun x => x.2.head?.bind fun b => if t + BitVec.ofNat 64 (s.occupancy l (s.cost l b)) ≤ c then some (x.1, b) else none
      match go with
      | some (q, b) => s.startFrame l q b t
      | none => if bit e 43 then s else s.drrStart l t

def execEgressFrameStart (port : Fin 24) (s : State) : Res := .next (egressStart port.val s)

/-! ## Links (R287) -/

/-- A transition of a port's link, shown on each of its lanes (R288): counted and logged. -/
def linkChange (l : Nat) (up : Bool) (s : State) : State :=
  let v := s.rget ⟨.fhpCfg, l, 0⟩
  let s := ((List.range 24).filter fun k => decide (s.rget ⟨.fhpCfg, k, 0⟩ = v)).foldl
    (fun (s : State) k => s.rset ⟨.fhpStatus, k, 0⟩ (BitVec.ofNat 64 (if up then 3 else 0))) s
  let s := if s.isEthernet l then s.finc ⟨.fhpMisc, l, 0⟩ 47 32 else s
  s.logRec { cls := .ce, unit := 6, code := .rule 287 up.toNat, object := l }

/-- A port of the board, out of reset. -/
def State.isPort (s : State) (l : Nat) : Bool :=
  let v := s.rget ⟨.fhpCfg, l, 0⟩
  bits v 2 0 != 0 && bits v 12 8 == l && !s.boot.dies

/-- PORT_LINK_UP (R287): a link that trains shows its rim die's SerDes reference as present (R528, R539; log entry 111). -/
def portLinkUp (l : Nat) (s : State) : State := (linkChange l true s).fset (creg .pkgClk) (4 + l / 6) (4 + l / 6) 1

def execPortLinkUp (port : Fin 24) (s : State) : Res :=
  guarded (s.isPort port.val && !bit (s.rget ⟨.fhpStatus, port.val, 0⟩) 0) (portLinkUp port.val) s

end Sys2Proof.Machine
end

