-- ==== Sys2Proof/Machine/GatewayWire.lean ====
section
/-!
DEFINITION. Leapfrog packets as the gateway port sends them (R390), credits (R391, R392, R399), and what the peers' finished
requests are answered.
-/
namespace Sys2Proof.Machine

def State.modFab (s : State) (f : Fabric → Fabric) : State := { s with fab := f s.fab }

/-- The least recently used of some entries, each with its stamp. -/
def oldest (l : List (Nat × Nat)) : Option Nat :=
  match l with
  | [] => none
  | x :: r => some (r.foldl (fun a y => if y.2 < a.2 then y else a) x).1

/-! ## Peers (R390, R391) -/

/-- The third word of FAB_LPEER: PSRC [15:0], VALID [16], UNREACH [17]. -/
abbrev lpeerC (p : Fin 64) : Reg := creg .fabLpeerC p.val

def State.gwValid (s : State) (p : Fin 64) : Bool := bit (s.rget (lpeerC p)) 16

/-- FAB_GW.WIN, at least 4. -/
def State.gwWin (s : State) : Nat := Nat.max 4 (s.fget (creg .fabGw) 39 32)

/-! ## Packets (R390) -/

/-- The one's complement sum of 16-bit words, folded (the UDP checksum). -/
def onesSum (b : Bytes) : Nat :=
  let t := sumNat ((chunks 2 b).map beNat)
  let t := t % 65536 + t / 65536
  let t := t % 65536 + t / 65536
  t % 65536 + t / 65536

/-- A packet to a peer, from the destination MAC address to the last line: `lines` are those of the mask, in order. -/
def State.gwPacket (s : State) (p : Fin 64) (type credit status : Nat) (key : BitVec 16) (tag : BitVec 32) (addr : Nat) (mask pmask : BitVec 64) (lines : List Row) : Bytes :=
  let h := beBytes 1 1 ++ beBytes 1 type ++ beBytes 2 (s.fget (creg .fabGw) 31 16) ++ beBytes 2 key.toNat ++ beBytes 2 credit
    ++ beBytes 4 tag.toNat ++ beBytes 2 status ++ beBytes 2 0 ++ beBytes 8 addr ++ beBytes 8 mask.toNat ++ beBytes 8 pmask.toNat ++ beBytes 8 0
  let body := h ++ lines.flatMap fun l => toBytes l 64
  let port := s.fget (creg .fabGw) 15 0
  let len := 8 + body.length
  -- FAB_LPEER holds the address as a number, most significant byte first
  let dst := beBytes 8 (s.rget (creg .fabLpeerB p.val)).toNat ++ beBytes 8 (s.rget (creg .fabLpeerA p.val)).toNat
  let src := beBytes 16 s.board.gwIp
  let udp (sum : Nat) : Bytes := beBytes 2 port ++ beBytes 2 port ++ beBytes 2 len ++ beBytes 2 sum ++ body
  let c := 65535 - onesSum (src ++ dst ++ beBytes 4 len ++ beBytes 4 17 ++ udp 0)
  beBytes 6 s.board.gwNext ++ beBytes 6 s.board.gwMac ++ [0x86, 0xDD]
    ++ beBytes 4 (0x60000000 + Config.ipv6Flow % 2 ^ 28) ++ beBytes 2 len ++ [17] ++ beBytes 1 Config.ipv6Hops ++ src ++ dst
    ++ udp (if c = 0 then 65535 else c)

/-- A packet enters GW0's queue q0 (requests and data) or q1 (responses). -/
def State.gwSend (s : State) (q : Nat) (b : Bytes) : State :=
  match s.lane 3 0 with
  | some l => s.enqueue l.val q b
  | none => s

/-! ## Receive buffers and credits (R392, R399) -/

/-- Receive buffers that a peer's requests hold. -/
def State.gwHeld (s : State) (p : Fin 64) : Nat := (s.fab.gins.filter fun g => decide (g.peer = p)).length

/-- The CREDIT advertised to a peer: a free value between what its 4 guaranteed buffers leave and what the shared ones
and FAB_GW.WIN allow (log entry 39). -/
def State.offer (s : State) (p : Fin 64) : Nat × State :=
  let peers := (List.finRange 64).filter s.gwValid
  let own := 4 - s.gwHeld p
  let taken := sumNat (peers.map fun n => s.gwHeld n - 4)
  let free := 256 - 4 * peers.length - taken
  let hi := Nat.max own (Nat.min s.gwWin (own + free))
  let d := s.draw
  let c := own + (Config.freeBits 16 d.1).toNat % (hi - own + 1)
  (c, d.2.modFab fun f => { f with offered := tput p.val c f.offered })

/-- A response to a peer's request: RDDATA, DONE, or NACK with a reason. -/
def State.gwRespond (s : State) (p : Fin 64) (type status : Nat) (key : BitVec 16) (tag : BitVec 32) (addr : Nat) (mask pmask : BitVec 64) (lines : List Row) : State :=
  let c := s.offer p
  c.2.gwSend 1 (c.2.gwPacket p type c.1 status key tag addr mask pmask lines)

/-- Every request of a peer whose lines are done is answered (R392). -/
def State.gwReplies (s : State) : State :=
  (s.fab.gins.filter fun g => decide (g.left = 0)).foldl (fun (s : State) g =>
    let s := s.modFab fun f => { f with gins := f.gins.filter fun x => decide (x.id ≠ g.id) }
    if g.write then s.gwRespond g.peer 4 0 g.key g.tag g.addr 0 0 []
    else
      let ls := (List.range 64).map fun i => (tfind i g.got).getD (0, true)
      s.gwRespond g.peer 2 0 g.key g.tag g.addr (BitVec.allOnes 64) (ofLanes 64 (ls.map fun l => BitVec.ofBool l.2)) (ls.map (·.1))) s

end Sys2Proof.Machine
end

