-- ==== Sys2Proof/Machine/Clutch.lean ====
section
/-!
DEFINITION. The clutch (R364-R381, R393-R398): frames, the fabric cache, the home's directory, tags, credits, and the
requests of this chip.
-/
namespace Sys2Proof.Machine

/-! ## Members and links (R364-R366, R396) -/

/-- This chip's number, and whether a chip is a member. -/
def State.chip (s : State) : Fin 8 := s.board.chip
def State.member (s : State) (n : Fin 8) : Bool := s.board.members.getLsbD n.val

/-- A bit of FAB_PEER[n]: 1 LINK_UP, 2 DEAD, 3 RELAYED. -/
def State.peerBit (s : State) (n : Fin 8) (i : Nat) : Bool := bit (s.rget (creg .fabPeer n.val)) i
def State.setPeer (s : State) (n : Fin 8) (i : Nat) (b : Bool) : State := s.fset (creg .fabPeer n.val) i i b.toNat

/-- The clutch port toward a member, and the member at a port. -/
def State.portOf (s : State) (n : Fin 8) : Fin 7 := fin 7 (s.fget (creg .fabPeer n.val) 10 8)
def State.chipAt (s : State) (p : Fin 7) : Fin 8 := fin 8 (s.fget (creg .fabClink p.val) 26 24)

/-- The lowest-numbered member whose links to both ends are up (R396): the far one as its HEART says. -/
def State.via (s : State) (n : Fin 8) : Option (Fin 8) :=
  (List.finRange 8).find? fun m => m ≠ n && m ≠ s.chip && s.member m && s.peerBit m 1
    && (match tfind m.val s.fab.heartOf with | some (_, v) => v.getLsbD n.val | none => false)

/-- The frames that wait for the link of a clutch port. -/
def State.linkQ (s : State) (p : Fin 7) : List KMsg := tget [] s.fab.linkQ p.val

/-- A frame is handed to the link of a clutch port. -/
def State.queueK (s : State) (p : Fin 7) (m : KMsg) : State := s.modFab fun f => { f with linkQ := tput p.val (enq (tget [] f.linkQ p.val) m) f.linkQ }

/-- A frame to a member over its direct link; one handed to a link that is down is lost (R395). -/
def State.handK (s : State) (n : Fin 8) (m : KMsg) : State := if s.peerBit n 1 then s.queueK (s.portOf n) m else s

/-- A frame of a line to a member: on the direct link, or relayed (R396). -/
def State.sendK (s : State) (n : Fin 8) (relay : Bool) (type : Nat) (f : KFrame) : State :=
  let hop := if relay then (s.via n).getD n else n
  s.handK hop (.line type { f with dst := n, relay := relay && decide (hop ≠ n) })

/-- The virtual channel that a frame travels on (R366). -/
def KMsg.channel : KMsg → Nat
  | .line type _ => if type ≤ 3 then 0 else if type = 6 ∨ type = 7 then 1 else 2
  | _ => 3

/-- TYPE, and the fields of a frame but for those of its line (R365). -/
def KMsg.type : KMsg → Nat
  | .line type _ => type
  | .time _ _ => 12
  | .heart _ => 13
  | .bar _ _ => 14
  | .twin .. => 15
  | .placement _ _ => 15

/-- The frame of a line, from `src` to `dst`, with nothing in it. -/
def kframe (src dst : Fin 8) (tag : BitVec 32) (line : Nat) : KFrame :=
  { src := src, dst := dst, hasData := false, poison := false, relay := false, key := 0, tag := tag, addr := 64 * line, data := 0 }

/-- The 64 bytes of a frame's DATA: a line, or TIME, HEART, BAR or TWIN content, whose layout the spec does not give. -/
def KMsg.content (m : KMsg) (sent : W64) : Bytes :=
  match m with
  | .line type f => if f.hasData then toBytes f.data 64 else padTo 64 (Config.serial (16 + type) [f.addr % 64, f.excl.toNat, f.forHome.toNat])
  | .heart v => padTo 64 (Config.serial 29 [v.toNat])
  | .time back locked => padTo 64 (Config.serial 28 [sent.toNat, back.isSome.toNat, (back.getD 0).toNat, locked.toNat])
  | .bar b kind => padTo 64 (Config.serial 30 [b.val, kind.val])
  | .twin k t n r h => padTo 64 (Config.serial 31 (k.toNat :: t.val :: n :: (r.map (·.toNat) ++ h.flatMap fun x => [x.1.toNat, x.2.toNat])))
  | .placement e t => padTo 64 (Config.serial 32 [e.toNat, t.val])

/-- The 96 bytes of a frame to `peer` that leaves in cycle `sent` with SEQ and ACKSEQ (R365). -/
def KMsg.bytes (m : KMsg) (chip peer : Fin 8) (sent : W64) (seq ack : Nat) : Bytes :=
  let f : KFrame := match m with | .line _ f => f | _ => kframe chip peer 0 0
  let b := leBytes 1 m.type ++ leBytes 1 (m.channel + 4 * f.hasData.toNat + 8 * f.poison.toNat + 16 * f.relay.toNat) ++ leBytes 2 (seq % 4096)
    ++ leBytes 2 (ack % 4096) ++ leBytes 1 f.src.val ++ leBytes 1 f.dst.val ++ leBytes 2 f.key.toNat ++ leBytes 2 0 ++ leBytes 4 f.tag.toNat
    ++ leBytes 8 (f.addr / 64 * 64) ++ m.content sent ++ leBytes 4 0
  b ++ fcsOf b

/-- The oldest frame of the highest-numbered channel that has one (R366). -/
def nextFrame (l : List KMsg) : Option KMsg :=
  [3, 2, 1, 0].findSome? fun c => l.find? fun m => decide (m.channel = c)

/-- A clutch port sends its next frame, one every 4 cycles (R365). -/
def State.sendLink (s : State) (p : Fin 7) : State :=
  match nextFrame (s.linkQ p) with
  | none => s
  | some m =>
    if s.now < tget 0 s.fab.linkFree p.val then s
    else
      let seq := tget 0 s.fab.seqOut p.val
      let rest := (s.linkQ p).erase m
      (s.modFab fun f => { f with
        linkQ := tset [] f.linkQ p.val rest, linkFree := tput p.val (s.now + 4) f.linkFree, seqOut := tput p.val (seq + 1) f.seqOut }).emit
        (.krovbem p s.now (s.now + 304 + BitVec.ofNat 64 (s.fget (creg .fabClink p.val) 21 16)) m
          (m.bytes s.chip (s.chipAt p) s.now seq (tget 0 s.fab.seqIn p.val)))

def State.sendLinks (s : State) : State := (List.finRange 7).foldl (fun (s : State) p => s.sendLink p) s

/-- A frame arrives in order on a clutch port: the next ACKSEQ says so (R365). -/
def State.linkGot (s : State) (p : Fin 7) : State := s.modFab fun f => { f with seqIn := tput p.val (tget 0 f.seqIn p.val + 1) f.seqIn }

/-! ## Clutch addresses (R367) -/

/-- The number of a clutch line: the home in the bits above the home-local line. -/
def cline (home : Fin 8) (line : Nat) : Nat := 2 ^ 34 * home.val + line
def clineHome (c : Nat) : Fin 8 := fin 8 (c / 2 ^ 34)
def clineLocal (c : Nat) : Nat := c % 2 ^ 34

/-- The home and home-local line of a clutch address; none for an address fault. -/
def State.clutchLine (s : State) (a : Nat) : Option (Fin 8 × Nat) :=
  if a < 0x100000000000 ∨ 0x180000000000 ≤ a then none
  else
    let o := a - 0x100000000000
    let h : Fin 8 := fin 8 (o / 2 ^ 40)
    if s.member h ∧ o % 2 ^ 40 < 0x2400000000 then some (h, o % 2 ^ 40 / 64) else none

/-- An address fault of an owner (R367, code 0x0304). -/
def State.addrFault (s : State) (owner : Nat) : State :=
  (s.finc (creg .fabStat) 31 16).logRec { cls := .ce, unit := 9, code := .num 0x0304, owners := ownersOf owner, limit := perX 9 owner }

/-! ## The fabric cache (R372, R374, R376, R379) -/

/-- A copy leaves the cache: a write-back of M or O waits for its ACK; E and S leave with EV. -/
def State.evict (s : State) (c : Nat) : State :=
  match tfind c s.fab.cache with
  | none => s
  | some x =>
    let h := clineHome c
    let s := s.modFab fun f => { f with cache := tdel c f.cache }
    let fr := { kframe s.chip h 0 (clineLocal c) with key := x.key }
    if x.st = .m ∨ x.st = .o then
      (s.modFab fun f => { f with wb := tput c (x.data, x.poison) f.wb }).sendK h false 4 { fr with hasData := true, data := x.data, poison := x.poison }
    else s.sendK h false 5 fr

/-- The ways of a set (R374). -/
def waysOf (t : Tab CLine) (c : Nat) : List (Nat × CLine) := t.filter fun e => decide (e.1 % 65536 = c % 65536)

/-- A line fills the cache, in the place of the least recently used one of a full set. -/
def State.fill (s : State) (c : Nat) (x : CLine) : State :=
  let ws := (waysOf s.fab.cache c).filter fun e => decide (e.1 ≠ c)
  let s := if ws.length < 16 then s else match oldest (ws.map fun e => (e.1, e.2.stamp)) with
    | some v => s.evict v
    | none => s
  s.modFab fun f => { f with cache := tput c { x with stamp := f.clock } f.cache, clock := f.clock + 1 }

/-- The copy of a line under a key; one under another key is evicted first (R372). -/
def State.lookup (s : State) (c : Nat) (key : BitVec 16) : Option CLine × State :=
  match tfind c s.fab.cache with
  | none => (none, s)
  | some x =>
    if x.key = key then
      (some x, s.modFab fun f => { f with cache := tput c { x with stamp := f.clock } f.cache, clock := f.clock + 1 })
    else (none, s.evict c)

/-! ## Whether memory may be reached (R264) -/

/-- A line under scrub. -/
def State.scrubbed (s : State) (line : Nat) : Bool :=
  match s.mem.scrub with
  | some (ws, _) => ws.any fun w => decide (w.1 ≤ line ∧ line < w.1 + w.2)
  | none => false

/-- Whether the fabric agent's read or write of a line can take its slot now (R252; log entry 23). -/
def State.fabOpen (s : State) (line : Nat) (write : Bool) : Bool := s.canMove [(line, write)]

/-- A line of DRAM read by the fabric agent, and written by it, in a slot of the channel (R252). -/
def State.fabRead (s : State) (line : Nat) : RdRow × State := (s.charge .fabric [(line, false)]).readLine line reqFabric
def State.fabWrite (s : State) (line : Nat) (d : Row) (p : Bool) : State := (s.charge .fabric [(line, true)]).writeLine line d p

/-! ## What a request of this chip belongs to -/

/-- A read line reaches what it was read for. -/
def State.whyRead (s : State) (w : Why) (d : Row) (p : Bool) : State :=
  match w with
  | .frt id i => s.modFab fun f => { f with frts := mapIf (fun r => decide (r.id = id)) (fun r => { r with got := tput i (d, p) r.got }) f.frts }
  | .gwIn id i => s.modFab fun f => { f with gins := mapIf (fun g => decide (g.id = id)) (fun g => { g with got := tput i (d, p) g.got, left := g.left - 1 }) f.gins }
  | .mirror _ _ => s

/-- A write is complete. -/
def State.whyAck (s : State) (w : Why) : State :=
  match w with
  | .frt id _ => s.modFab fun f => { f with frts := mapIf (fun r => decide (r.id = id)) (fun r => { r with acked := r.acked + 1 }) f.frts }
  | .gwIn id _ => s.modFab fun f => { f with gins := mapIf (fun g => decide (g.id = id)) (fun g => { g with left := g.left - 1 }) f.gins }
  | .mirror _ _ => s

/-- The owner on whose behalf a request was made (R369). -/
def State.whyOwner (s : State) (w : Why) : Nat :=
  match w with
  | .frt id _ => ((s.fab.frts.find? fun r => decide (r.id = id)).map (·.owner)).getD 0x7F
  | .mirror n _ => n.val
  | .gwIn _ _ => 0x7F

/-- A credit for a home's entries returns (R380). -/
def State.credit (s : State) (n : Fin 8) : State := s.modFab fun f => { f with used := tset 0 f.used n.val (tget 0 f.used n.val - 1) }

/-- The request of a tag to a home ends: it leaves the list, with its credit where no ACCEPT has come. -/
def State.endReq (s : State) (o : COut) : State :=
  let s := s.modFab fun f => { f with outs := f.outs.filter fun x => decide (x ≠ o) }
  if o.accepted ∨ o.dst = s.chip then s else s.credit o.dst

/-- The request that an answer belongs to: by its tag and line. -/
def State.reqOf (s : State) (tag : BitVec 32) (line : Nat) (p : COut → Bool) : Option COut :=
  s.fab.outs.find? fun o => decide (o.sent.map (·.1) = some tag ∧ o.line = line) && p o

/-- DATA ends a read or an owned write at its source (R376, R377): the copy is kept, unless it is poisoned. -/
def State.gotData (s : State) (o : COut) (d : Row) (p excl : Bool) : State :=
  let s := s.endReq o
  let c := cline o.dst o.line
  match o.kind with
  | .rd =>
    let s := if o.dst = s.chip ∨ p then s else s.fill c { st := if excl then .e else .s, key := o.key, data := d }
    s.whyRead o.why d p
  | _ =>
    if o.dst = s.chip then s.whyAck o.why
    else if excl then (s.fill c { st := .m, key := o.key, data := o.data, poison := o.poison }).whyAck o.why
    -- a duplicate's answer that grants no M (R394): the write asks again
    else s.modFab fun f => { f with outs := enq f.outs { o with sent := none, reissued := false, accepted := false, held := false } }

/-- ACK ends a write. -/
def State.gotAck (s : State) (o : COut) : State := (s.endReq o).whyAck o.why

/-! ## The home (R370, R371, R375, R377-R381, R394) -/

/-- The key of a source's tags: a chip n as n, a peer p as 8 + p. -/
def originKey : Origin → Nat
  | .chip n => n.val
  | .gw p => 8 + p.val

/-- Whether a region entry admits a request (R370). -/
def regionAdmits (v : W64) (q : HomeReq) : Bool :=
  bit v 19 && decide (bits v 7 0 = q.line / 2 ^ 24 ∧ bits v 47 32 = q.key.toNat ∧ q.key ≠ 0)
  && (match q.org with | .chip n => bit v (8 + n.val) | .gw _ => bit v 16)
  && (match q.kind with | .rd => bit v 17 | _ => bit v 18)

/-- A region entry as it counts now: a write that widened it in this cycle does not count yet (R373). -/
def State.regionNow (s : State) (i : Nat) (v : W64) : W64 :=
  match tfind i s.fab.regNew with
  | some (c, old) => if c = s.now then old else v
  | none => v

def State.admits (s : State) (q : HomeReq) : Bool := s.regs.any fun e => decide (e.1.name = .fabReg) && regionAdmits (s.regionNow e.1.idx e.2) q

/-- A region entry is widened: its old value counts up to the end of the cycle (R373). -/
def State.widenRegion (s : State) (i : Nat) (v : W64) : State :=
  let old := s.regionNow i (s.rget (creg .fabReg i))
  (s.rset (creg .fabReg i) v).modFab fun f => { f with regNew := tput i (s.now, old) f.regNew }

/-- The answer to a read or an owned write: DATA to a chip, or the end of a request of this chip. -/
def State.answer (s : State) (q : HomeReq) (d : Row) (p excl : Bool) : State :=
  let own (s : State) : State := match s.reqOf q.tag q.line fun o => decide (o.dst = s.chip) with
    | some o => s.gotData o d p excl
    | none => s
  match q.org with
  | .gw _ => own s
  | .chip n => if n = s.chip then own s
    else s.sendK n q.relay 8 { kframe s.chip n q.tag q.line with hasData := true, data := d, poison := p, excl := excl, key := q.key }

/-- The answer to a write: ACK. -/
def State.answerAck (s : State) (q : HomeReq) : State :=
  let own (s : State) : State := match s.reqOf q.tag q.line fun o => decide (o.dst = s.chip) with
    | some o => s.gotAck o
    | none => s
  match q.org with
  | .gw _ => own s
  | .chip n => if n = s.chip then own s else s.sendK n q.relay 9 (kframe s.chip n q.tag q.line)

/-- NACK with a reason; a request of this chip ends without its effect. -/
def State.answerNack (s : State) (q : HomeReq) (reason : Nat) : State :=
  let own (s : State) : State := match s.reqOf q.tag q.line fun o => decide (o.dst = s.chip) with
    | some o => s.gotAck o
    | none => s
  match q.org with
  | .gw _ => own s
  | .chip n => if n = s.chip then own s else s.sendK n q.relay 10 { kframe s.chip n q.tag q.line with addr := 64 * q.line + reason }

/-- A refused request: a read is answered with poison, a write with NACK (R371, R264). -/
def State.refuseReq (s : State) (q : HomeReq) (reason : Nat) : State :=
  if q.kind = .rd then s.answer q 0 true false else s.answerNack q reason

/-- The chip of a request that may hold the line: a remote one. -/
def State.remoteOf (s : State) (q : HomeReq) : Option (Fin 8) :=
  match q.org with
  | .chip n => if n = s.chip then none else some n
  | .gw _ => none

/-- The directory entry of a line; an absent one has no holder. -/
def State.dirOf (s : State) (line : Nat) : DirEnt := tget {} s.fab.dir line

def State.setDir (s : State) (line : Nat) (e : DirEnt) : State :=
  s.modFab fun f =>
    if e.holders = 0 then { f with dir := tdel line f.dir }
    else { f with dir := tput line { e with stamp := f.clock } f.dir, clock := f.clock + 1 }

/-- Frames to the chips of a set. -/
def State.toAll (s : State) (v : BitVec 8) (type : Nat) (f : Fin 8 → KFrame) : State :=
  (List.finRange 8).foldl (fun s n => if v.getLsbD n.val then s.sendK n false type (f n) else s) s

/-- A line becomes busy until the chips of `w` have answered. -/
def State.makeBusy (s : State) (line : Nat) (q : Option HomeReq) (w : BitVec 8) : State :=
  s.modFab fun f => { f with busy := enq f.busy { line := line, req := q, wait := w } }

/-- The recall of a line: INV to every holder (R373, R375). -/
def State.recallLine (s : State) (line : Nat) : State :=
  let v := (s.dirOf line).holders
  (s.makeBusy line none v).toAll v 7 fun n => kframe s.chip n 0 line

def State.isBusy (s : State) (line : Nat) : Bool := s.fab.busy.any fun b => decide (b.line = line)

/-- What the end of a request's service does in DRAM: nothing where an owner's data serve it, else a read, or a write (true). -/
def State.finishOp (s : State) (q : HomeReq) (got : Option (Row × Bool)) : Option Bool :=
  match q.kind with
  | .wr => some true
  | .rd => if got.isSome then none else some false
  | .rdx => if (s.remoteOf q).isNone then some true else if got.isSome then none else some false

/-- The order of sources among the requests of a cycle: chips in ascending order, then the gateway (R378). -/
def Origin.rank : Origin → Nat
  | .chip n => n.val
  | .gw _ => 8

/-- A request joins those that wait, in arrival order; those of one cycle in the order of their sources (R378). -/
def joinWaiting (l : List HomeReq) (q : HomeReq) : List HomeReq :=
  let now := l.filter fun x => decide (x.at_ = q.at_)
  l.filter (fun x => decide (x.at_ ≠ q.at_)) ++ now.filter (fun x => decide (x.org.rank ≤ q.org.rank)) ++ q :: now.filter fun x => decide (q.org.rank < x.org.rank)

def State.waitReq (s : State) (q : HomeReq) : State := s.modFab fun f => { f with waiting := joinWaiting f.waiting { q with at_ := s.now } }

/-- A request whose memory operation no channel accepts yet waits before the others of its line, its holders but the requester
cleared (R252, R378). -/
def State.putOff (s : State) (q : HomeReq) : State :=
  let ent := s.dirOf q.line
  let mine : BitVec 8 := match s.remoteOf q with | some n => ent.holders &&& BitVec.ofNat 8 (2 ^ n.val) | none => 0
  let s := if q.kind = .rd then s else s.setDir q.line { ent with holders := mine, owner := none }
  s.modFab fun f => { f with waiting := q :: f.waiting }

/-- The end of a request's service, when every answer is there and its line can move (R377): `got` is the data that an owner sent. -/
def State.finishNow (s : State) (q : HomeReq) (got : Option (Row × Bool)) : State :=
  let ent := s.dirOf q.line
  match q.kind with
  | .rd =>
    let r := match got with
      | some (d, p) => (({ data := d, poison := p } : RdRow), s)
      | none => s.fabRead q.line
    let s := r.2
    match s.remoteOf q with
    | some n =>
      let alone := decide (ent.holders &&& ~~~(BitVec.ofNat 8 (2 ^ n.val)) = 0)
      let s := s.setDir q.line { ent with holders := putBit ent.holders n.val true, owner := if alone then some n else ent.owner }
      s.answer q r.1.data r.1.poison alone
    | none => s.answer q r.1.data r.1.poison false
  | .rdx =>
    match s.remoteOf q with
    | some n =>
      let r := match got with
        | some (d, p) => (({ data := d, poison := p } : RdRow), s)
        | none => s.fabRead q.line
      (r.2.setDir q.line { holders := BitVec.ofNat 8 (2 ^ n.val), owner := some n }).answer q r.1.data r.1.poison true
    | none =>
      -- the home holds no cache state for its own line: the owned write is made in DRAM
      ((s.setDir q.line {}).fabWrite q.line q.data q.poison).answer q q.data q.poison true
  | .wr => ((s.setDir q.line {}).fabWrite q.line q.data q.poison).answerAck q

/-- The end of a request's service, once its line can move (R252). -/
def State.finish (s : State) (q : HomeReq) (got : Option (Row × Bool)) : State :=
  if (s.finishOp q got).any fun w => !s.fabOpen q.line w then s.putOff q else s.finishNow q got

/-- A request is served: at once, or once the messages it needs are answered (R377). -/
def State.serve (s : State) (q : HomeReq) : State :=
  let ent := s.dirOf q.line
  let me := s.remoteOf q
  let others : BitVec 8 := match me with | some n => putBit ent.holders n.val false | none => ent.holders
  let full := me.isSome && q.kind != .wr && (tfind q.line s.fab.dir).isNone
    && decide (16 ≤ (s.fab.dir.filter fun e => decide (e.1 % 65536 = q.line % 65536)).length)
  if full then
    -- a full set: the least recently used entry is recalled, and the request waits for its place (R375)
    let ways := (s.fab.dir.filter fun e => decide (e.1 % 65536 = q.line % 65536) && !s.isBusy e.1).map fun e => (e.1, e.2.stamp)
    let going := s.fab.busy.any fun b => b.req.isNone && decide (b.line % 65536 = q.line % 65536)
    let s := s.waitReq q
    if going then s else match oldest ways with
      | some v => (s.finc (creg .fabStat2) 15 0).recallLine v
      | none => s
  else match q.kind with
    | .rd => match ent.owner with
      | some o =>
        if some o = me then s.finish q none
        else
          -- the owner sends DATA to the requester, whose number and tag the FWD carries
          let src := me.getD s.chip
          (s.makeBusy q.line (some q) (BitVec.ofNat 8 (2 ^ o.val))).sendK o false 6 { kframe src o q.tag q.line with key := q.key }
      | none => s.finish q none
    | .rdx =>
      if others = 0 then s.finish q none
      else (s.makeBusy q.line (some q) others).toAll others 7 fun n => kframe s.chip n q.tag q.line
    | .wr =>
      if ent.holders = 0 then s.finish q none
      else (s.makeBusy q.line (some q) ent.holders).toAll ent.holders 7 fun n => kframe s.chip n q.tag q.line

/-- What the tag of a request says (R394): 0 to apply, 1 a duplicate, 2 stale. -/
def SrcTags.judge (t : SrcTags) (tag : BitVec 32) : Nat :=
  let ahead := (tag - t.high).toNat
  if 0 < ahead ∧ ahead < 2 ^ 31 then 0
  else if (t.high - tag).toNat < 1024 then (if t.applied.contains tag then 1 else 0)
  else 2

/-- The tags with one applied. -/
def SrcTags.apply (t : SrcTags) (tag : BitVec 32) : SrcTags :=
  let ahead := (tag - t.high).toNat
  let h := if 0 < ahead ∧ ahead < 2 ^ 31 then tag else t.high
  { high := h, applied := (tag :: t.applied).filter fun x => decide ((h - x).toNat < 1024) }

def State.markTag (s : State) (k : Nat) (tag : BitVec 32) : State :=
  s.modFab fun f => { f with tags := tput k ((tget {} f.tags k).apply tag) f.tags }

/-- The entries of a home that a source's requests hold (R380). -/
def State.entriesOf (s : State) (o : Origin) : Nat :=
  let same (q : HomeReq) : Bool := match q.org, o with
    | .chip a, .chip b => decide (a = b)
    | .gw _, .gw _ => true
    | _, _ => false
  (s.fab.busy.filter fun b => match b.req with | some q => same q | none => false).length + (s.fab.waiting.filter same).length

/-- A request reaches its home (R367, R370, R371, R378, R380, R381, R394). `owner` is the local owner of a request of this
chip, for records. -/
def State.homeAccept (s : State) (q : HomeReq) (owner : Nat) : State :=
  let s0 := s
  let k := originKey q.org
  let local_ := (s.remoteOf q).isNone
  if memLines ≤ q.line then
    -- an address fault: a read returns poison, a write is dropped
    let s := s.addrFault owner
    if q.kind = .rd then s.answer q 0 true false else if local_ then s.answerNack q 0 else s
  else if s.scrubbed q.line then
    (s.logRec { cls := .ce, unit := 9, code := .num 0x0306, object := k, limit := perX 10 k }).refuseReq q 4
  else if !s.admits q then
    let s := s.finc (creg .fabStat) 15 0
    let s := if local_ then s.logRec { cls := .ce, unit := 9, code := .num 0x0303, owners := ownersOf owner, limit := perX 9 owner } else s
    let s := s.logRec { cls := .ce, unit := 9, code := .num 0x0303, owners := [.management], object := k, limit := perX 11 k }
    s.refuseReq q 1
  else
    let j := if local_ then 0 else (tget {} s.fab.tags k).judge q.tag
    let accept (s : State) : State := match s.remoteOf q with
      | some n => s.sendK n q.relay 11 (kframe s.chip n q.tag q.line)
      | none => s
    if j = 2 then
      ((s.finc (creg .fabStat) 63 48).logRec { cls := .ce, unit := 9, code := .num 0x0308, object := k, limit := perX 10 k }).answerNack q 3
    else if j = 1 then
      let s := s.finc (creg .fabStat) 47 32
      let ent := s.dirOf q.line
      match q.kind with
      | .wr => s.answerAck q
      | _ =>
        -- another chip owns the line: its data are the current ones (R377)
        if ent.owner.any fun o => decide (some o ≠ s.remoteOf q) then
          let q : HomeReq := { q with kind := .rd }
          if s.isBusy q.line ∨ s.fab.waiting.any (fun w => w.line = q.line) then (accept s).waitReq q else (accept s).serve q
        else if s.fab.busy.any (fun b => (b.req.map (·.tag)) = some q.tag ∧ b.line = q.line) ∨ s.fab.waiting.any (fun w => w.tag = q.tag ∧ w.line = q.line) then accept s
        else if !s.fabOpen q.line false then s0
        else
          let r := s.fabRead q.line
          r.2.answer q r.1.data r.1.poison (match s.remoteOf q with | some n => decide (ent.owner = some n) | none => false)
    else if 128 ≤ s.entriesOf q.org ∧ !local_ then
      (s.logRec { cls := .ce, unit := 9, code := .num 0x0305, object := k, limit := perX 10 k }).answerNack q 2
    else
      let s := if local_ then s else s.markTag k q.tag
      let s := accept s
      if s.isBusy q.line ∨ s.fab.waiting.any (fun w => w.line = q.line) then s.waitReq q else s.serve q

/-- An answer to the home's message on a busy line (R378): when the last one is there, the service ends. A recalled line's data that
no channel accepts yet wait, unless `force` (log entry 23). -/
def State.homeAnswer (s : State) (n : Fin 8) (line : Nat) (data : Option (Row × Bool)) (excl : Bool) (force : Bool := false) : State :=
  match s.fab.busy.find? fun b => decide (b.line = line) && b.wait.getLsbD n.val with
  | none => s
  | some b =>
    let b' := { b with wait := putBit b.wait n.val false, got := match data with | some d => some d | none => b.got }
    let put (s : State) : State := s.modFab fun f => { f with busy := replaceFirst (fun x => decide (x = b)) b' f.busy }
    let drop (s : State) : State := s.modFab fun f => { f with busy := (f.busy.filter fun x => decide (x ≠ b)) }
    let ent := s.dirOf line
    match b.req with
    | some q =>
      if q.kind = .rd then
        let s := drop s
        -- the owner had the line in E: it is cleared as owner
        let s := if excl ∨ ent.owner ≠ some n then s.setDir line { ent with owner := none } else s
        match s.remoteOf q with
        | some m =>
          -- the owner's DATA went to the requester
          let e := s.dirOf line
          s.setDir line { e with holders := putBit e.holders m.val true }
        | none => s.finish q b'.got
      else if b'.wait = 0 then
        let s := drop s
        s.finish q b'.got
      else put s
    | none =>
      if b'.wait = 0 then
        if b'.got.isSome && !force && !s.fabOpen line true then s
        else
        let s := (drop s).setDir line {}
        let s := match b'.got with | some (d, p) => s.fabWrite line d p | none => s
        s.modFab fun f => { f with callBack := f.callBack.map fun r => { r with lines := r.lines.filter fun l => decide (l ≠ line) } }
      else put s

/-! ## Sending requests (R380, R393, R396, R398) -/

/-- The source of a request at its home: this chip, or the peer whose request it applies (R370, R392). -/
def State.orgOf (s : State) (o : COut) : Origin :=
  match o.why with
  | .gwIn id _ => .gw (((s.fab.gins.find? fun g => decide (g.id = id)).map (·.peer)).getD 0)
  | _ => .chip s.chip

/-- Whether two requests are of one task. -/
def State.sameTask (s : State) (a b : COut) : Bool :=
  let task (o : COut) : Option (LTile × CtxNo) := match o.why with
    | .frt id _ => (s.fab.frts.find? fun r => decide (r.id = id)).map fun r => (r.tile, r.ctx)
    | _ => none
  (task a).isSome && task a == task b

/-- In ordered mode a task's request to a home waits for its earlier ones there, so that they are applied in order (R386). -/
def State.inTurn (s : State) (o : COut) : Bool :=
  !s.ten.ordered || (s.fab.outs.takeWhile fun x => decide (x ≠ o)).all fun x => !(decide (x.dst = o.dst) && s.sameTask x o)

/-- Whether a waiting request may be sent now: a credit, at most 16 of one line, tags within 1,024, a live target. -/
def State.sendable (s : State) (o : COut) : Bool :=
  let out := s.fab.outs.filter fun x => decide (x.dst = o.dst) && x.sent.isSome
  let next := tget 1 s.fab.nextTag o.dst.val
  o.sent.isNone && !s.peerBit o.dst 2
  && (if o.dst = s.chip then decide (s.entriesOf (s.orgOf o) < 128) else decide (tget 0 s.fab.used o.dst.val < 128)) && s.inTurn o
  && decide ((out.filter fun x => decide (x.line = o.line)).length < 16)
  && (out.all fun x => match x.sent with | some (t, _) => decide ((next - t).toNat < 1024) | none => true)

/-- The frame of a request. -/
def COut.frame (o : COut) (src : Fin 8) (tag : BitVec 32) : KFrame :=
  { kframe src o.dst tag o.line with key := o.key, hasData := decide (o.kind = .wr), data := if o.kind = .wr then o.data else 0, poison := o.poison && decide (o.kind = .wr) }

def kreqType : KReq → Nat
  | .rd => 1 | .rdx => 2 | .wr => 3

/-- The request as its home sees it. -/
def COut.home (o : COut) (org : Origin) (tag : BitVec 32) : HomeReq :=
  { kind := o.kind, org := org, tag := tag, key := o.key, line := o.line, data := o.data, poison := o.poison }

/-- A request is sent with the next tag of its home; one to this chip's own memory goes to the home at once. -/
def State.sendReq (s : State) (o : COut) : State :=
  let tag := tget 1 s.fab.nextTag o.dst.val
  let o' := { o with sent := some (tag, s.now) }
  let s := s.modFab fun f => { f with nextTag := tput o.dst.val (tag + 1) f.nextTag, outs := replaceFirst (fun x => decide (x = o)) o' f.outs }
  if o.dst = s.chip then s.homeAccept (o'.home (s.orgOf o) tag) (s.whyOwner o.why)
  else
    let s := s.modFab fun f => { f with used := tput o.dst.val (tget 0 f.used o.dst.val + 1) f.used }
    s.sendK o.dst false (kreqType o.kind) (o'.frame s.chip tag)

/-- Every waiting request that may be sent is sent, oldest first. -/
def State.pumpK : Nat → State → State
  | 0, s => s
  | n + 1, s => match s.fab.outs.find? s.sendable with
    | some o => State.pumpK n (s.sendReq o)
    | none => s

/-- A request of this chip waits to be sent. -/
def State.request (s : State) (o : COut) : State := s.modFab fun f => { f with outs := enq f.outs o }

/-- A clutch read of a line under a key (R376): from the cache, or from the home. -/
def State.clutchRead (s : State) (h : Fin 8) (line : Nat) (key : BitVec 16) (why : Why) : State :=
  let rd (s : State) : State := s.request { dst := h, kind := .rd, line := line, key := key, why := why }
  if h = s.chip then rd s
  else match s.lookup (cline h line) key with
    | (some x, s) => s.whyRead why x.data x.poison
    | (none, s) => rd s

/-- A posted whole-line write (WR). -/
def State.clutchWrite (s : State) (h : Fin 8) (line : Nat) (key : BitVec 16) (d : Row) (p : Bool) (why : Why) : State :=
  s.request { dst := h, kind := .wr, line := line, key := key, data := d, poison := p, why := why }

/-- An owned write: in the cache in M or E, else after RDX (R376). -/
def State.clutchOwn (s : State) (h : Fin 8) (line : Nat) (key : BitVec 16) (d : Row) (p : Bool) (why : Why) : State :=
  let rdx (s : State) : State := s.request { dst := h, kind := .rdx, line := line, key := key, data := d, poison := p, why := why }
  if h = s.chip then rdx s
  else match s.lookup (cline h line) key with
    | (some x, s) =>
      if x.st = .m ∨ x.st = .e then (s.fill (cline h line) { x with st := .m, data := d, poison := p }).whyAck why else rdx s
    | (none, s) => rdx s

end Sys2Proof.Machine
end

