-- ==== Sys2Proof/Machine/Remote.lean ====
section
/-!
DEFINITION. The fabric transfers of tenant tasks (R382-R385), this gateway's own requests, landing and write-combining
buffers (R387-R389, R391).
-/
namespace Sys2Proof.Machine

/-! ## Gateway requests (R387-R391) -/

/-- The peer and remote address of a block of the Leapfrog window; none for an address fault (R387). -/
def State.gwTarget (s : State) (block : Nat) : Option (Fin 64 × Nat) :=
  let a := 4096 * block
  if a < 0x200000000000 ∨ 0x400000000000 ≤ a then none
  else
    let o := a - 0x200000000000
    let v := s.rget (creg .fabLmap (o / 2 ^ 36))
    if bit v 6 then some (fin 64 (bits v 5 0), bits v 19 8 * 2 ^ 36 + o % 2 ^ 36) else none

/-- A request to a peer waits to be sent. -/
def State.gwRequest (s : State) (g : GOut) : State := s.modFab fun f => { f with gouts := enq f.gouts g }

/-- A write-combining buffer is flushed as one WRITE packet (R389). -/
def State.flush (s : State) (b : CombBuf) : State :=
  let s := s.modFab fun f => { f with comb := f.comb.filter fun x => decide (x ≠ b) }
  match s.gwTarget b.block with
  | some (p, _) => s.gwRequest { peer := p, write := true, block := b.block, key := b.key, owner := b.owner, lines := b.lines }
  | none => s.addrFault b.owner

/-- A line written through the gateway (R389): its buffer is the least recently used one where none is free. -/
def State.gwWrite (s : State) (key : BitVec 16) (owner block i : Nat) (d : Row) : State :=
  let here (b : CombBuf) : Bool := decide (b.key = key ∧ b.block = block)
  let s := if s.fab.comb.any here ∨ s.fab.comb.length < 256 then s
    else match oldest ((List.range s.fab.comb.length).map fun k => (k, (s.fab.comb[k]?).elim 0 (·.stamp))) with
      | some k => match s.fab.comb[k]? with
        | some b => s.flush b
        | none => s
      | none => s
  let b : CombBuf := (s.fab.comb.find? here).getD { key := key, block := block, owner := owner }
  let b := { b with lines := tput i d b.lines, stamp := s.fab.clock }
  let s := s.modFab fun f => { f with comb := enq (f.comb.filter fun x => !here x) b, clock := f.clock + 1 }
  if b.lines.length = 64 then s.flush b else s

/-- A line read through the gateway (R388): from its landing buffer, or with the block's fetch; what has been combined for
the block is flushed first. -/
def State.gwRead (s : State) (key : BitVec 16) (owner block i id k : Nat) : State :=
  let s := match s.fab.comb.find? fun b => decide (b.key = key ∧ b.block = block) with
    | some b => s.flush b
    | none => s
  match s.gwTarget block with
  | none => (s.addrFault owner).whyRead (.frt id k) 0 true
  | some (p, _) =>
    let here (b : LandBuf) : Bool := decide (b.key = key ∧ b.block = block)
    match s.fab.land.find? here with
    | some b =>
      let s := s.modFab fun f => { f with land := mapIf here (fun b => { b with stamp := f.clock }) f.land, clock := f.clock + 1 }
      match b.lines with
      | some ls =>
        let x := ls.getD i (0, true)
        s.whyRead (.frt id k) x.1 x.2
      | none => s.modFab fun f => { f with land := mapIf here (fun b => { b with waits := enq b.waits (id, k) }) f.land }
    | none =>
      let filled := (List.range s.fab.land.length).filterMap fun n => match s.fab.land[n]? with
        | some b => if b.lines.isSome then some (n, b.stamp) else none
        | none => none
      -- with every buffer in flight, the read waits for one
      if 512 ≤ s.fab.land.length ∧ filled = [] then
        s.modFab fun f => { f with landWait := enq f.landWait { key := key, owner := owner, block := block, i := i, id := id, k := k } }
      else
      let s := if s.fab.land.length < 512 then s else match oldest filled with
        | some n => s.modFab fun f => { f with land := f.land.eraseIdx n }
        | none => s
      (s.modFab fun f => { f with land := enq f.land { key := key, block := block, waits := [(id, k)], stamp := f.clock }, clock := f.clock + 1 }).gwRequest
        { peer := p, write := false, block := block, key := key, owner := owner }

/-- A request is sent, or sent again with its tag (R391, R393). -/
def State.gwTransmit (s : State) (g : GOut) (tag : BitVec 32) : State :=
  match s.gwTarget g.block with
  | none => s
  | some (_, a) =>
    if g.write then
      let mask : BitVec 64 := ofLanes 64 ((List.range 64).map fun i => BitVec.ofBool (tfind i g.lines).isSome)
      s.gwSend 0 (s.gwPacket g.peer 3 0 0 g.key tag a mask 0 (g.lines.map (·.2)))
    else s.gwSend 0 (s.gwPacket g.peer 1 0 0 g.key tag a 0 0 [])

/-- Whether a waiting request may be sent: within the peer's credit, after the earlier ones for its block (R384, R391). -/
def State.gwSendable (s : State) (g : GOut) : Bool :=
  let out := s.fab.gouts.filter fun x => decide (x.peer = g.peer) && x.tag.isSome
  let first := s.fab.gouts.find? fun x => decide (x.peer = g.peer ∧ x.block = g.block)
  let next := tget 1 s.fab.nextTag (8 + g.peer.val)
  g.tag.isNone && first == some g && decide (out.length < tget 4 s.fab.credit g.peer.val)
  && out.all fun x => match x.tag with | some t => decide ((next - t).toNat < 1024) | none => true

/-- Every waiting request that may be sent is sent, oldest first. -/
def State.pumpG : Nat → State → State
  | 0, s => s
  | n + 1, s => match s.fab.gouts.find? s.gwSendable with
    | some g =>
      let key := 8 + g.peer.val
      let tag := tget 1 s.fab.nextTag key
      let g' := { g with tag := some tag, first := s.now, last := s.now }
      let s := s.modFab fun f => { f with nextTag := tput key (tag + 1) f.nextTag, gouts := replaceFirst (fun x => decide (x = g)) g' f.gouts }
      State.pumpG n (s.gwTransmit g' tag)
    | none => s

/-! ## Fabric transfers (R382, R383) -/

def frKind (e : Bytes) : Nat := fld e 0 1
def frWin (e : Bytes) : Nat := fld e 1 1 % 2
def frLines (e : Bytes) : Nat := fld e 2 2
def frRemote (e : Bytes) : Nat := fld e 8 8
def frLocal (e : Bytes) : Nat := fld e 16 8
def frWrite (e : Bytes) : Bool := frKind e == 2 || frKind e == 3 || frKind e == 5

/-- FAB_OKEY of an owner tag (R369). -/
def State.okey (s : State) (owner : Nat) : BitVec 16 := BitVec.ofNat 16 (s.fget (creg .fabOkey owner) 15 0)

/-- The local window that an entry names, and its first line there. -/
def State.frBase (s : State) (e : Bytes) : Nat := ((if frWin e = 0 then s.ten.cfg.win0 else s.ten.cfg.win1).lo + frLocal e) / 64

def State.modFrt (s : State) (id : Nat) (f : FrtRun → FrtRun) : State :=
  s.modFab fun x => { x with frts := mapIf (fun r => decide (r.id = id)) f x.frts }

/-- The requests of a read, or of a write whose lines the outbound burst has read. -/
def State.frtRequests (s : State) (r : FrtRun) (data : List RdRow) : State :=
  let e := r.entry
  let key := s.okey r.owner
  (List.range (frLines e)).foldl (fun (s : State) i =>
    let a := frRemote e + 64 * i
    let d := data.getD i {}
    if 4 ≤ frKind e then
      if frWrite e then
        match s.gwTarget (a / 4096) with
        | some _ => (s.gwWrite key r.owner (a / 4096) (a / 64 % 64) d.data).whyAck (.frt r.id i)
        | none => (s.addrFault r.owner).whyAck (.frt r.id i)
      else s.gwRead key r.owner (a / 4096) (a / 64 % 64) r.id i
    else match s.clutchLine a with
      | none => if frWrite e then (s.addrFault r.owner).whyAck (.frt r.id i) else (s.addrFault r.owner).whyRead (.frt r.id i) 0 true
      | some (h, l) =>
        if frKind e = 1 then s.clutchRead h l key (.frt r.id i)
        else if frKind e = 2 then s.clutchWrite h l key d.data d.poison (.frt r.id i)
        else s.clutchOwn h l key d.data d.poison (.frt r.id i)) s

/-- F4-F5 hand the entry to the fabric agent: a read's requests leave; a write waits for its outbound burst (R383). -/
def State.frtHand (s : State) (r : FrtRun) : State :=
  if frWrite r.entry then s.modFrt r.id fun x => { x with stage := 1 }
  else (s.modFrt r.id fun x => { x with stage := 2 }).frtRequests r []

/-- The transfers of a task that the agent has, of at most 64 (R383): those of the present task, or those left by an
earlier one, whose writes still complete at their destinations (R475). -/
def State.frtOut (s : State) (t : LTile) (c : CtxNo) (dead : Bool) : List FrtRun :=
  s.fab.frts.filter fun r => decide (r.tile = t ∧ r.ctx = c) && r.dead == dead && r.stage != 0

/-- A transfer ends: its task's count falls, and the task's next one is handed over. -/
def State.frtEnd (s : State) (r : FrtRun) : State :=
  let s := s.modFab fun f => { f with frts := f.frts.filter fun x => decide (x.id ≠ r.id) }
  let s := if r.dead then s else s.frtCount r.tile r.ctx (· - 1)
  match s.fab.frts.find? fun x => decide (x.tile = r.tile ∧ x.ctx = r.ctx) && x.dead == r.dead && x.stage == 0 with
  | some n => if (s.frtOut r.tile r.ctx r.dead).length < 64 then s.frtHand n else s
  | none => s

/-- Writes whose every line has its ACK end. -/
def State.frtSettle : Nat → State → State
  | 0, s => s
  | n + 1, s => match s.fab.frts.find? fun r => frWrite r.entry && r.stage == 2 && decide (frLines r.entry ≤ r.acked) with
    | some r => State.frtSettle n (s.frtEnd r)
    | none => s

/-- What follows at once from an event of the fabric: waiting requests are sent, finished ones end. -/
def State.pump (s : State) : State :=
  let once (s : State) : State := (State.frtSettle 4096 (State.pumpG 4096 (State.pumpK 8192 s))).gwReplies
  once (once s)

/-- A task's request for an entry of the table is delivered (R382, R383): one that the table lacks ends at once (log entry 40). -/
def State.frtPost (s : State) (t : LTile) (c : CtxNo) (owner e : Nat) : State :=
  match s.ten.frt[e]? with
  | none => (s.addrFault owner).frtCount t c (· - 1)
  | some x =>
    let r : FrtRun := { id := s.fab.nextId, tile := t, ctx := c, owner := owner, entry := x.bytes }
    let full := 64 ≤ (s.frtOut t c false).length
    let s := s.modFab fun f => { f with nextId := f.nextId + 1, frts := enq f.frts r }
    (if full then s else s.frtHand r).pump

/-- FABRIC_BULK_BURST (R339, R341, R383): up to 64 lines between the window and the agent, in slots of one group (R252);
none starts in a close. -/
def bulkBurst (id : Nat) (s : State) : State :=
  match s.fab.frts.find? fun r => decide (r.id = id) with
  | none => s
  | some r =>
    let e := r.entry
    if s.ten.state = .closing ∨ s.ten.state = .closed then s
    else if frWrite e then
      if r.stage ≠ 1 ∨ !s.canMove (span (s.frBase e) (frLines e) false) then s
      else
        let x := ((s.act fun a => { a with dram := a.dram + frLines e }).charge .fabric (span (s.frBase e) (frLines e) false)).readLines reqFabric (s.frBase e) (frLines e)
        ((x.2.modFrt id fun y => { y with stage := 2 }).frtRequests r x.1).pump
    else if r.got.length < frLines e then s
    else if r.dead then (s.frtEnd r).pump
    else if !s.canMove (span (s.frBase e) (frLines e) true) then s
    else
      let s := ((s.act fun a => { a with dram := a.dram + frLines e }).charge .fabric (span (s.frBase e) (frLines e) true)).writeLines (s.frBase e) ((List.range (frLines e)).map fun i => let x := (tfind i r.got).getD (0, true); { data := x.1, poison := x.2 })
      (s.frtEnd r).pump

def execFabricBulkBurst (id : Nat) (s : State) : Res := .next (bulkBurst id s)

/-! ## Fences (R385) -/

/-- Whether a task has a fabric request under way: clutch requests only, or any. -/
def State.frtAny (s : State) (t : LTile) (c : CtxNo) (clutch : Bool) : Bool :=
  let kindOk (e : Bytes) : Bool := !clutch || decide (frKind e ≤ 3)
  (s.fab.frts.any fun r => decide (r.tile = t ∧ r.ctx = c) && !r.dead && kindOk r.entry)
  || s.mesh.flits.any fun f => match f.payload with
    | .post u d _ _ _ _ code _ => decide (u = t ∧ d = c) && bit code 15 && (match s.ten.frt[bits code 14 0]? with | some x => kindOk x.bytes | none => true)
    | _ => false

/-- FENCE_RELEASE (R385): when the condition holds the next operation may issue. FENCE.G first flushes the owner's combined
writes and invalidates its landing buffers, and then waits for the acknowledgements. -/
def fenceRelease (t : LTile) (c : CtxNo) (s : State) : State :=
  match s.ctx t c with
  | none => s
  | some k =>
    let go (s : State) : State := s.modCtx t c fun k => { k with fence := none, notBefore := s.now + 1 }
    match k.fence with
    | some 0 => if s.busy t c then s else go s
    | some 1 => if s.busy t c ∨ s.frtAny t c true then s else go s
    | some 2 =>
      if s.busy t c ∨ s.frtAny t c true then s
      else
        let key := s.okey k.owner
        let s := (s.fab.comb.filter fun b => decide (b.owner = k.owner)).foldl (fun (s : State) b => s.flush b) s
        let s := (s.modFab fun f => { f with land := f.land.filter fun b => !(b.key == key && b.lines.isSome) }).pump
        if s.frtAny t c false ∨ s.fab.gouts.any (fun g => g.write && decide (g.owner = k.owner)) then s else go s
    | _ => s

def execFenceRelease (t : LTile) (c : CtxNo) (s : State) : Res := .next (fenceRelease t c s)

/-- POST_DELIVERY (R209, R382, R462): the event reaches its core; with CODE[15] a tenant's asks for a fabric entry. -/
def postDelivery (id : Nat) (s : State) : State :=
  match s.takeFlit fun f => decide (f.id = id ∧ f.due ≤ s.now) && (match f.payload with | .post .. => true | _ => false) with
  | some (f, s) => match f.payload with
    | .post t c owner entry recIdx kernel code flags =>
      if bit code 15 ∧ 64 ≤ owner then s.frtPost t c owner (bits code 14 0)
      else s.postEvent t owner recIdx entry kernel code flags
    | _ => s
  | none => s

def execPostDelivery (id : Nat) (s : State) : Res := .next (postDelivery id s)

end Sys2Proof.Machine
end

