-- ==== Sys2Proof/Machine/ClutchEvents.lean ====
section
/-!
DEFINITION. The frames of a Krovbem link, the clutch's timeouts, and the death of members (R365, R366, R376-R381, R391,
R395-R400, R407-R410).
-/
namespace Sys2Proof.Machine

/-! ## Frames (R366, R376-R381, R481) -/

/-- A frame that a port receives: one from or to no member is discarded (code 0x0302), one for another chip is relayed. -/
def State.onFrame (s : State) (port : Fin 7) (type : Nat) (f : KFrame) (h : State → State) : State :=
  if s.boot.dies ∨ !s.peerBit (s.chipAt port) 1 then s
  else
  let s := s.linkGot port
  if !f.ctlOk ∨ !s.member f.src ∨ !s.member f.dst ∨ f.addr % 64 ≠ 0 ∨ (f.hasData ≠ decide (type = 3 ∨ type = 4 ∨ type = 8)) then
    s.logRec { cls := .ce, unit := 9, code := .num 0x0302, object := port, limit := perX 12 port }
  else if f.dst ≠ s.chip then
    s.handK f.dst (.line type { f with relay := true })
  else (h s).pump

/-- A request of another chip at this home. -/
def requestOf (f : KFrame) (k : KReq) : HomeReq :=
  { kind := k, org := .chip f.src, tag := f.tag, key := f.key, line := f.addr / 64, data := f.data, poison := f.poison, relay := f.relay }

def execKrovbemRd (port : Fin 7) (f : KFrame) (s : State) : Res := .next (s.onFrame port 1 f fun s => s.homeAccept (requestOf f .rd) 0x7F)
def execKrovbemRdx (port : Fin 7) (f : KFrame) (s : State) : Res := .next (s.onFrame port 2 f fun s => s.homeAccept (requestOf f .rdx) 0x7F)
def execKrovbemWr (port : Fin 7) (f : KFrame) (s : State) : Res := .next (s.onFrame port 3 f fun s => s.homeAccept (requestOf f .wr) 0x7F)

/-- A chip holds a line no longer. -/
def State.unhold (s : State) (line : Nat) (n : Fin 8) : State :=
  let e := s.dirOf line
  s.setDir line { e with holders := putBit e.holders n.val false, owner := if e.owner = some n then none else e.owner }

/-- WB (R377): applied at once, busy line or not (R378), in a slot of its channel (R252). -/
def writeBack (f : KFrame) (s : State) : State :=
  let line := f.addr / 64
  if memLines ≤ line ∨ !s.fabOpen line true then s
  else ((s.fabWrite line f.data f.poison).unhold line f.src).sendK f.src f.relay 9 (kframe s.chip f.src f.tag line)

def execKrovbemWb (port : Fin 7) (f : KFrame) (s : State) : Res := .next (s.onFrame port 4 f (writeBack f))

/-- EV (R377): the holder is cleared; a read that waited for this owner is served from DRAM, which holds the same data. -/
def evicted (f : KFrame) (s : State) : State :=
  let line := f.addr / 64
  let s := s.unhold line f.src
  match s.fab.busy.find? fun b => decide (b.line = line) && b.wait.getLsbD f.src.val with
  | some b => match b.req with
    | some q =>
      if q.kind = .rd then (s.modFab fun x => { x with busy := x.busy.filter fun y => decide (y ≠ b) }).finish q none else s
    | none => s
  | none => s

def execKrovbemEv (port : Fin 7) (f : KFrame) (s : State) : Res := .next (s.onFrame port 5 f (evicted f))

/-- DATA of an owner: to the requester, and the answer that the home awaits; to the home alone where the home reads. -/
def State.ownerData (s : State) (home : Fin 8) (f : KFrame) (d : Row) (p excl : Bool) : State :=
  let line := f.addr / 64
  let fr (n : Fin 8) : KFrame := { kframe s.chip n f.tag line with hasData := true, data := d, poison := p, key := f.key }
  if f.src = home then s.sendK home false 8 { fr home with forHome := true, excl := excl }
  else (s.sendK f.src false 8 (fr f.src)).sendK home false 9 { kframe s.chip home f.tag line with forHome := true, excl := excl }

/-- FWD (R376, R379): its SRC is the requester, and the home is the chip at the port. -/
def forwarded (port : Fin 7) (f : KFrame) (s : State) : State :=
  let home := s.chipAt port
  let c := cline home (f.addr / 64)
  match tfind c s.fab.cache with
  | some x =>
    match x.st with
    | .m => (s.modFab fun y => { y with cache := tput c { x with st := .o } y.cache }).ownerData home f x.data x.poison false
    | .o => s.ownerData home f x.data x.poison false
    | .e => (s.modFab fun y => { y with cache := tput c { x with st := .s } y.cache }).ownerData home f x.data x.poison true
    | .s => s
  | none => match tfind c s.fab.wb with
    | some (d, p) => s.ownerData home f d p false
    | none => s

def execKrovbemFwd (port : Fin 7) (f : KFrame) (s : State) : Res := .next (s.onFrame port 6 f (forwarded port f))

/-- INV (R376, R379). -/
def invalidated (port : Fin 7) (f : KFrame) (s : State) : State :=
  let home := s.chipAt port
  let line := f.addr / 64
  let c := cline home line
  let fr : KFrame := { kframe s.chip home f.tag line with forHome := true }
  let gone (s : State) : State := s.modFab fun y => { y with cache := tdel c y.cache }
  match tfind c s.fab.cache with
  | some x =>
    if x.st = .m ∨ x.st = .o then (gone s).sendK home false 8 { fr with hasData := true, data := x.data, poison := x.poison }
    else (gone s).sendK home false 9 fr
  | none => s.sendK home false 9 fr

def execKrovbemInv (port : Fin 7) (f : KFrame) (s : State) : Res := .next (s.onFrame port 7 f (invalidated port f))

/-- DATA reaches a requester or the home (R376, R377). -/
def dataFrame (f : KFrame) (s : State) : State :=
  let line := f.addr / 64
  if f.forHome then s.homeAnswer f.src line (some (f.data, f.poison)) f.excl
  else match s.reqOf f.tag line fun o => o.dst ≠ s.chip && o.kind != .wr with
    | some o => s.gotData o f.data f.poison f.excl
    | none => s

def execKrovbemData (port : Fin 7) (f : KFrame) (s : State) : Res := .next (s.onFrame port 8 f (dataFrame f))

/-- ACK: of the home's message, of a write (R385), or of a write-back, whose buffer is freed (R379). -/
def ackFrame (f : KFrame) (s : State) : State :=
  let line := f.addr / 64
  if f.forHome then s.homeAnswer f.src line none f.excl
  else match s.reqOf f.tag line fun o => decide (o.dst = f.src) && o.kind == .wr with
    | some o => s.gotAck o
    | none => s.modFab fun y => { y with wb := tdel (cline f.src line) y.wb }

def execKrovbemAck (port : Fin 7) (f : KFrame) (s : State) : Res := .next (s.onFrame port 9 f (ackFrame f))

/-- NACK ends a request at its source (R371, R481); its reserved reasons are violations (0x0302). -/
def nackFrame (port : Fin 7) (f : KFrame) (reason : Nat) (s : State) : State :=
  if reason = 0 ∨ 4 < reason then s.logRec { cls := .ce, unit := 9, code := .num 0x0302, object := port, limit := perX 12 port }
  else match s.reqOf f.tag (f.addr / 64) fun o => decide (o.dst = f.src) with
    | none => s
    | some o =>
      let w := s.whyOwner o.why
      let s := if reason = 1 then s.logRec { cls := .ce, unit := 9, code := .num 0x0303, owners := ownersOf w, limit := perX 9 w } else s
      if o.kind = .rd then (s.endReq o).whyRead o.why 0 true else s.gotAck o

def execKrovbemNack (port : Fin 7) (f : KFrame) (reason : Nat) (s : State) : Res := .next (s.onFrame port 10 f (nackFrame port f reason))

/-- ACCEPT returns a credit (R380, R381). -/
def acceptFrame (f : KFrame) (s : State) : State :=
  match s.reqOf f.tag (f.addr / 64) fun o => decide (o.dst = f.src) && !o.accepted with
  | none => s
  | some o => (s.modFab fun y => { y with outs := replaceFirst (fun x => decide (x = o)) { o with accepted := true } y.outs }).credit f.src

def execKrovbemAccept (port : Fin 7) (f : KFrame) (s : State) : Res := .next (s.onFrame port 11 f (acceptFrame f))

/-! ## Time (R48, R400) -/

/-- Whether a cell is in force (R38). -/
def State.cellInForce (s : State) : Bool := s.ctl.slices.toList.any fun x => x.cells != []

/-- A member follows the leader on the link of a port (R48, R400). -/
def State.follows (s : State) (port : Fin 7) : Bool :=
  decide (s.tsrc = 3 ∧ s.chipAt port = s.board.leader ∧ s.board.leader ≠ s.chip) && s.peerBit (s.chipAt port) 1 && !s.time.src.paused

/-- The sample of an exchange (R400), in 1/16 cy. -/
def State.linkOffset (s : State) (port : Fin 7) (t1 t2 t3 t4 : Int) : Int :=
  ((t2 - t1) - (t4 - t3)) / 2 - sbits (s.rget (creg .fabClink port.val)) 15 0

/-- TIME (R400): a member that follows the leader takes the four instants as a sample, times in 1/16 cy, and replies with t3;
the leader notes t4 for its next frame. The frame says whether the leader's servo is LOCKED (R49, R52). -/
def timeFrame (port : Fin 7) (t1 : LeaderTime) (t2 t3 t4 : Int) (s : State) : State :=
  if s.follows port then
    let s := (s.linkGot port).queueK port (.time none false)
    if t1.locked then
      let s := if s.time.src.timeOk then s else s.timeQualified
      (s.servoSample s.cellInForce (s.linkOffset port t1.count t2 t3 t4)).refreshQl
    else if s.time.src.timeOk then (s.timeLost 0x02FF).refreshQl
    else s
  else if s.board.leader = s.chip then (s.linkGot port).modFab fun f => { f with timeBack := tput port.val s.now f.timeBack }
  else s

def execKrovbemTime (port : Fin 7) (t1 : LeaderTime) (t2 t3 t4 : Int) (s : State) : Res := .next (timeFrame port t1 t2 t3 t4 s)

/-! ## Liveness (R395-R398, R409, R410) -/

/-- Whether the lanes of a clutch port have PCS lock (R395). -/
def State.pcsUp (s : State) (port : Fin 7) : Bool :=
  (List.finRange 24).all fun l =>
    let v := s.rget ⟨.fhpCfg, l.val, 0⟩
    decide (bits v 2 0 ≠ 2 ∨ bits v 19 16 ≠ port.val) || bit (s.rget ⟨.fhpStatus, l.val, 0⟩) 0

/-- HEART (R395, R397): the link is up, and its sender no longer DEAD. -/
def heartFrame (port : Fin 7) (src : Fin 8) (v : Byte) (s : State) : State :=
  if !s.pcsUp port then s
  else
  let s := s.linkGot port
  if s.chipAt port ≠ src ∨ !s.member src then s.logRec { cls := .ce, unit := 9, code := .num 0x0302, object := port, limit := perX 12 port }
  else
    let s := ((s.setPeer src 1 true).setPeer src 2 false).setPeer src 3 false
    let shown := (List.finRange 8).filter fun n => v.getLsbD n.val
    (s.modFab fun f => { f with
      heartOn := tput port.val s.now f.heartOn, heartOf := tput src.val (s.now, v) f.heartOf, isolated := false
      shownAt := shown.foldl (fun t n => tput n.val s.now t) f.shownAt }).pump

def execKrovbemHeart (port : Fin 7) (src : Fin 8) (vector : Byte) (s : State) : Res := guarded (!s.boot.dies) (heartFrame port src vector) s

/-- A link that carried no HEART for 16 memory frames. -/
def State.heartless (s : State) (port : Fin 7) : Bool := decide (131072 ≤ (s.now - tget 0 s.fab.heartOn port.val).toNat)

/-- A Krovbem link goes down (R395, R474); the clutch leader's port loses the time source (R52), unless M0 is stopped (R54). -/
def State.krovbemDown (s : State) (port : Fin 7) : State :=
  let n := s.chipAt port
  let s := ((s.setPeer n 1 false).modFab fun f => { f with linkQ := tdel port.val f.linkQ }).logRec { cls := .uc, unit := 9, code := .rule 474 1, object := port }
  if s.tsrc = 3 ∧ n = s.board.leader ∧ s.time.src.timeOk ∧ !s.time.src.paused then (s.timeLost 0x02FF).refreshQl else s

def execHeartTimeout (port : Fin 7) (s : State) : Res := guarded (s.peerBit (s.chipAt port) 1 && s.heartless port) (·.krovbemDown port) s

/-- PORT_LINK_DOWN (R287): a clutch port without PCS lock takes its Krovbem link down (R395). -/
def linkDown (l : Nat) (s : State) : State :=
  let v := s.rget ⟨.fhpCfg, l, 0⟩
  let s := linkChange l false s
  let p : Fin 7 := fin 7 (bits v 19 16)
  if bits v 2 0 = 2 ∧ s.peerBit (s.chipAt p) 1 then s.krovbemDown p else s

def execPortLinkDown (port : Fin 24) (s : State) : Res :=
  guarded (s.isPort port.val && bit (s.rget ⟨.fhpStatus, port.val, 0⟩) 0) (linkDown port.val) s

/-- CTO (R396): in units of 1,024 cy, 16 to 240; other values act as 123. -/
def State.cto (s : State) : Nat :=
  let v := s.fget (creg .fabCtrl) 39 32
  1024 * (if 16 ≤ v ∧ v ≤ 240 then v else 123)

/-- CLUTCH_REQUEST_TIMEOUT (R396, R398): one reissue with the original tag, then the request is held. -/
def requestTimeout (home : Fin 8) (tag : BitVec 32) (s : State) : State :=
  match s.fab.outs.find? fun o => decide (o.dst = home ∧ o.sent.map (·.1) = some tag) && !o.accepted && !o.held with
  | none => s
  | some o =>
    match o.sent with
    | none => s
    | some (t, at_) =>
      if (s.now - at_).toNat < s.cto then s
      else if o.reissued ∨ s.peerBit home 2 then
        s.modFab fun y => { y with outs := replaceFirst (fun x => decide (x = o)) { o with held := true } y.outs }
      else
        let direct := s.peerBit home 1
        let s := s.finc (creg .fabStat2) 47 32
        let s := if direct then s else s.setPeer home 3 true
        (s.modFab fun y => { y with outs := replaceFirst (fun x => decide (x = o)) { o with reissued := true, sent := some (t, s.now) } y.outs }).sendK
          home (!direct) (kreqType o.kind) (o.frame s.chip t)

def execClutchRequestTimeout (home : Fin 8) (tag : BitVec 32) (s : State) : Res := .next (requestTimeout home tag s)

/-- BUSY_LINE_RELEASE (R375, R378): the oldest request that waits for a line which is not busy is served. -/
def releaseLine (addr : Nat) (s : State) : State :=
  let line := addr / 64
  if s.isBusy line then s
  else match takeFirst (fun q => decide (q.line = line)) s.fab.waiting with
    | none => s
    | some (q, rest) => ((s.modFab fun f => { f with waiting := rest }).serve q).pump

def execBusyLineRelease (addr : Nat) (s : State) : Res := .next (releaseLine addr s)

/-- The conditions of R397 for declaring a member DEAD. -/
def deadDue (n : Fin 8) (s : State) : Bool :=
  s.mfStart s.now && s.member n && n ≠ s.chip && !s.peerBit n 2 && !s.boot.dies && s.heartless (s.portOf n)
  && (tfind n.val s.fab.shownAt).all fun at_ => decide (131072 ≤ (s.now - at_).toNat)

/-- Lines homed at a dead member leave the cache; modified data is lost (R397). -/
def State.dropHome (s : State) (n : Fin 8) : State :=
  let mine (e : Nat) : Bool := clineHome e == n
  let lost := (s.fab.cache.filter fun e => mine e.1 && (e.2.st == .m || e.2.st == .o)).length + (s.fab.wb.filter fun e => mine e.1).length
  let s := s.modFab fun f => { f with cache := f.cache.filter fun e => !mine e.1, wb := f.wb.filter fun e => !mine e.1 }
  if lost = 0 then s else s.logRec { cls := .uc, unit := 9, code := .rule 397 0, object := n.val, detail := leBytes 4 lost }

/-- What the home does about a dead holder (R397): its own lines are poisoned, and what waits on its answers completes. -/
def State.dropHolder (s : State) (n : Fin 8) : State :=
  let owned := s.fab.dir.filter fun e => decide (e.2.owner = some n)
  let s := owned.foldl (fun (s : State) e => s.writeLine e.1 (tget 0 s.mem.lines e.1) true) s
  let s := s.fab.dir.foldl (fun (s : State) e => if e.2.holders.getLsbD n.val then s.unhold e.1 n else s) s
  (s.fab.busy.filter fun b => b.wait.getLsbD n.val).foldl (fun (s : State) b => match b.req with
    | some q => if q.kind = .rd then (s.modFab fun x => { x with busy := x.busy.filter fun y => decide (y ≠ b) }).finish q none else s.homeAnswer n b.line none false true
    | none => s.homeAnswer n b.line none false true) s

/-- Every cell with its slice and number that passes. -/
def State.cellsWhere (s : State) (p : Fin 64 → Fin 512 → CellSt → Bool) : List (Fin 64 × Fin 512) :=
  (List.finRange 64).flatMap fun n => (s.ctl.slices.get n).cells.filterMap fun (k, x) => if p n (fin 512 k) x then some (n, fin 512 k) else none

/-- MEMBER_DEAD (R397, R409). -/
def memberDead (n : Fin 8) (s : State) : State :=
  let s := ((s.setPeer n 2 true).dropHome n).dropHolder n
  let s := s.modFab fun f => { f with outs := mapIf (fun o => decide (o.dst = n) && o.sent.isSome) (fun o => { o with held := true }) f.outs }
  let mine (k : Fin 64) (c : Fin 512) : Bool := Config.primaryOf k.val c.val == some n.val
  let muted := s.cellsWhere fun k c x => mine k c && x.st == 2
  let others := s.cellsWhere fun k c x => mine k c && x.st != 2
  let s := others.foldl (fun (s : State) (k, c) => s.logRec { cls := .ce, unit := 12, code := .rule 409 0, owners := [.manager, .slice k], object := c.val }) s
  let s := if muted = [] then s else s.action 3 (.unmute muted) 5898240
  s.pump

def execMemberDead (n : Fin 8) (s : State) : Res := guarded (deadDue n s) (memberDead n) s

/-- No HEART from any member for 16 memory frames (R410). -/
def isolationDue (s : State) : Bool :=
  !s.boot.dies && !s.fab.isolated && (List.finRange 8).any (fun n => n != s.chip && s.member n)
  && (List.finRange 8).all fun n => n == s.chip || !s.member n || decide (131072 ≤ (s.now - ((tfind n.val s.fab.heartOf).map (·.1)).getD 0).toNat)

def isolationMute (s : State) : State :=
  let l := s.cellsWhere fun _ _ x => x.standby.isSome && x.st == 1
  let s := s.modFab fun f => { f with isolated := true }
  if l = [] then s else s.action 2 (.mute l) 3932160

def execIsolationMute (s : State) : Res := guarded (isolationDue s) isolationMute s

/-! ## Context mirrors (R407) -/

/-- The first cycle of the present mu1 slot. -/
def State.slotFirst (s : State) : W64 := s.periodStart s.now 120

/-- Whether a cell's last window of the present slot has closed (R407): none of its slice's windows is open or still opens in it. -/
def State.windowsDone (s : State) (n : Fin 64) : Bool :=
  (List.finRange 64).all fun t => ((s.windowsAt s.now t).filter fun w => decide (w.slice = n)).all fun w =>
    let o := s.periodStart s.now (winPeriod w.entry) + BitVec.ofNat 64 (8192 * winStart w.entry)
    decide (s.slotFirst + 983040 ≤ s.nextOf s.now w.entry) && !decide (o ≤ s.now ∧ s.now < o + BitVec.ofNat 64 (8192 * winLen w.entry))

/-- Whether a cell's copy is due: once in each slot, after its last window there (R407). -/
def State.mirrorDue (s : State) (n : Fin 64) (x : CellSt) : Bool := decide (x.mirrored ≠ some s.slotFirst) && s.windowsDone n

/-- The copy of this slot is made, or skipped. -/
def State.mirrorDone (s : State) (n : Fin 64) (c : Fin 512) : State :=
  { s with ctl := { s.ctl with slices := vmod s.ctl.slices n fun x => { x with
      cells := mapIf (fun e => decide (e.1 = c.val)) (fun e => (e.1, { e.2 with mirrored := some s.slotFirst })) x.cells } } }

/-- CONTEXT_MIRROR_COPY (R407): the region, read in slots of one group, goes to the peer as posted writes, unless the last
copy is still under way. -/
def mirrorCopy (n : Fin 64) (c : Fin 512) (s : State) : State :=
  let x := s.ctl.slices.get n
  match (tfind c.val x.cells).bind fun y => if s.mirrorDue n y then y.standby else none with
  | none => s
  | some sb =>
    let s0 := s
    let s := s.mirrorDone n c
    if s.fab.outs.any fun o => decide (o.why = .mirror n c) then s.finc (creg .fabStat2) 63 48
    else if !x.win0.valid ∨ x.win0.hi < x.win0.lo + sb.ctxOff + sb.ctxLen then s
    else
      let k := sb.ctxLen / 64
      let first := (x.win0.lo + sb.ctxOff) / 64
      if !s.canMove (span first k false) then s0
      else
      let r := (s.charge .fabric (span first k false)).readLines reqFabric first k
      let key := BitVec.ofNat 16 (r.2.fget (creg .fabOkey n.val) 15 0)
      let far := Config.peerWindow sb.peer.val sb.pslice.val + sb.destOff / 64
      (((List.range k).zip r.1).foldl (fun (s : State) (i, l) => s.clutchWrite sb.peer (far + i) key l.data l.poison (.mirror n c)) r.2).pump

def execContextMirrorCopy (slice : Fin 64) (cell : Fin 512) (s : State) : Res := .next (mirrorCopy slice cell s)

end Sys2Proof.Machine
end

