-- ==== Sys2Proof/Machine/GatewayEvents.lean ====
section
/-!
DEFINITION. The gateway's packets (R387-R394, R399, R481), its resends (R391), and the end of a region's callBack (R373).
-/
namespace Sys2Proof.Machine

/-- The number of lines that a mask carries. -/
def lineCount (m : BitVec 64) : Nat := sumNat ((List.range 64).map fun i => (m.getLsbD i).toNat)

/-- A record about the gateway: code, and the X of its limit. -/
def State.gwRec (s : State) (code : BitVec 16) (kind x : Nat) (owners : List Owner := [.manager]) : State :=
  s.logRec { cls := .ce, unit := 10, code := .num code, owners := owners, object := x, limit := perX kind x }

/-- What the MAC of a gateway port makes of a frame (R270, R288): counted, and none where it is dropped; a violation that R481 does not
list takes the gateway's closest case, code 0x03FF. -/
def State.gwFrame (s : State) (l : Nat) (p : LPacket) : Bool × State :=
  let s := (s.finc ⟨.fhpMisc, l, 0⟩ 31 16 p.fecUc).fset ⟨.fhpStatus, l, 0⟩ 2 2 p.highBer.toNat
  if !p.fcsOk then (false, (s.finc ⟨.fhpRxstat, l, 0⟩ 47 32).gwRec 0x03FF 12 l)
  else
    let s := s.finc ⟨.fhpRxstat, l, 0⟩ 31 0
    if p.len < 64 ∨ s.maxFrame l < p.len then (false, (s.finc ⟨.fhpRxstat, l, 0⟩ 63 48).gwRec 0x03FF 12 l)
    else if p.pause then (false, s.finc ⟨.fhpMisc, l, 0⟩ 15 0)
    else if p.other then (false, s.gwRec 0x03FF 12 l)
    else (true, s)

/-- A packet from GW0: one that breaks a condition of code 0x0309 is discarded. -/
def State.onPacket (s : State) (p : LPacket) (h : State → State) : State :=
  match s.lane 3 0 with
  | none => s
  | some l =>
    let x := s.gwFrame l.val p
    if s.boot.dies ∨ !bit (s.rget ⟨.fhpStatus, l.val, 0⟩) 0 then s
    else if !x.1 then x.2
    else
    let s := x.2
    if !p.valid ∨ !s.gwValid p.peer ∨ p.lines.length ≠ lineCount p.mask then s.gwRec 0x0309 12 l.val
    else (h s).pump

/-! ## Requests of peers (R392, R394, R399) -/

/-- The home and home-local line of the first line of a block at a device address of this chip: its memory, or a clutch address. -/
def State.gwBlock (s : State) (a : Nat) : Option (Fin 8 × Nat) :=
  if a % 4096 ≠ 0 then none else if a < 0x2400000000 then some (s.chip, a / 64) else s.clutchLine a

/-- A peer's request is applied as clutch requests of this chip, one for each line. -/
def State.gwApply (s : State) (p : LPacket) (write : Bool) (h : Fin 8) (line : Nat) : State :=
  let at_ := if write then (List.range 64).filter fun i => p.mask.getLsbD i else List.range 64
  let id := s.fab.nextId
  let g : GIn := { id := id, peer := p.peer, tag := p.tag, write := write, key := p.key, addr := p.addr, left := at_.length }
  let s := s.modFab fun f => { f with nextId := f.nextId + 1, gins := enq f.gins g }
  (at_.zip (List.range at_.length)).foldl (fun (s : State) (i, k) =>
    if write then s.clutchWrite h (line + i) p.key (p.lines.getD k 0) false (.gwIn id i) else s.clutchRead h (line + i) p.key (.gwIn id i)) s

/-- NACK to a peer with a reason. -/
def State.gwNack (s : State) (p : LPacket) (reason : Nat) : State := s.gwRespond p.peer 5 reason p.key p.tag p.addr 0 0 []

/-- A request of a peer: tag, credit, address, scrub and key in that order. -/
def State.gwIncoming (s : State) (p : LPacket) (write : Bool) : State :=
  let k := 8 + p.peer.val
  let j := (tget {} s.fab.tags k).judge p.tag
  if j = 2 then ((s.finc (creg .fabStat) 63 48).logRec { cls := .ce, unit := 9, code := .num 0x0308, object := k, limit := perX 10 k }).gwNack p 3
  else if j = 1 then
    let s := s.finc (creg .fabStat) 47 32
    if s.fab.gins.any fun g => decide (g.peer = p.peer ∧ g.tag = p.tag) then s
    else if write then s.gwRespond p.peer 4 0 p.key p.tag p.addr 0 0 []
    else match s.gwBlock p.addr with
      | some (h, l) => s.gwApply p false h l
      | none => s.gwNack p 2
  else if tget 4 s.fab.offered p.peer.val ≤ s.gwHeld p.peer then (s.gwRec 0x030A 13 p.peer.val).gwNack p 5
  else match s.gwBlock p.addr with
    | none => (s.addrFault 0x7F).gwNack p 2
    | some (h, l) =>
      let q : HomeReq := { kind := if write then .wr else .rd, org := .gw p.peer, tag := p.tag, key := p.key, line := l }
      if h = s.chip ∧ (List.range 64).any (fun i => s.scrubbed (l + i)) then (s.gwRec 0x030B 13 p.peer.val).gwNack p 4
      else if h = s.chip ∧ !s.admits q then
        ((s.finc (creg .fabStat) 15 0).logRec { cls := .ce, unit := 9, code := .num 0x0303, owners := [.management], object := k, limit := perX 11 k }).gwNack p 1
      else (s.markTag k p.tag).gwApply p write h l

def execLeapfrogRdreq (p : LPacket) (s : State) : Res := .next (s.onPacket p (·.gwIncoming p false))
def execLeapfrogWrite (p : LPacket) (s : State) : Res := .next (s.onPacket p (·.gwIncoming p true))

/-! ## Answers of peers (R388, R391) -/

/-- A response of a peer: its credit counts, and the peer is reachable. -/
def State.gwHeard (s : State) (p : LPacket) : State :=
  (s.fset (lpeerC p.peer) 17 17 0).modFab fun f => { f with credit := tput p.peer.val p.credit f.credit }

/-- The outstanding request that a response answers. -/
def State.gwMatch (s : State) (p : LPacket) (ok : GOut → Bool) : Option GOut :=
  s.fab.gouts.find? fun g => decide (g.peer = p.peer ∧ g.tag = some p.tag) && ok g

def State.gwDone (s : State) (g : GOut) : State := s.modFab fun f => { f with gouts := f.gouts.filter fun x => decide (x ≠ g) }

/-- The reads that wait for a block are served: each takes its own line. -/
def State.gwServe (s : State) (waits : List (Nat × Nat)) (ls : List (Row × Bool)) : State :=
  waits.foldl (fun (s : State) (id, k) => match s.fab.frts.find? fun r => decide (r.id = id) with
    | some r =>
      let x := ls.getD ((frRemote r.entry / 64 + k) % 64) (0, true)
      s.whyRead (.frt id k) x.1 x.2
    | none => s) s

/-- The lines that a packet carries, by their place in the block; one that it does not carry reads as poison. -/
def blockLines (p : LPacket) : List (Row × Bool) :=
  (List.range 64).map fun i =>
    let k := lineCount (p.mask &&& (BitVec.ofNat 64 (2 ^ i - 1)))
    if p.mask.getLsbD i then (p.lines.getD k 0, p.pmask.getLsbD i) else (0, true)

/-- A block's fetch ends: with its lines in the landing buffer, or without (R388). -/
def State.gwFetched (s : State) (g : GOut) (ls : Option (List (Row × Bool))) : State :=
  let here (b : LandBuf) : Bool := decide (b.key = g.key ∧ b.block = g.block) && b.lines.isNone
  match s.fab.land.find? here with
  | none => s
  | some b =>
    let s := s.modFab fun f => match ls with
      | some l => { f with land := replaceFirst here { b with lines := some l, waits := [] } f.land }
      | none => { f with land := f.land.filter fun x => decide (x ≠ b) }
    -- reads that found no buffer are made again (R388)
    let later := s.fab.landWait
    later.foldl (fun (s : State) w => s.gwRead w.key w.owner w.block w.i w.id w.k) ((s.gwServe b.waits (ls.getD [])).modFab fun f => { f with landWait := [] })

/-- RDDATA. -/
def gwData (p : LPacket) (s : State) : State :=
  let s := s.gwHeard p
  match s.gwMatch p fun g => !g.write && decide (g.tag.isSome) with
  | some g => (s.gwDone g).gwFetched g (some (blockLines p))
  | none => s

def execLeapfrogRddata (p : LPacket) (s : State) : Res := .next (s.onPacket p (gwData p))

/-- DONE. -/
def gwAcked (p : LPacket) (s : State) : State :=
  let s := s.gwHeard p
  match s.gwMatch p fun g => g.write with
  | some g => s.gwDone g
  | none => s

def execLeapfrogDone (p : LPacket) (s : State) : Res := .next (s.onPacket p (gwAcked p))

/-- NACK ends a request: a read's lines are poisoned; a key mismatch is the owner's (R371). Reserved reasons are discarded. -/
def gwRefused (p : LPacket) (s : State) : State :=
  if p.status = 0 ∨ 5 < p.status then s.gwRec 0x03FF 13 p.peer.val
  else
    let s := s.gwHeard p
    match s.gwMatch p fun _ => true with
    | none => s
    | some g =>
      let s := if p.status = 1 then s.logRec { cls := .ce, unit := 9, code := .num 0x0303, owners := ownersOf g.owner, limit := perX 9 g.owner } else s
      let s := s.gwDone g
      if g.write then s else s.gwFetched g none

def execLeapfrogNack (p : LPacket) (s : State) : Res := .next (s.onPacket p (gwRefused p))

/-- KEEPALIVE asks for nothing. -/
def execLeapfrogKeepalive (p : LPacket) (s : State) : Res := .next (s.onPacket p id)

/-! ## Resends (R391, R398) -/

/-- GW_RTO (R411) in cycles. -/
def State.gwRto (s : State) : Nat :=
  let v := s.fget (creg .fabCtrl) 46 40
  8192 * (if 1 ≤ v ∧ v ≤ 75 then v else 48)

/-- GATEWAY_RESEND: within 10 ms of the first sending, a request without a response goes again under its tag. -/
def gwResend (peer : Fin 64) (tag : BitVec 32) (s : State) : State :=
  match s.fab.gouts.find? fun g => decide (g.peer = peer ∧ g.tag = some tag) && !g.held with
  | none => s
  | some g =>
    if (s.now - g.last).toNat < s.gwRto ∨ 19660800 ≤ (s.now - g.first).toNat then s
    else
      let s := (s.finc (creg .fabStat2) 31 16).modFab fun f => { f with gouts := replaceFirst (fun x => decide (x = g)) { g with last := s.now } f.gouts }
      s.gwTransmit g tag

def execGatewayResend (peer : Fin 64) (tag : BitVec 32) (s : State) : Res := .next (gwResend peer tag s)

/-- GATEWAY_REQUEST_EXPIRE: 10 ms after its first sending the request is held, and the peer counts as unreachable. -/
def gwExpire (peer : Fin 64) (tag : BitVec 32) (s : State) : State :=
  match s.fab.gouts.find? fun g => decide (g.peer = peer ∧ g.tag = some tag) && !g.held with
  | none => s
  | some g =>
    if (s.now - g.first).toNat < 19660800 then s
    else
      (s.modFab fun f => { f with gouts := replaceFirst (fun x => decide (x = g)) { g with held := true } f.gouts }).fset (lpeerC peer) 17 17 1

def execGatewayRequestExpire (peer : Fin 64) (tag : BitVec 32) (s : State) : Res := .next (gwExpire peer tag s)

/-! ## Recalls of a region (R373) -/

/-- The directory's lines in a GiB of this home. -/
def State.gibLines (s : State) (gib : Nat) : List Nat := (s.fab.dir.map (·.1)).filter fun l => decide (l / 2 ^ 24 = gib)

/-- The copies of a region that are still held and not busy are recalled. -/
def State.recallGib (s : State) (gib : Nat) : State :=
  let ls := s.gibLines gib
  let s := s.modFab fun f => { f with callBack := f.callBack.map fun r => { r with lines := ls } }
  (ls.filter fun l => !s.isBusy l).foldl (fun (s : State) l => s.recallLine l) s

/-- The scan of a recall reaches one set of the directory in each cycle (R373): its lines of the GIB that are not busy are recalled. -/
def State.scanRecall (s : State) : State :=
  match s.fab.callBack with
  | none => s
  | some r =>
    let k := (s.now - r.at_).toNat
    if 65536 ≤ k then s
    else
      let gib := s.fget (creg .fabReg r.reg) 7 0
      let ls := (s.gibLines gib).filter fun l => decide (l % 65536 = k) && !s.isBusy l
      ls.foldl (fun (s : State) l => s.recallLine l) (s.modFab fun f => { f with callBack := f.callBack.map fun r => { r with lines := ls ++ r.lines } })

/-- REGION_RECALL_COMPLETE: after the scan, once no copy is left, the new entry takes effect and the message is answered. -/
def recallComplete (s : State) : State :=
  match s.fab.callBack with
  | none => s
  | some r =>
    let gib := s.fget (creg .fabReg r.reg) 7 0
    if (s.now - r.at_).toNat < 65536 then s
    else if s.gibLines gib ≠ [] then s.recallGib gib
    else
      let s := (s.rset (creg .fabReg r.reg) r.value).modFab fun f => { f with callBack := none }
      (s.answerAll .callBack fun m s => s.reply m stOk).pump

def execRegionRecallComplete (s : State) : Res := .next (recallComplete s)

end Sys2Proof.Machine
end

