-- ==== Sys2Proof/Machine/Lockstep.lean ====
section
/-!
DEFINITION. Barriers (R401, R402) and twin lock-step (R403-R406, R211).
-/
namespace Sys2Proof.Machine

/-! ## Barriers (R401) -/

abbrev barA (b : Fin 16) : Reg := creg .fabBarA b.val
abbrev barB (b : Fin 16) : Reg := creg .fabBarB b.val

/-- FAB_BAR[b]: its instant, its STATE and its member mask. -/
def State.barX (s : State) (b : Fin 16) : W64 := s.rget (barA b)
def State.barState (s : State) (b : Fin 16) : Nat := s.fget (barB b) 2 0
def State.barMask (s : State) (b : Fin 16) : BitVec 8 := BitVec.ofNat 8 (s.fget (barB b) 15 8)
def State.setBar (s : State) (b : Fin 16) (st : Nat) : State := s.fset (barB b) 2 0 st

/-- The coordinator: the lowest-numbered chip of the mask. -/
def State.coordinator (s : State) (b : Fin 16) : Option (Fin 8) := (List.finRange 8).find? fun n => (s.barMask b).getLsbD n.val

def State.barOf (s : State) (b : Fin 16) : Barrier := tget {} s.fab.bars b.val

def State.modBar (s : State) (b : Fin 16) (f : Barrier → Barrier) : State :=
  s.modFab fun x => { x with bars := tput b.val (f (tget {} x.bars b.val)) x.bars }

/-- What a BAR frame brings about at its receiver: ARRIVE 0 counts up to the decision's instant, GO 1 up to the deadline;
ABORT 2 leaves the barrier without GO. -/
def State.barHeard (s : State) (src : Fin 8) (b : Fin 16) (kind : Fin 3) : State :=
  if s.barState b ≠ 1 then s
  else match kind with
    | 0 =>
      if s.coordinator b = some s.chip ∧ s.now ≤ s.barX b - 262144 then s.modBar b fun x => { x with arrived := putBit x.arrived src.val true }
      else s
    | 1 => if s.coordinator b = some src ∧ s.now ≤ s.barX b - 16384 then s.setBar b 2 else s
    | 2 => s

/-- A BAR frame to a member, or to this chip itself. -/
def State.sendBar (s : State) (dest : Fin 8) (b : Fin 16) (kind : Fin 3) : State :=
  if dest = s.chip then s.barHeard s.chip b kind
  else s.handK dest (.bar b kind)

/-- KROVBEM_BAR: a frame from no member is discarded (code 0x0302). -/
def barFrame (port : Fin 7) (src : Fin 8) (b : Fin 16) (kind : Fin 3) (s : State) : State :=
  if s.boot.dies ∨ !s.peerBit (s.chipAt port) 1 then s
  else
  let s := s.linkGot port
  if !s.member src then s.logRec { cls := .ce, unit := 9, code := .num 0x0302, object := port, limit := perX 12 port }
  else s.barHeard src b kind

def execKrovbemBar (port : Fin 7) (src : Fin 8) (barrier : Fin 16) (kind : Fin 3) (s : State) : Res := .next (barFrame port src barrier kind s)

/-- The contexts that hold a barrier's entries. -/
def State.heldFor (s : State) (b : Fin 16) : List (LTile × CtxNo) :=
  s.ten.runList.filterMap fun e => if e.barrier = some b then e.running else none

/-- ARRIVE leaves once every entry of the barrier is held. -/
def State.arrive (s : State) (b : Fin 16) : State :=
  let x := s.barOf b
  let held := x.entries.all fun n => s.ten.runList.any fun e => decide (e.entry = n) && e.running.isSome && decide (e.barrier = some b)
  if s.barState b = 1 ∧ !x.sent ∧ held then
    match s.coordinator b with
    | some n => (s.modBar b fun x => { x with sent := true }).sendBar n b 0
    | none => s
  else s

/-- BARRIER_ARM (R401): the entries named stand in the run list, not dispatched. -/
def armBarrier (m : Msg) (s : State) : State :=
  let p := m.payload
  let b : Fin 16 := fin 16 (fld p 0 1)
  let mask : BitVec 8 := BitVec.ofNat 8 (fld p 1 1)
  let x : W64 := BitVec.ofNat 64 (fld p 8 8)
  let ids := (List.range (fld p 2 2)).map fun i => BitVec.ofNat 32 (fld p (16 + 4 * i) 4)
  let free := ids.all fun n => s.ten.runList.any fun e => decide (e.entry = n) && e.running.isNone && e.code.isNone && (e.barrier.isNone || e.barrier == some b)
  if x.toNat < s.now.toNat + 524288 then s.reply m stTooSoon
  else if s.servoState ≠ stLocked then s.reply m stNotLocked
  else if s.barState b = 1 ∨ s.barState b = 2 ∨ !free ∨ !mask.getLsbD s.chip.val ∨ mask &&& ~~~s.board.members ≠ 0 then s.reply m stBadState
  else
    let s := (s.rset (barA b) x).rset (barB b) (BitVec.ofNat 64 (1 + 256 * mask.toNat))
    let s := s.modFab fun f => { f with bars := tput b.val { entries := ids } f.bars }
    let s := s.modTen fun e => { e with runList := e.runList.map fun r => if ids.contains r.entry then { r with barrier := some b } else if r.barrier = some b then { r with barrier := none } else r }
    s.reply m stOk

def execBarrierArm (slot : SlotId) (s : State) : Res := message 0x0607 slot armBarrier s

/-- BARRIER_DECIDE, at X − 262,144: the coordinator sends GO when every member has arrived, else ABORT. -/
def decideBarrier (b : Fin 16) (s : State) : State :=
  let x := s.barOf b
  if s.barState b ≠ 1 ∨ s.coordinator b ≠ some s.chip ∨ x.decided ∨ s.now ≠ s.barX b - 262144 then s
  else
    let all := decide (s.barMask b &&& ~~~x.arrived = 0)
    let tell (s : State) (k : Fin 3) : State := (List.finRange 8).foldl (fun (s : State) n => if (s.barMask b).getLsbD n.val then s.sendBar n b k else s) s
    tell (s.modBar b fun x => { x with decided := true }) (if all then 1 else 2)

def execBarrierDecide (b : Fin 16) (s : State) : Res := .next (decideBarrier b s)

/-- The outcome of a barrier as an event record (R462). -/
def State.barEvent (s : State) (b : Fin 16) : State :=
  s.event { owner := 64, kind := 3, ltile := 0xFF, code := b.val + 16 * s.barState b, flags := 0, atb := s.now, kernel := 0, ref := 0, unit := none }

/-- BARRIER_GO_DEADLINE: without GO, the held contexts are released unstarted and the barrier is aborted. -/
def goDeadline (b : Fin 16) (s : State) : State :=
  let s := (s.heldFor b).foldl (fun (s : State) (t, c) => s.setCtx t c none) s
  let s := s.modTen fun e => { e with runList := mapIf (fun r => decide (r.barrier = some b)) (fun r => { r with running := none }) e.runList }
  (s.setBar b 4).barEvent b

def execBarrierGoDeadline (b : Fin 16) (s : State) : Res :=
  guarded (decide (s.barState b = 1 ∧ s.barX b - 16384 ≤ s.now)) (goDeadline b) s

/-- BARRIER_RELEASE: with GO, the held tasks start in the cycle X, cycle 0 of each. On a parked tile no task starts (R225): its held
contexts are released unstarted, and their entries wait for dispatch (log entry 181). -/
def releaseBarrier (b : Fin 16) (s : State) : State :=
  let parked (x : LTile × CtxNo) : Bool := bit (s.rget (treg .schCtrl x.1)) 0
  let held := s.heldFor b
  let s := (held.filter parked).foldl (fun (s : State) x =>
    (s.setCtx x.1 x.2 none).modTen fun e => { e with runList := mapIf (fun r => decide (r.running = some x)) (fun r => { r with running := none }) e.runList }) s
  let s := (held.filter fun x => !parked x).foldl (fun (s : State) (t, c) => s.modCtx t c fun k => { k with fence := none, started := s.now, last := s.now }) s
  let s := s.modTen fun e => { e with runList := mapIf (fun r => decide (r.barrier = some b)) (fun r => { r with barrier := none }) e.runList }
  (s.setBar b 3).barEvent b

def execBarrierRelease (b : Fin 16) (s : State) : Res := guarded (decide (s.barState b = 2 ∧ s.now = s.barX b)) (releaseBarrier b) s

/-! ## Twins (R403-R406) -/

/-- The twin of this chip, while FAB_CTRL.TWIN_EN is set. -/
def State.twin (s : State) : Option (Fin 8) :=
  let v := s.rget (creg .fabCtrl)
  if bit v 0 then some (fin 8 (bits v 3 1)) else none

/-- The pass index of a difference (R406): the TAG of the first entry that differs in value or is missing on one side. -/
def passDiff : List (BitVec 16 × W64) → List (BitVec 16 × W64) → Nat
  | [], [] => 0xFFFF
  | (a, _) :: _, [] => a.toNat
  | [], (b, _) :: _ => b.toNat
  | (a, x) :: r, (b, y) :: q => if a = b ∧ x = y then passDiff r q else a.toNat

/-- A mismatch (R406): recorded in FAB_TWIN unless one is recorded already; every one writes a record, and with TWIN_ACTION
suspends the tenant. -/
def State.mismatch (s : State) (kind : Nat) (r : TwinRec) (pass : Nat) : State :=
  let s := if bit (s.rget (creg .fabTwin)) 0 then s
    else s.rset (creg .fabTwin) (BitVec.ofNat 64 (1 + 2 * kind + 256 * r.tile.val + 65536 * pass + 2 ^ 32 * r.kernel.toNat))
  let s := s.logRec { cls := .uc, unit := 9, code := .rule 406 kind, owners := [.manager, .tenant], ltile := r.tile, kernel := r.kernel.toNat }
  if bit (s.rget (creg .fabCtrl)) 4 ∧ s.ten.state = .loaded then s.beginSuspend.modTen (fun e => { e with heat := false }) else s

/-- Two records of a kernel on a tile are compared, and both are done with. -/
def State.compareTwins (s : State) (mine theirs : TwinRec) : State :=
  let s := s.modFab fun f => { f with twinMine := f.twinMine.filter fun x => decide (x ≠ mine), twinTheirs := f.twinTheirs.filter fun x => decide (x ≠ theirs) }
  if mine.count = theirs.count ∧ mine.record = theirs.record ∧ mine.hashes = theirs.hashes then s
  else s.mismatch 0 mine (passDiff mine.hashes theirs.hashes)

def sameKernel (a b : TwinRec) : Bool := decide (a.kernel = b.kernel ∧ a.tile = b.tile)

/-- This chip's kernel record: to the twin, and compared once both are there (R405). -/
def State.twinKernel (s : State) (t : LTile) (k : TaskCtx) (record : List W64) : State :=
  match s.twin with
  | none => s
  | some n =>
    let r : TwinRec := { kernel := k.kernel, tile := t, count := k.passCount, record := record, hashes := k.passHashes, at_ := s.now }
    let s := s.handK n (.twin k.kernel t k.passCount record k.passHashes)
    match s.fab.twinTheirs.find? (sameKernel r) with
    | some q => s.compareTwins r q
    | none => s.modFab fun f => { f with twinMine := enq f.twinMine r }

/-- SEQ_KBND (R211, R405): the hashes go to the kernel record and are cleared; a tenant kernel's record goes to the twin. -/
def kernelEnd (t : LTile) (c : CtxNo) (i : Image) (k : TaskCtx) (w : W64) (s : State) : State :=
  let record := (List.range 4).map fun q => s.rget (treg .arrHash t q)
  let s := if k.radio then s else s.twinKernel t k record
  (kbndEff t c i k w s).modCtx t c fun k => { k with passHashes := [], passCount := 0 }

def execSeqKbnd (t : LTile) (c : CtxNo) (s : State) : Res := .next (seqIssue (opIs 0x09) (kernelEnd t c) t c s)

/-- KROVBEM_TWIN: a record of the twin; one of another chip is discarded (code 0x0302). -/
def twinFrame (port : Fin 7) (r : TwinRec) (s : State) : State :=
  if s.boot.dies ∨ !s.peerBit (s.chipAt port) 1 then s
  else
  let s := s.linkGot port
  if s.twin ≠ some (s.chipAt port) then s.logRec { cls := .ce, unit := 9, code := .num 0x0302, object := port, limit := perX 12 port }
  else match s.fab.twinMine.find? (sameKernel r) with
    | some q => s.compareTwins q r
    | none => s.modFab fun f => { f with twinTheirs := enq f.twinTheirs r }

def execKrovbemTwin (port : Fin 7) (kernel : BitVec 32) (tile : LTile) (count : Nat) (record : List W64) (hashes : List (BitVec 16 × W64)) (s : State) : Res :=
  .next (twinFrame port { kernel := kernel, tile := tile, count := count, record := record, hashes := hashes, at_ := s.now } s)

/-- TWIN_RECORD_TIMEOUT (R406): 19,660,800 cy without the twin's record. -/
def twinTimeout (kernel : BitVec 32) (tile : LTile) (s : State) : State :=
  match s.fab.twinMine.find? fun r => decide (r.kernel = kernel ∧ r.tile = tile ∧ 19660800 ≤ (s.now - r.at_).toNat) with
  | none => s
  | some r => (s.modFab fun f => { f with twinMine := f.twinMine.filter fun x => decide (x ≠ r) }).mismatch 1 r (passDiff r.hashes [])

def execTwinRecordTimeout (kernel : BitVec 32) (tile : LTile) (s : State) : Res := .next (twinTimeout kernel tile s)

/-- TWIN_MISMATCH_CLEAR (R406, R411): VALID is cleared by a 1. -/
def execTwinMismatchClear (a : Agent) (value : W64) (s : State) : Res :=
  let r := creg .fabTwin
  if mayMem a then
    let s := s.reservedBits r value
    .next (if bit value 0 then s.fset r 0 0 0 else s)
  else .next (s.regRec r)

end Sys2Proof.Machine
end

