-- ==== Sys2Proof/Machine/Gather.lean ====
section
/-!
DEFINITION. The gather unit (R348-R352): jobs, the directory, and the rows that a job moves. A command stands for one step
of a half's running job: it begins the next index, or ends the row whose line operations are complete (log entry 41).
-/
namespace Sys2Proof.Machine

/-! ## Descriptors and tables (R348, R350) -/

def gjKind (d : Bytes) : Nat := fld d 0 1 % 8
def gjHalf (d : Bytes) : Fin 2 := fin 2 (fld d 0 1 / 128)
def gjTable (d : Bytes) : Fin 64 := fin 64 (fld d 1 1)
def gjEvent (d : Bytes) : Nat := fld d 2 2
def gjCount (d : Bytes) : Nat := fld d 4 3
def gjSrc (d : Bytes) : LTile × Fin 16 × Nat := (fin 64 (fld d 8 1), fin 16 (fld d 9 1), fld d 12 4)
def gjDst (d : Bytes) : LTile × Fin 16 × Nat := (fin 64 (fld d 16 1), fin 16 (fld d 17 1), fld d 20 4)

/-- The stop of a half. -/
def halfStop (h : Fin 2) : Nat := if h = 0 then 22 else 49

/-- A table entry: TBASE, ROWS, row length in units, window, VALID. -/
def gtBase (v : W64) : Nat := 256 * bits v 31 0
def gtRows (v : W64) : Nat := bits v 57 32
def gtUnits (v : W64) : Nat := bits v 59 58 + 1
def State.gtWin (s : State) (v : W64) : DWin := if bit v 60 then s.ten.cfg.win1 else s.ten.cfg.win0

/-- The first line of a row; none for an index of ROWS or more, or a row outside the table's window. -/
def State.gtLine (s : State) (v : W64) (i : Nat) : Option Nat :=
  let w := s.gtWin v
  let a := w.lo + gtBase v + i * gtUnits v * 256
  if i < gtRows v ∧ w.valid ∧ a + gtUnits v * 256 ≤ w.hi then some (a / 64) else none

/-! ## The directory (R349) -/

/-- The set of a row of a table. -/
def dirSet (n : Fin 64) (i : Nat) : Nat := ((i * 0x9E3779B1) ^^^ (n.val * 0x85EBCA6B)) % 2 ^ 32 / 65536

def State.dirWays (s : State) (set : Nat) : List (Option GEntry) := tget (List.replicate 8 none) s.ten.dir set

def sameRow (n : Fin 64) (i : Nat) (e : Option GEntry) : Bool := match e with
  | some x => decide (x.table = n ∧ x.row = i)
  | none => false

def State.dirFind (s : State) (n : Fin 64) (i : Nat) : Option GEntry := ((s.dirWays (dirSet n i)).find? (sameRow n i)).bind id

def State.dirPut (s : State) (set : Nat) (ws : List (Option GEntry)) : State :=
  s.modTen fun e => { e with dir := tset (List.replicate 8 none) e.dir set ws }

/-- The entry of a row is made invalid. -/
def State.dirDrop (s : State) (n : Fin 64) (i : Nat) : State :=
  s.dirPut (dirSet n i) ((s.dirWays (dirSet n i)).map fun e => if sameRow n i e then none else e)

/-- An entry goes into the lowest invalid way of its set. -/
def State.dirAdd (s : State) (x : GEntry) : State :=
  let set := dirSet x.table x.row
  let ws := s.dirWays set
  s.dirPut set (replaceFirst (fun (e : Option GEntry) => e.isNone) (some x) ws)

/-- The valid entries (TEN_GDIR). -/
def State.dirCount (s : State) : Nat := sumNat (s.ten.dir.map fun e => (e.2.filter (·.isSome)).length)

/-! ## Jobs (R350) -/

/-- A zone that a job of a half may name: the half's stop as SRC and the epoch's tag as OWNER (R350). -/
def State.jobZone (s : State) (h : Fin 2) (z : LTile × Fin 16 × Nat) : Bool :=
  let c := s.rget (zcfg z.1 z.2.1)
  decide (zSrc c = halfStop h ∧ zOwner c = s.ten.tag)

/-- A job is refused, counted and recorded in the tenant view (code 0x0504). -/
def State.jobRefused (s : State) : State :=
  (s.finc (creg .tenGstat) 63 56).logRec { cls := .ce, unit := 9, code := .num 0x0504, owners := [.tenant], limit := perX 14 0 }

/-- Whether the unit may run a descriptor: a kind, an entry in use, zones that are the half's, an open epoch. -/
def State.jobOk (s : State) (d : Bytes) : Bool :=
  let k := gjKind d
  let h := gjHalf d
  decide (1 ≤ k ∧ k ≤ 5 ∧ 1 ≤ gjCount d) && bit (s.rget (creg .tenGtab (gjTable d).val)) 61
  && s.jobZone h (gjSrc d) && (k == 3 || s.jobZone h (gjDst d)) && decide (s.ten.state = .opened ∨ s.ten.state = .loaded ∨ s.ten.state = .suspended)

def State.modHalf (s : State) (h : Fin 2) (f : GHalf → GHalf) : State := s.modTen fun e => { e with halves := vmod e.halves h f }

def State.jobFull (s : State) (d : Bytes) : Bool := decide (16 ≤ (s.ten.halves.get (gjHalf d)).jobs.length)

/-- A descriptor enters the queue of its half. -/
def State.jobAdd (s : State) (d : Bytes) : State := s.modHalf (gjHalf d) fun x => { jobs := enq x.jobs { desc := d } }

/-- F4-F5 and M0 write the TEN_ block (R363). -/
def mayTen (a : Agent) : Bool := isTenantCore a || decide (a = .m0)

/-- GATHER_JOB_ENQUEUE: a write of TEN_GJQ[3] (R350, R363). -/
def enqueueJob (value : W64) (s : State) : State :=
  let d := (List.range 3).flatMap (fun i => toBytes (s.rget (creg .tenGjq i)) 8) ++ toBytes value 8
  if s.jobOk d ∧ !s.jobFull d then s.jobAdd d else s.jobRefused

def execGatherJobEnqueue (a : Agent) (value : W64) (s : State) : Res :=
  if mayTen a then .next (enqueueJob value s) else .next (s.regRec (creg .tenGjq 3))

/-- GATHER_SUBMIT: F5 enqueues the descriptor of the message. -/
def submitGather (m : Msg) (s : State) : State :=
  let d := padTo 32 m.payload
  if !s.jobOk d then s.jobRefused.reply m stBadState
  else if s.jobFull d then s.reply m stBusy
  else (s.jobAdd d).reply m stOk

def execGatherSubmit (slot : SlotId) (s : State) : Res := message 0x050D slot submitGather s

/-! ## Rows (R351) -/

/-- A unit read from a zone by a half: its four rows (R169). -/
def State.halfRead (s : State) (h : Fin 2) (t : LTile) (z : Fin 16) (u : Nat) : List RdRow × State :=
  zoneRead t z (BitVec.ofNat 32 u) (BitVec.ofNat 7 (halfStop h)) (BitVec.ofNat 7 s.ten.tag) s

/-- Consecutive units read from a zone. -/
def State.halfReads (s : State) (h : Fin 2) (t : LTile) (z : Fin 16) (u n : Nat) : List RdRow × State :=
  (List.range n).foldl (fun (x : List RdRow × State) j =>
    let r := x.2.halfRead h t z (u + j)
    (x.1 ++ r.1, r.2)) ([], s)

/-- The index at position `k` of a job's list: 64 to a unit. -/
def State.jobIndex (s : State) (h : Fin 2) (d : Bytes) (k : Nat) : Nat × State :=
  let z := gjSrc d
  let r := s.halfRead h z.1 z.2.1 (z.2.2 + k / 64)
  (bits ((r.1.getD (k % 64 / 16) {}).data) (32 * (k % 16) + 31) (32 * (k % 16)), r.2)

/-- Rows land at a position of the destination zone. -/
def State.landRow (s : State) (h : Fin 2) (d : Bytes) (u : Nat) (rows : List RdRow) : State :=
  let z := gjDst d
  (List.range (rows.length / 4)).foldl (fun (s : State) j =>
    let q := (rows.drop (4 * j)).take 4
    s.land { tile := z.1, zone := z.2.1.val, unit := BitVec.ofNat 32 (u + j), mask := 0xF, owner := BitVec.ofNat 7 s.ten.tag,
             src := BitVec.ofNat 7 (halfStop h), data := ofLanes 2048 (q.map (·.data)), poison := ofLanes 4 (q.map fun r => BitVec.ofBool r.poison), tenant := true }) s

/-- Whether the half has credit for the units of a row. -/
def State.rowCredit (s : State) (h : Fin 2) (d : Bytes) (u n : Nat) : Bool :=
  let z := gjDst d
  (List.range n).all fun j => s.hasCredit (128 + halfStop h) z.1.val z.2.1.val (BitVec.ofNat 32 (u + j))

/-- The half's running job changed. -/
def State.modJob (s : State) (h : Fin 2) (f : GJob → GJob) : State :=
  s.modHalf h fun x => { jobs := match x.jobs with | j :: r => f j :: r | [] => [] }

/-- The index is done. -/
def State.jobNext (s : State) (h : Fin 2) : State := s.modJob h fun j => { j with next := j.next + 1, asked := 0 }

/-- The lines of a row asked of their channels. -/
def State.jobAsk (s : State) (h : Fin 2) (line : Nat) (ops : List LineOp) : State :=
  let s := s.modMem fun m => { m with replies := m.replies.filter fun r => match r.1 with | .gather g _ => decide (g ≠ h) | _ => true }
  let s := s.ask (.gather h) ((List.range ops.length).zip ops |>.map fun (i, o) => (line + i, o, ReplyTo.gather h i))
  s.modJob h fun j => { j with asked := ops.length, since := s.now }

/-- The answers to the lines asked, once all are there; a line not answered 2,048 cy after it was asked is answered as
poison, and its request is retired (R469, R474). -/
def State.jobReplies (s : State) (h : Fin 2) (j : GJob) : Option (List RdRow × State) :=
  let got (i : Nat) : Option RdRow := (s.mem.replies.find? fun r => decide (r.1 = .gather h i)).map fun r => { data := r.2.1, poison := r.2.2 }
  let all := (List.range j.asked).all fun i => (got i).isSome
  if all ∨ 2048 ≤ (s.now - j.since).toNat then
    let mine (q : LineReq) : Bool := decide (q.src = .gather h)
    let s' := s.modMem fun m => { m with
      replies := m.replies.filter fun r => match r.1 with | .gather g _ => decide (g ≠ h) | _ => true
      want := m.want.filter fun q => !mine q
      chans := m.chans.map fun c => { c with accepted := c.accepted.filter fun q => !mine q } }
    some ((List.range j.asked).map fun i => (got i).getD { data := 0, poison := true }, s')
  else none

/-- An index out of range is counted (R351, TEN_GSTAT). -/
def State.outOfRange (s : State) : State := s.finc (creg .tenGstat) 63 56

/-- A step of a job: the next index begins, or the row under way ends. -/
def State.jobStep (s : State) (h : Fin 2) (j : GJob) : State :=
  let d := j.desc
  let k := gjKind d
  let n := gjTable d
  let v := s.rget (creg .tenGtab n.val)
  let u := (gjDst d).2.2 + j.next * gtUnits v
  let rows := 4 * gtUnits v
  let ix := s.jobIndex h d j.next
  let i := ix.1
  if j.asked = 0 then
    if k ≤ 2 ∧ !s.rowCredit h d u (gtUnits v) then s
    else
      let s := ix.2
      match s.gtLine v i with
      | none =>
        let s := s.outOfRange
        (if k = 1 then s.landRow h d u (List.replicate rows {}) else s).jobNext h
      | some line =>
        if k = 1 then match s.dirFind n i with
          | some e =>
            let r := (s.finc (creg .tenGstat) 23 0).halfReads h e.tile e.zone e.unit.toNat (gtUnits v)
            (r.2.landRow h d u r.1).jobNext h
          | none => (s.finc (creg .tenGstat) 47 24).jobAsk h line (List.replicate rows .read)
        else if k = 2 then
          if (s.dirFind n i).isSome then s.jobNext h
          else if (s.dirWays (dirSet n i)).all (·.isSome) then (s.finc (creg .tenGstat) 55 48).jobNext h
          else s.jobAsk h line (List.replicate rows .read)
        else
          let s := s.dirDrop n i
          if k = 3 then s.jobNext h
          else
            let z := gjDst d
            let r := s.halfReads h z.1 z.2.1 u (gtUnits v)
            r.2.jobAsk h line (r.1.map fun x => if k = 4 then .accInt x.data else .accFp x.data)
  else match s.jobReplies h j with
    | none => s
    | some (ls, s) =>
      if k = 1 then (s.landRow h d u ls).jobNext h
      else if k = 2 then
        let z := gjDst d
        let s := s.landRow h d u ls
        (s.dirAdd { table := n, row := i, tile := z.1, zone := z.2.1, unit := BitVec.ofNat 32 u }).jobNext h
      else s.jobNext h

/-- The running job of a half, while the tenant's work may go on: not through a suspend, and in a close only a job that has
begun (R335, R360; log entry 41). -/
def State.runningJob (s : State) (h : Fin 2) : Option GJob :=
  match (s.ten.halves.get h).jobs with
  | [] => none
  | j :: _ =>
    if s.ten.suspendAt.isSome ∨ s.ten.state = .suspended ∨ s.ten.state = .closed then none
    else if s.ten.state = .closing ∧ (s.ten.drainedAt.isSome ∨ (j.next = 0 ∧ j.asked = 0)) then none
    else some j

/-- A step of the running job, if it is of the kind. -/
def gatherStep (kind : Nat) (h : Fin 2) (s : State) : State :=
  match s.runningJob h with
  | some j => if gjKind j.desc = kind ∧ j.next < gjCount j.desc then s.jobStep h j else s
  | none => s

def execGatherLookup (half : Fin 2) (s : State) : Res := .next (gatherStep 1 half s)
def execGatherInstall (half : Fin 2) (s : State) : Res := .next (gatherStep 2 half s)
def execGatherEvict (half : Fin 2) (s : State) : Res := .next (gatherStep 3 half s)
def execGatherAccumulateInt32 (half : Fin 2) (s : State) : Res := .next (gatherStep 4 half s)
def execGatherAccumulateFp32 (half : Fin 2) (s : State) : Res := .next (gatherStep 5 half s)

/-- GATHER_JOB_COMPLETE (R352): every row has landed or been written; the completion event goes to F4-F5 and the tenant's
ring, and the half's next job may run. -/
def gatherComplete (h : Fin 2) (s : State) : State :=
  match s.runningJob h with
  | none => s
  | some j =>
    if j.next < gjCount j.desc then s
    else
      let s := s.modHalf h fun x => { jobs := x.jobs.tail }
      s.event { owner := 64, kind := 1, ltile := 0xFF, code := gjEvent j.desc, flags := 0, atb := s.now, kernel := 0, ref := 0, unit := none }

def execGatherJobComplete (half : Fin 2) (s : State) : Res := .next (gatherComplete half s)

/-- GATHER_DIRECTORY_CLEAR_COMPLETE (R360): 2,048 cy after Z the directory is empty. -/
def execGatherDirectoryClearComplete (s : State) : Res :=
  guarded (match s.ten.clearing with | some v => decide (v ≤ s.now) | none => false) (·.modTen fun e => { e with dir := [], clearing := none }) s

end Sys2Proof.Machine
end

