-- ==== Sys2Proof/Machine/Radio.lean ====
section
/-!
DEFINITION. The radio services of the rim dies (R289-R316): classification of frames, records, the gain decision, and
the egress builder.
-/
namespace Sys2Proof.Machine

/-! ## Air time (R39, R293) -/

/-- The symbol starts in the first `o` cycles of a numerology's grid. -/
def symbolsIn (mu0 : Bool) (o : Nat) : Nat := o / slotLen mu0 * 14 + (symCyc mu0 (o % slotLen mu0)).1

/-- The offset in an SFN frame of a symbol that a frame's fields name; none outside the numerology's ranges. -/
def symbolOffset (mu0 : Bool) (sub slot sym : Nat) : Option Nat :=
  if sub < 10 ∧ slot < (if mu0 then 1 else 2) ∧ sym < 14 then some (1966080 * sub + 983040 * slot + symStart mu0 sym) else none

/-- The instant nearest to `ts16` (1/16 cy) at an offset within 256 SFN frames; the earlier of two (R293). -/
def State.nearest (s : State) (frame off ts16 : Nat) : W64 :=
  let p := 256 * 19660800
  let ts := BitVec.ofNat 64 (ts16 / 16)
  let d := (frame * 19660800 + off + p - s.off ts % p) % p
  let up := ts + BitVec.ofNat 64 d
  if (16 * d : Int) - (ts16 % 16 : Nat) < 16 * ((p : Int) - d) + (ts16 % 16 : Nat) then up else up - BitVec.ofNat 64 p

/-! ## Stream entries (R292, R302) -/

/-- The entry that served before the first commit after air instant `v`; `g` is the one of now, and the replaced ones are listed last first. -/
def entryOf (v : W64) : StreamRegs → List (W64 × StreamRegs) → StreamRegs
  | g, [] => g
  | g, (x, h) :: r => if v < x then entryOf v h r else g

/-- The entry of a stream that serves air instant `v`. -/
def State.entryAt (s : State) (rim : Fin 4) (f : Nat) (v : W64) : StreamRegs :=
  entryOf v (s.streamRegs rim.val f) (tget {} (s.radio.rims.get rim).streams f).olds

/-- The key of a frame. -/
def frameKey (f : FhFrame) : Nat :=
  f.port.val + 16 * f.tagged.toNat + 32 * (if f.tagged then f.vid.toNat else 0) + 2 ^ 17 * f.eaxc.toNat

/-- What a frame's header says under an entry: its air instant, or none where a field is outside its range. -/
def State.airOf (s : State) (f : FhFrame) (g : StreamRegs) (ts16 : Nat) : Option W64 :=
  (symbolOffset (!bit g.fact 21) f.subframeId.toNat f.slotId.toNat f.symbolId.toNat).map fun o => s.nearest f.frameId.toNat o ts16

/-- The stream of a frame, its entry, and its air instant where its fields are in range. -/
def State.classify (s : State) (rim : Fin 4) (f : FhFrame) (ts16 : Nat) : Option (Nat × StreamRegs × Option W64) :=
  (s.radio.rims.get rim).streams.findSome? fun (i, st) =>
    (s.streamRegs rim.val i :: st.olds.map (·.2)).findSome? fun g =>
      if bit g.key 34 ∧ streamKey g.key = frameKey f then match s.airOf f g ts16 with
        | none => some (i, g, none)
        | some v => if s.entryAt rim i v = g then some (i, g, some v) else none
      else none

/-! ## Counters -/

/-- One of a cell's eight counts (CELL_STATS): LATE, EARLY, SEQGAP, SECDROP, EGLATE, MUTED, PRACH, gain steps. -/
def State.cellStat (s : State) (n k i : Nat) (by_ : Nat := 1) : State :=
  let f : Fin 64 := fin 64 n
  match tfind k (s.ctl.slices.get f).cells with
  | none => s
  | some c =>
    let st := Vector.ofFn fun (j : Fin 8) => if j.val = i then Nat.min 0xFFFFFFFF (c.stats.get j + by_) else c.stats.get j
    { s with ctl := { s.ctl with slices := vmod s.ctl.slices f fun y => { y with cells := tput k { c with stats := st } y.cells } } }

def wmaxOf (fact : W64) : Nat := if bits fact 19 16 = 0 then 16 else bits fact 19 16
def fixwOf (fact : W64) : Nat := if bits fact 59 56 = 0 then 16 else bits fact 59 56

/-- A CE record about a stream. -/
def State.streamRec (s : State) (rim : Fin 4) (f : Nat) (g : StreamRegs) (code : BitVec 16) : State :=
  s.logRec { cls := .ce, unit := 7, code := .num code, owners := [.slice (fin 64 (sliceOfFact g.fact))], object := f, limit := perX 7 (8192 * rim.val + f) }

/-- A CE record about a port. -/
def State.fhRec (s : State) (p : Fin 16) (code : BitVec 16) (detail : Bytes := []) : State :=
  s.logRec { cls := .ce, unit := 7, code := .num code, object := p, detail := detail, limit := perX 8 p }

/-! ## Sections and records (R295-R297, R307, R313) -/

/-- The width recorded for a PRB of a symbol: 16 for method 0; else the latest record that covers it, else FIXW and METH. -/
def widthOf (g : StreamRegs) (st : StreamSt) (v : W64) (p : Nat) : Nat × Nat :=
  if bits g.fact 23 22 = 0 then (16, 0)
  else match st.widths.find? fun w => decide (w.from_ ≤ v ∧ v < w.upto ∧ w.prb0 ≤ p ∧ p ≤ w.prb1) with
    | some w => (w.width, w.meth)
    | none => (fixwOf g.fact, bits g.fact 23 22)

/-- Bytes of a received PRB at a width and method. -/
def rxPrbLen (w m : Nat) : Nat := if m = 0 then 48 else 1 + 3 * w

/-- The 24 values of a received PRB (R290). -/
def prbValues (w m : Nat) (b : Bytes) : List Int :=
  if m = 0 then (List.range 24).map fun i => sInt 16 (beNat (slice b (2 * i) 2))
  else if m = 1 then (bfpDecode w b).1
  else
    let bs := msbBits (b.drop 1)
    (List.range 24).map fun i => sat (floorShift (sInt w (natOfMsb ((bs.drop (w * i)).take w)) * ((b.getD 0 0).toNat : Int) * 2 ^ (16 - w)) 7) (-32768) 32767

/-- `l_p` of R313: one more than the largest bit length of the parts. -/
def prbLevel (vs : List Int) : Nat :=
  vs.foldl (fun m v => let a := if v < 0 then (-v - 1).toNat else v.toNat; Nat.max m (if a = 0 then 1 else a.log2 + 2)) 1

/-- The bytes stored for a PRB (R295). -/
def storedPrb (expand : Bool) (w m : Nat) (b : Bytes) : Bytes :=
  if expand then (prbValues w m b).flatMap fun v => leBytes 2 (v % 65536).toNat
  else if m = 0 then 0 :: b else b

/-- The PRBs of a section. -/
def sectionPrbs (nprb : Nat) (x : USection) : Nat × Nat := if x.numPrb = 0 then (0, nprb) else (x.startPrb, x.numPrb)

/-- Bytes of a section on the wire. -/
def sectionLen (x : USection) : Nat := (if x.hdr.isSome then 6 else 4) + sumNat (x.prbs.map (·.length))

/-- The first offending byte of a frame's sections, counted from the frame's first byte (code 0x0105). -/
def sectionsFault (g : StreamRegs) : Nat → List USection → Option Nat
  | _, [] => none
  | o, x :: r =>
    let (a, n) := sectionPrbs (bits g.fact 33 25) x
    let hdr := bit g.fact 24
    let head := if hdr then 6 else 4
    if x.rb ∨ x.symInc ∨ bits g.fact 33 25 < a + n then some (o + 1)
    else if x.prbs.length ≠ n then some (o + 3)
    else match x.hdr with
      | some (_, m) =>
        if !hdr ∨ m ≠ bits g.fact 23 22 then some (o + 4)
        else if m = 1 then
          match ((List.range x.prbs.length).zip x.prbs).find? fun (_, b) => decide (16 ≤ (b.getD 0 0).toNat) with
          | some (k, _) => some (o + head + sumNat ((x.prbs.take k).map (·.length)))
          | none => sectionsFault g (o + sectionLen x) r
        else sectionsFault g (o + sectionLen x) r
      | none => if hdr then some (o + 4) else
        if bits g.fact 23 22 = 1 then
          match ((List.range x.prbs.length).zip x.prbs).find? fun (_, b) => decide (16 ≤ (b.getD 0 0).toNat) with
          | some (k, _) => some (o + head + sumNat ((x.prbs.take k).map (·.length)))
          | none => sectionsFault g (o + sectionLen x) r
        else sectionsFault g (o + sectionLen x) r

/-- A section placed in its record, or dropped whole (R296). -/
def AsmBuf.place (a : AsmBuf) (g : StreamRegs) (st : StreamSt) (x : USection) : AsmBuf × Bool :=
  let (p0, n) := sectionPrbs (bits g.fact 33 25) x
  let conflict := (List.range n).any fun i => (tfind (p0 + i) a.prbs).isSome
  let width := (List.range n).any fun i =>
    let (w, m) := widthOf g st a.sym (p0 + i)
    match x.hdr with
    | some (hw, hm) => decide (hm ≠ m) || decide ((if hw = 0 then 16 else hw) ≠ w) || decide ((x.prbs.getD i []).length ≠ rxPrbLen w m)
    | none => decide ((x.prbs.getD i []).length ≠ rxPrbLen w m)
  if conflict || width then ({ a with flags := a.flags ||| conflict.toNat ||| (2 * width.toNat) }, false)
  else
    ((List.range n).foldl (fun (a : AsmBuf) i =>
      let (w, m) := widthOf g st a.sym (p0 + i)
      let b := x.prbs.getD i []
      { a with prbs := tput (p0 + i) (storedPrb (bit g.fact 20) w m b) a.prbs, lsum := a.lsum + prbLevel (prbValues w m b) }) a, true)

/-- The record under assembly of a stream and symbol. -/
def RimSt.buf (r : RimSt) (f : Nat) (v : W64) : AsmBuf := (r.asm.find? fun a => decide (a.stream = f ∧ a.sym = v)).getD { stream := f, sym := v }

def RimSt.setBuf (r : RimSt) (a : AsmBuf) : RimSt := { r with asm := a :: r.asm.filter fun b => !decide (b.stream = a.stream ∧ b.sym = a.sym) }

/-- An on-time frame's sections placed, with its sequence check (R294-R296, 0x0109, 0x010A). -/
def State.placeFrame (s : State) (rim : Fin 4) (i : Nat) (g : StreamRegs) (v : W64) (f : FhFrame) : State :=
  let st := tget {} (s.radio.rims.get rim).streams i
  let n := sliceOfFact g.fact
  let gap : Bool := match st.seq with | some q => decide (f.seqId.toNat ≠ (q + 1) % 256) | none => false
  let s := if gap then ((s.finc ⟨.radStat2, rim.val, 0⟩ 15 0).cellStat n st.cell 2).streamRec rim i g 0x0109 else s
  let a := (s.radio.rims.get rim).buf i v
  let a := if gap then { a with flags := a.flags ||| 4 } else a
  let r := f.sections.foldl (fun (x : AsmBuf × Nat) sec => let y := x.1.place g st sec; (y.1, if y.2 then x.2 else x.2 + 1)) (a, 0)
  let s := s.modRim rim (·.setBuf r.1)
  if r.2 = 0 then s
  else ((s.finc ⟨.radStat2, rim.val, 0⟩ 31 16 r.2).cellStat n st.cell 3 r.2).streamRec rim i g 0x010A

/-- A frame outside its reception window (0x0107, 0x0108). -/
def State.missFrame (s : State) (rim : Fin 4) (i : Nat) (g : StreamRegs) (late : Bool) : State :=
  let st := tget {} (s.radio.rims.get rim).streams i
  let s := if late then s.finc ⟨.radStat, rim.val, 0⟩ 15 0 else s.finc ⟨.radStat, rim.val, 0⟩ 31 16
  let s := s.cellStat (sliceOfFact g.fact) st.cell (if late then 0 else 1)
  (s.modStream rim i fun y => { y with lateSeen := true }).streamRec rim i g (if late then 0x0107 else 0x0108)

/-- A malformed frame (0x0103, 0x0105). -/
def State.badFrame (s : State) (rim : Fin 4) (p : Fin 16) (code : BitVec 16) (off : Nat) : State :=
  (s.finc ⟨.radStat, rim.val, 0⟩ 63 48).fhRec p code (if code = 0x0105 then leBytes 4 off else [])

/-- The first application byte of a frame: after Ethernet, the tag and the eCPRI headers. -/
def appOffset (f : FhFrame) : Nat := (if f.tagged then 18 else 14) + 8

/-- A U-plane frame after the MAC's checks (R292-R294). -/
def State.uplaneFrame (s : State) (rim : Fin 4) (f : FhFrame) (ts16 : Nat) : State :=
  match s.classify rim f ts16 with
  | none => (s.finc ⟨.radStat, rim.val, 0⟩ 47 32).fhRec f.port 0x0106 (leBytes 2 f.eaxc.toNat)
  | some (i, g, air) =>
    let o := appOffset f
    if f.downlink ∨ f.payloadVersion ≠ 1 then s.badFrame rim f.port 0x0105 o
    else match air with
      | none =>
        let mu0 := !bit g.fact 21
        let late : Bool := decide (f.subframeId.toNat < 10 ∧ f.slotId.toNat < (if mu0 then 1 else 2))
        s.badFrame rim f.port 0x0105 (if late then o + 3 else o + 2)
      | some v =>
        match sectionsFault g (o + 4) f.sections with
        | some k => s.badFrame rim f.port 0x0105 k
        | none =>
          let lo := 16 * (v.toNat + bits g.ftime 20 0)
          let hi := 16 * (v.toNat + bits g.ftime 41 21)
          let s := if ts16 < lo then s.missFrame rim i g false else if hi < ts16 then s.missFrame rim i g true else s.placeFrame rim i g v f
          s.modStream rim i fun y => { y with seq := some f.seqId.toNat }

/-- Frames that wait for classification in a cycle: a rim die classifies one frame in 2 cycles (R544). -/
def RimSt.clsWaiting (r : RimSt) (now : W64) : Nat := if now < r.clsFree then ((r.clsFree - now).toNat - 1) / 2 else 0

/-- A frame joins the classification queue of its rim die. -/
def State.toClassify (s : State) (rim : Fin 4) : State :=
  s.modRim rim fun r => { r with clsFree := (if s.now < r.clsFree then r.clsFree else s.now) + 2 }

/-- The first byte of a frame's eCPRI common header and sequence number that is not as R289 supports it (code 0x0105). -/
def headFault (f : FhFrame) : Option Nat :=
  let h := if f.tagged then 18 else 14
  if f.revision ≠ 1 ∨ f.concat then some h
  else if f.msgType ≠ 0 ∧ f.msgType ≠ 5 then some (h + 1)
  else if f.msgType = 0 ∧ f.subSeq ≠ 0x80 then some (h + 7)
  else none

/-- PTP and ESMC, whose messages have rows of their own (R43, R45). -/
def timeType (e : BitVec 16) : Bool := decide (e = 0x88F7 ∨ e = 0x8809)

/-- FH_FRAME_RECEIVE (R270, R271, R289, R292, R481). A frame that finds the classification queue full is dropped (R544). -/
def fhReceive (f : FhFrame) (s : State) : State :=
  let l := s.fhLane f.port.val
  let rim := s.rimOfFh f.port.val
  let ts16 := f.ts16 - s.fget ⟨.atbTscorr, 0, f.port.val⟩ 15 0
  let s := (s.finc ⟨.fhpMisc, l, 0⟩ 31 16 f.fecUc).fset ⟨.fhpStatus, l, 0⟩ 2 2 f.highBer.toNat
  if !f.fcsOk then (s.finc ⟨.fhpRxstat, l, 0⟩ 47 32).fhRec f.port 0x0101
  else
    let s := s.finc ⟨.fhpRxstat, l, 0⟩ 31 0
    if f.len < 64 ∨ s.maxFrame l < f.len then (s.finc ⟨.fhpRxstat, l, 0⟩ 63 48).fhRec f.port 0x0102
    else if f.etherType = 0x8808 then s.finc ⟨.fhpMisc, l, 0⟩ 15 0
    else if timeType f.etherType && !f.stacked then s
    else if 512 ≤ (s.radio.rims.get rim).clsWaiting s.now then s.badFrame rim f.port 0x01FF 0
    else
      let s := s.toClassify rim
      if f.stacked ∨ f.etherType ≠ 0xAEFE then s.badFrame rim f.port 0x0103 0
      else match headFault f with
        | some o => s.badFrame rim f.port 0x0105 o
        | none =>
          if f.msgType = 5 then s.enqueue l 192 (Config.serial 5 (ts16 :: f.tagged.toNat :: f.vid.toNat :: f.body.map BitVec.toNat))
          else s.uplaneFrame rim f ts16

/-- Whether a frame's last byte reaches the parser in this cycle (R272): its timestamp, its wire time, the fixed delay, and 0 or 1 cy. -/
def State.parsedNow (s : State) (f : FhFrame) : Bool :=
  let l := s.fhLane f.port.val
  let c := (f.ts16 + ceilDiv (16 * f.len * (3072 / s.speed l)) 78125) / 16 + (if bit (s.rget ⟨.fhpCfg, l, 0⟩) 3 then 160 else 224)
  decide (s.now.toNat = c ∨ s.now.toNat = c + 1)

def execFhFrameReceive (f : FhFrame) (s : State) : Res :=
  guarded ((s.lane 1 f.port.val).isSome && bit (s.rget ⟨.fhpStatus, s.fhLane f.port.val, 0⟩) 0 && s.parsedNow f) (fhReceive f) s

/-! ## RECORD_FLUSH (R297-R300) -/

/-- The record's bytes: the header unit, then the PRBs at their places. -/
def recordOf (f : Nat) (g : StreamRegs) (st : StreamSt) (a : AsmBuf) (late : Bool) : Bytes :=
  let nprb := bits g.fact 33 25
  let expand := bit g.fact 20
  let lens := (List.range nprb).map fun p => if expand then 48 else 1 + 3 * (widthOf g st a.sym p).1
  let present := (List.range 35).map fun j => BitVec.ofNat 8 (sumNat ((List.range 8).map fun i => if (tfind (8 * j + i) a.prbs).isSome then 2 ^ i else 0))
  let head := leBytes 8 a.sym.toNat ++ leBytes 2 f ++ leBytes 2 a.prbs.length ++ leBytes 1 (a.flags ||| (if late then 8 else 0))
    ++ leBytes 1 ((sbits g.fgain 5 0) % 256).toNat ++ leBytes 2 a.lsum ++ leBytes 4 (sumNat lens)
  let body := ((List.range nprb).zip lens).flatMap fun (p, n) => match tfind p a.prbs with
    | some b => padTo n b
    | none => padTo n []
  padTo (256 * unitsPerRecord g.fact) ((padTo 64 head ++ padTo 192 present ++ body).take (recordBytes g.fact))

/-- UPS of the zone of an entry for symbol `v` (R299): over the zone's streams in the table in force then (R302). -/
def State.zoneUps (s : State) (rim : Fin 4) (g : StreamRegs) (v : W64) : Nat :=
  sumNat ((s.radio.rims.get rim).streams.map fun (f, _) =>
    let h := s.entryAt rim f v
    if bit h.key 34 ∧ h.zone = g.zone then unitsPerRecord h.fact else 0)

/-- The commit that activated a zone last before symbol `v` (R299). -/
def State.zoneSince (s : State) (k : Nat) (v : W64) : W64 :=
  let l := tget [] s.radio.zoneX k
  (l.find? fun x => decide (x ≤ v)).getD (l.getLastD v)

/-- The units of a symbol's record in its zone's order (R299). -/
def State.zoneUnits (s : State) (g : StreamRegs) (x : W64) (v : W64) (ups : Nat) (b : Bytes) : List (BitVec 32 × BitVec 2048) :=
  let mu0 := !bit g.fact 21
  let k := symbolsIn mu0 (s.off x + (v - x).toNat) - symbolsIn mu0 (s.off x)
  ((List.range (unitsPerRecord g.fact)).zip (chunks 256 b)).map fun (j, u) => (BitVec.ofNat 32 (k * ups + bits g.fact 47 34 + j), ofBytes 2048 u)

/-- The first cycle of a symbol of a numerology. -/
def State.symbolAt (s : State) (mu0 : Bool) (v : W64) : Option Nat :=
  let p := symCyc mu0 (s.off v % slotLen mu0)
  if p.2 = 0 then some p.1 else none

/-- F of a stream's record of symbol `v` (R298). -/
def State.flushAt (s : State) (g : StreamRegs) (v : W64) : W64 :=
  v + BitVec.ofNat 64 (bits g.ftime 41 21 + s.dF (s.fhLane (bits g.key 3 0)))

/-- An entry with the gain state of the stream: a later entry of the same eAxC continues it (R315, R316). -/
def State.gainFor (s : State) (rim : Fin 4) (f : Nat) (g : StreamRegs) : StreamRegs :=
  let h := s.streamRegs rim.val f
  if bit h.key 34 ∧ streamKey h.key = streamKey g.key then { g with fgain := h.fgain } else g

def flushDue (rim : Fin 4) (f : Nat) (v : W64) (s : State) : Bool :=
  let g := s.entryAt rim f v
  bit g.key 34 && (s.symbolAt (!bit g.fact 21) v).isSome && decide (s.flushAt g v = s.now)
  && decide ((tget {} (s.radio.rims.get rim).streams f).flushed ≠ some v)

def recordFlush (rim : Fin 4) (f : Nat) (v : W64) (s : State) : State :=
  let g := s.entryAt rim f v
  let st := tget {} (s.radio.rims.get rim).streams f
  let a := (s.radio.rims.get rim).buf f v
  let b := recordOf f (s.gainFor rim f g) st a st.lateSeen
  let zone : Fin 16 := fin 16 (bits g.fact 9 6)
  let tile : LTile := fin 64 (bits g.fact 5 0)
  let z : ZoneRec := { tile := tile, zone := zone, rim := rim, owner := sliceOfFact g.fact, earliest := s.now + 24, units := s.zoneUnits g (s.zoneSince g.zone v) v (s.zoneUps rim g v) b }
  let s := (s.modRim rim fun r => { r with asm := r.asm.filter fun y => !decide (y.stream = f ∧ y.sym = v) }).modStream rim f fun y =>
    { y with lateSeen := false, flushed := some v, gsum := y.gsum + a.lsum, gn := y.gn + a.prbs.length }
  { s with radio := { s.radio with zoneQ := enq s.radio.zoneQ z } }

def execRecordFlush (rim : Fin 4) (stream : Fin 8192) (symbol : W64) (s : State) : Res :=
  guarded (flushDue rim stream.val symbol s) (recordFlush rim stream.val symbol) s

/-! ## GAIN_DECISION (R313, R314) -/

/-- The procedure of R314 on a stream's gain register: the register after, and the steps moved. -/
def gainStep (v : W64) (sum np : Nat) : W64 × Nat :=
  if np = 0 then (putBit v 6 false, 0)
  else
    let gidx := sbits v 5 0
    let lvl : Int := ((6021 * sum / np : Nat) : Int) + 1505 * gidx
    let err := lvl - bits v 32 16
    let below := decide (err < 0)
    if err.natAbs ≤ 2000 then (putBit v 6 false, 0)
    else if bit v 6 ∧ bit v 7 = below then
      let k : Int := (err.natAbs + 752) / 1505
      let n := sat (if below then gidx + k else gidx - k) (-16) 16
      (putBits (putBit v 6 false) 5 0 (n % 64).toNat, (n - gidx).natAbs)
    else (putBit (putBit v 6 true) 7 below, 0)

/-- The cycle after the flush of symbol 13 of a slot. -/
def gainDue (rim : Fin 4) (f : Nat) (s : State) : Bool :=
  let g := s.streamRegs rim.val f
  let v := s.now - 1 - (s.flushAt g 0)
  bit g.key 34 && !bit g.key 33 && decide (s.symbolAt (!bit g.fact 21) v = some 13)

def gainDecision (rim : Fin 4) (f : Nat) (s : State) : State :=
  let g := s.streamRegs rim.val f
  let st := tget {} (s.radio.rims.get rim).streams f
  let r := if bit g.fgain 8 then gainStep g.fgain st.gsum st.gn else (g.fgain, 0)
  let s := (s.rset ⟨.radFgain, rim.val, f⟩ r.1).modStream rim f fun y => { y with gsum := 0, gn := 0 }
  if r.2 = 0 then s else s.cellStat (sliceOfFact g.fact) st.cell 7 r.2

def execGainDecision (rim : Fin 4) (stream : Fin 8192) (s : State) : Res := guarded (gainDue rim stream.val s) (gainDecision rim stream.val) s

/-! ## The egress builder (R303-R307) -/

/-- A C-plane section: (startPrbc, numPrbc, numSymbol). -/
abbrev CSect := Nat × Nat × Nat

/-- The bytes of section extensions from offset `o`, while their ef bit continues, at most `n`. -/
def extLen (b : Bytes) : Nat → Nat → Nat
  | 0, _ => 0
  | n + 1, o =>
    let t := (b.getD o 0).toNat
    let len := 4 * (if t % 128 = 11 then beNat (slice b (o + 1) 2) else (b.getD (o + 1) 0).toNat)
    if len = 0 then 0 else if 128 ≤ t then len + extLen b n (o + len) else len

/-- The sections of a C-plane body of section type 1, 3 or 5, of `n` more sections from offset `o` (log entry 32). -/
def cSections (b : Bytes) (size : Nat) : Nat → Nat → List CSect
  | 0, _ => []
  | n + 1, o =>
    if b.length < o + size then []
    else
      let start := beNat (slice b (o + 1) 2) % 1024
      let ef := decide (128 ≤ (b.getD (o + 6) 0).toNat)
      (start, (b.getD (o + 3) 0).toNat, (b.getD (o + 5) 0).toNat % 16) :: cSections b size n (o + size + (if ef then extLen b 16 (o + size) else 0))

/-- The compression header and the sections of a C-plane body: numberOfSections, sectionType, and what follows by type. -/
def cPlane (b : Bytes) : Option (Nat × Nat × List CSect) :=
  let n := (b.getD 0 0).toNat
  let t := (b.getD 1 0).toNat
  let at_ : Option (Nat × Nat × Nat) := if t = 1 ∨ t = 5 then some (2, 8, 4) else if t = 3 then some (7, 12, 8) else none
  at_.map fun (h, size, o) => ((b.getD h 0).toNat / 16, (b.getD h 0).toNat % 16, cSections b size n o)

/-- Widths recorded from an uplink C-plane message to an eAxC that has a stream (R307). -/
def State.recordWidths (s : State) (rim : Fin 4) (fh eaxc : Nat) (air : W64) (body : Bytes) : State :=
  match cPlane body with
  | none => s
  | some (w, m, secs) =>
    (s.cfg.streams.filter fun (r, _, _, g) => decide (r = rim ∧ bits g.key 3 0 = fh ∧ bits g.key 32 17 = eaxc)).foldl (fun (s : State) (_, f, _, g) =>
      let mu0 := !bit g.fact 21
      let slot := air - BitVec.ofNat 64 (s.off air % slotLen mu0)
      let sym := (symCyc mu0 (s.off air % slotLen mu0)).1
      let new := secs.map fun (a, n, ns) =>
        let e := sym + ns
        ({ from_ := air, upto := slot + BitVec.ofNat 64 (if 14 ≤ e then slotLen mu0 else symStart mu0 e), prb0 := a,
           prb1 := if n = 0 then bits g.fact 33 25 - 1 else a + n - 1, width := if w = 0 then 16 else w, meth := m } : WidthRec)
      s.modStream rim f.val fun y => { y with widths := new.reverse ++ y.widths.filter fun z => decide (s.now < z.upto + 39321600) }) s

/-- The frame that the builder makes of a message (R304). -/
def State.egressFrame (tm : Bytes) (cplane : Bool) (mu0 : Bool) (off : Nat) (seq : Nat) (body : Bytes) : Bytes :=
  let fl := fld tm 3 1
  let r := off % 19660800
  let p := symCyc mu0 (r % slotLen mu0)
  let slot := if mu0 then 0 else r / 983040 % 2
  let tag := if fl / 4 % 2 = 1 then beBytes 2 0x8100 ++ beBytes 2 (fld tm 20 2) else []
  let app := beBytes 1 (128 * (fl / 2 % 2) + 16 + fl / 8 % 16) ++ beBytes 1 (off / 19660800 % 256) ++ beBytes 1 (16 * (r / 1966080) + slot / 4)
    ++ beBytes 1 (64 * (slot % 4) + p.1) ++ body
  let ecpri := beBytes 1 0x10 ++ beBytes 1 (if cplane then 2 else 0) ++ beBytes 2 (4 + app.length) ++ beBytes 2 (fld tm 6 2) ++ beBytes 1 seq ++ beBytes 1 0x80
  let b := slice tm 8 6 ++ slice tm 14 6 ++ tag ++ beBytes 2 0xAEFE ++ ecpri ++ app
  b ++ List.replicate (60 - b.length) 0

/-- A message whose units have all arrived (R305): its units leave the ring, and the frame joins its queue. A message for an
air symbol whose C-plane window opened before the cell's activating commit is not sent (R325, log entry 141), nor one of a reserved KIND or
longer than R303 allows (log entry 183). -/
def egressPlace (rim : Fin 4) (key : Nat) (header body : Bytes) (s : State) : State :=
  let n := ceilDiv (64 + body.length) 256
  let s := s.modRim rim fun r => { r with rings := let l := (tget [] r.rings key).drop n; if l = [] then tdel key r.rings else tput key l r.rings }
  let cplane : Bool := decide (fld header 2 1 = 1)
  let air := BitVec.ofNat 64 (fld header 8 8)
  match tfind (fld header 0 2) (s.radio.rims.get rim).templates with
  | none => s
  | some (sl, tm) =>
    let cell := tmplCell tm
    let fh := tmplPort tm
    let l := s.fhLane fh
    if 1 < fld header 2 1 ∨ s.maxFrame l < body.length + 42 then s
    else
    match tfind cell (s.ctl.slices.get (fin 64 sl)).cells with
    | none => s
    | some c =>
      let mu0 := cellMu0 c.payload
      let seqKey := 2 * fld tm 6 2 + cplane.toNat
      let seq := tget 0 (s.radio.rims.get rim).seq seqKey
      let b := State.egressFrame tm cplane mu0 (s.off air) seq body
      if fld tm 3 1 % 2 ≠ cplane.toNat then s
      else if c.st = 2 then (s.finc ⟨.radStat2, rim.val, 0⟩ 63 48).cellStat sl cell 5
      else if air ≤ s.now + BitVec.ofNat 64 (fld c.payload (if cplane then 28 else 20) 4 + s.occupancy l (s.cost l b)) then
        (s.finc ⟨.radStat2, rim.val, 0⟩ 47 32).cellStat sl cell 4
      else if air < c.since + BitVec.ofNat 64 (fld c.payload 24 4) then s
      else
        let k := ((if cplane then (s.portSt l).cells else (s.portSt l).ucells).findIdx? fun x => decide (x = (fin 64 sl, fin 512 cell))).getD 64
        let s := s.modRim rim fun r => { r with seq := tput seqKey ((seq + 1) % 256) r.seq }
        let s := s.enqueue l (if cplane then k else 64 + k) b
        if cplane ∧ fld tm 3 1 / 2 % 2 = 0 then s.recordWidths rim fh (fld tm 6 2) air body else s

/-- The ring of a tile, of its 16, whose units begin with a message, 32 cycles after its last unit arrived (R305). -/
def State.ringWith (s : State) (rim : Fin 4) (tile : LTile) (header body : Bytes) : Option Nat :=
  (List.range 16).findSome? fun z =>
    let us := tget [] (s.radio.rims.get rim).rings (16 * tile.val + z)
    let mine := us.take (ceilDiv (64 + body.length) 256)
    let have_ := mine.flatMap fun u => toBytes u.1 256
    if (mine.getLast?.any fun u => decide (u.2 + 32 = s.now)) ∧ header.length = 64 ∧ fld header 4 4 = body.length ∧ 1 ≤ body.length ∧ have_.take (64 + body.length) = header ++ body then some (16 * tile.val + z) else none

def execEgressMessagePlace (rim : Fin 4) (tile : LTile) (header body : Bytes) (s : State) : Res :=
  .next (match s.ringWith rim tile header body with
    | some key => egressPlace rim key header body s
    | none => s)

/-! ## FH_SEND (R306, R454) -/

/-- FH_SEND: a slice's frame is queued in q128 + n of the port. -/
def fhSend (buffer : Bytes) (m : Msg) (s : State) : State :=
  let p := m.payload
  let n := fld p 2 2
  match s.lane 1 (fld p 0 1 % 16), m.sender with
  | some l, .slice k =>
    if s.maxFrame l.val - 4 < n then s.reply m stMalformed 66
    else (s.enqueue l.val (128 + k.val) (if fld p 1 1 % 2 = 1 then padTo n buffer else slice p 8 n)).reply m stOk
  | _, _ => s.reply m stBadState

def execFhSend (slot : SlotId) (buffer : Bytes) (s : State) : Res := message 0x0308 slot (fhSend buffer) s

end Sys2Proof.Machine
end

