-- ==== Sys2Proof/Machine/View.lean ====
section
/-!
DEFINITION. What a register reads as (the register tables of R41, R88, R143, R185, R225, R265, R288, R326, R363, R411,
R436, R465, R504, R518, R539): its stored value, or, for a field that shows the part's state, that state.
-/
namespace Sys2Proof.Machine

/-- A value from its fields: (lowest bit, number). -/
def fields (l : List (Nat × Nat)) : W64 := BitVec.ofNat 64 (sumNat (l.map fun x => x.2 * 2 ^ x.1))

/-- A stored value with fields replaced: (highest bit, lowest bit, number). -/
def withFields (v : W64) (l : List (Nat × Nat × Nat)) : W64 := l.foldl (fun (v : W64) x => putBits v x.1 x.2.1 x.2.2) v

/-- Bit `i` set for each `i` of a list. -/
def bitsOf (l : List Nat) : Nat := sumNat (l.map fun i => 2 ^ i)

/-- ARR_STATUS: by quarter busy, frozen, poisoned; PARKED. -/
def State.arrView (s : State) (t : LTile) : W64 :=
  let ps := (s.tiles.get t).arr.run
  let qs (f : Pass → Bool) : Nat := bitsOf ((List.range 4).filter fun q => ps.any fun p => f p && (partQs p.part.val).contains q)
  let parked := bit (s.rget (treg .arrCtrl t)) 1 && ps.isEmpty
  fields [(0, qs fun p => !p.frozen), (4, qs (·.frozen)), (8, qs (·.poison)), (12, parked.toNat)]

/-- SGE_STATUS: the task of the last instruction issued is the current one (R143). -/
def State.sgeView (s : State) (t : LTile) (v : W64) : W64 :=
  let e := (s.tiles.get t).eng
  withFields v [(0, 0, (e.flight != []).toNat), (1, 1, (e.cur.any fun c => (s.ctx t c).any (·.engPoison)).toNat), (2, 2, (bit (s.rget (treg .sgeCtrl t)) 0 && e.flight == []).toNat), (14, 8, e.owner.getD 0)]

/-- PAD_STATUS; NOZONE_DROPS is stored. -/
def State.padView (s : State) (t : LTile) (v : W64) : W64 :=
  let p := s.pad t
  let patrol := bit (s.rget (treg .padCtrl t)) 0 && p.patrolAt.isSome && !s.inWindow s.now t && !(s.ctl.swap.any fun c => decide (c.1 = t))
  withFields v [(0, 0, patrol.toNat), (1, 1, p.sweep.isSome.toNat), (2, 2, p.regrow.isSome.toNat), (14, 8, p.lastSweep)]

/-- PAD_SPARE. -/
def State.spareView (s : State) (t : LTile) : W64 :=
  let p := s.pad t
  let left (b : Nat) : Nat := 32 - p.bankSpares b
  let least := (List.range 48).foldl (fun a b => Nat.min a (left b)) 32
  fields [(0, least), (8, ((List.range 48).find? fun b => left b == least).getD 0), (32, sumNat ((List.range 48).map p.bankSpares))]

/-- PAD_WIN[n]. -/
def State.winView (s : State) (t : LTile) (n : Nat) : W64 :=
  match s.ctx t (fin 8 n) with
  | some k => fields [(0, k.base / 64), (18, k.bound / 64), (36, k.srow), (48, k.owner), (55, 1)]
  | none => 0

/-- SCH_STATUS. -/
def State.schView (s : State) (t : LTile) : W64 :=
  let held := (List.range 8).filter fun c => (s.ctx t (fin 8 c)).isSome
  let radio := held.filter fun c => (s.ctx t (fin 8 c)).any (·.radio)
  let running := radio.find? fun c => (s.ctx t (fin 8 c)).any fun k => k.ended.isNone
  let parked := bit (s.rget (treg .schCtrl t)) 0 && !held.any fun c => s.busy t (fin 8 c)
  fields [(0, bitsOf held), (8, bitsOf radio), (16, running.getD 0), (19, (s.inWindow s.now t).toNat), (20, parked.toNat)]

/-- SCH_NEXTWIN. -/
def State.nextView (s : State) (t : LTile) : W64 := ((s.nextWin1 t (s.now + 1)).map (·.1)).getD (BitVec.allOnes 64)

/-- SCH_CTX[n]. -/
def State.ctxView (s : State) (t : LTile) (n : Nat) : W64 :=
  match s.ctx t (fin 8 n) with
  | some k => fields [(0, 1), (1, (!k.radio).toNat), (2, k.sat.toNat), (3, k.nan.toNat), (4, k.poison.toNat), (8, k.pc % 2 ^ 24), (32, k.kernel.toNat)]
  | none => 0

def DWin.view (w : DWin) : W64 := fields [(0, w.base), (21, w.bound), (40, w.valid.toNat)]

/-- MEM_WIN[n][w], at index 2n + w. -/
def State.memWinView (s : State) (t : LTile) (i : Nat) : W64 :=
  match s.ctx t (fin 8 (i / 2)) with
  | some k => (if i % 2 = 0 then k.win0 else k.win1).view
  | none => 0

/-- MEM_STATUS. -/
def State.memView (s : State) : W64 :=
  let degraded := ((List.range 160).filter fun k => bit (s.rget (creg .memCh k)) 11).length
  let repair := s.mem.chans.toList.any fun c => c.repair.isSome
  let claimed := sumNat ((List.range 32).map fun r => (s.claimedSlots s.now r).length)
  fields [(0, (decide (11 ≤ s.stage)).toNat), (1, s.orderedMode.toNat), (2, s.mem.scrub.isSome.toNat), (3, repair.toNat), (8, degraded), (16, claimed)]

/-- Whether the previous table of a rim die still serves symbols before a commit (R302). -/
def State.oldTab (s : State) (r : Fin 4) : Bool :=
  (s.radio.rims.get r).streams.any fun e => e.2.olds.any fun (x, g) => bit g.key 34 && decide (s.now < s.flushAt g x)

/-- RAD_STATUS. -/
def State.radView (s : State) (r : Fin 4) : W64 :=
  let n := ((s.radio.rims.get r).streams.filter fun e => bit (s.rget ⟨.radFkey, r.val, e.1⟩) 34).length
  fields [(0, (s.oldTab r).toNat), (16, n)]

/-- TEN_STATUS. -/
def State.tenView (s : State) : W64 :=
  let e := s.ten
  fields [(0, e.state.code), (8, if e.state = .closed then 0x7F else e.tag), (15, s.orderedMode.toNat), (16, e.therm.val), (18, e.sealing.isSome.toNat),
          (19, e.unsealing.isSome.toNat), (20, e.unsealFailed.toNat)]

/-- The current key generation's index (TEN_KEYS.CURRENT). -/
def State.curGen (s : State) : Fin 4 := fin 4 (s.fget (creg .tenKeys) 5 4)

/-- TEN_KEYS; CURRENT is stored. -/
def State.keysView (s : State) : W64 :=
  let live := bitsOf ((List.range 4).filter fun i => (s.ten.keys.get (fin 4 i)).isSome)
  let busy := bitsOf ((List.range 4).filter fun i => (s.ten.sealing.any fun x => x.gen.val == i) || (s.ten.unsealing.any fun x => x.gen == some (fin 4 i)))
  fields [(0, live), (4, s.curGen.val), (8, busy), (32, ((s.ten.keys.get s.curGen).map (·.genNum)).getD 0)]

/-- TEN_GDIR. -/
def State.gdirView (s : State) : W64 :=
  fields [(0, s.dirCount), (20, s.ten.clearing.isSome.toNat), (32, (s.ten.halves.get 0).jobs.length), (37, (s.ten.halves.get 1).jobs.length)]

/-- FAB_STATUS. -/
def State.fabView (s : State) : W64 :=
  let live := bitsOf ((List.range 8).filter fun n => s.member (fin 8 n) && !s.peerBit (fin 8 n) 2)
  fields [(0, s.chip.val), (8, s.board.members.toNat), (16, live), (24, (s.board.leader == s.chip && s.member s.chip).toNat), (25, s.orderedMode.toNat),
          (26, s.fab.callBack.isSome.toNat)]

/-- CTL_PEND[i]: entries 0-15 the commits of slice and device sets in order of acceptance, 16-19 the actions by kind (R422). -/
def State.pendAt (s : State) (i : Nat) : Option Pending :=
  if i < 16 then (s.ctl.pend.filter fun p => match p.set with | .action _ => false | _ => true)[i]?
  else s.ctl.pend.find? fun p => decide (p.set = .action (fin 4 (i - 16)))

def State.pendView (s : State) (i : Nat) : W64 :=
  match s.pendAt i with
  | some p => match p.set with
    | .slice n => fields [(0, n.val), (7, 1)]
    | .device => fields [(6, 1), (7, 1)]
    | .action _ => fields [(7, 1), (8, 1)]
  | none => 0

/-- MBX_ARMED[i]. -/
def State.armedView (s : State) (i : Nat) : W64 :=
  fields ((List.range 64).map fun b => (b, (s.slot (.pf0 (fin 256 (64 * i + b)))).armed.isSome.toNat))

/-- MBX_OWNER[n]. -/
def State.ownerView (s : State) (n : Nat) : W64 :=
  let i : SlotId := .pf0 (fin 256 n)
  let seq := match (s.slot i).kept with | some (q, _, _) => q | none => 0
  match s.slotOwner i with
  | none => fields [(32, seq)]
  | some o =>
    let v := s.vectors o
    let k : Nat × Nat := match o with | .manager => (1, 0) | .slice n => (2, n.val) | .tenant => (3, 0) | .mgmt => (0, 0)
    fields [(0, k.1), (2, k.2), (8, v.1), (19, v.2), (32, seq)]

/-- Open SPDM sessions over both transports. -/
def State.sessions (s : State) : Nat :=
  ((s.spdm.pcie.sessions.toList ++ s.spdm.i3c.sessions.toList).filter (·.isSome)).length

/-- A port's registers that read 0 on clutch ports, on unused lanes and on lanes that are not a port's first lane (R288). -/
def State.portHidden (s : State) (l : Nat) : Bool :=
  let v := s.rget ⟨.fhpCfg, l, 0⟩
  decide (bits v 2 0 = 0 ∨ bits v 2 0 = 2 ∨ bits v 12 8 ≠ l)

/-- What a register reads as; bits under no reading access read 0 (R10, R11). -/
def State.view (s : State) (r : Reg) : W64 :=
  let v := s.rget r
  let t : LTile := fin 64 r.blk
  let w := regRow r.name
  let x : W64 := match r.name with
    | .atbNow => s.now
    | .atbState => withFields v [(8, 8, s.freqOk.toNat), (63, 32, Nat.min (2 ^ 32 - 1) s.holdEst)]
    | .atbFreq => s.freqNow
    | .atbPstart => s.now - BitVec.ofNat 64 (s.off s.now)
    | .arrId => fields [(0, (s.ptile t).val), (8, t.val)]
    | .arrStatus => s.arrView t
    | .arrFault => withFields v [(31, 24, s.parityCount t)]
    | .sgeStatus => s.sgeView t v
    | .padStatus => s.padView t v
    | .padSpare => s.spareView t
    | .padWin => s.winView t r.idx
    | .schStatus => s.schView t
    | .schNextwin => s.nextView t
    | .schCtx => s.ctxView t r.idx
    | .memWin => s.memWinView t r.idx
    | .memStatus => s.memView
    | .memCh => withFields v [(10, 0, 1675 - (s.chan r.idx).sparesUsed)]
    | .radStatus => s.radView (fin 4 r.blk)
    | .radAsm => withFields v [(18, 0, s.asmUsed (fin 4 r.blk))]
    | .tenStatus => s.tenView
    | .tenKeys => s.keysView
    | .tenGdir => s.gdirView
    | .fabStatus => s.fabView
    | .ctlStatus => s.ctlStatus
    | .ctlPendA => ((s.pendAt r.idx).map (·.x)).getD 0
    | .ctlPendB => s.pendView r.idx
    | .mbxArmed => s.armedView r.idx
    | .mbxOwner => s.ownerView r.idx
    | .secCnt => fields [(0, s.boot.fwcnt), (32, s.boot.bdcnt)]
    | .secSpdm => withFields v [(35, 32, s.sessions)]
    | .pciStatus => withFields v [(11, 9, (s.pci.ide.toList.filter (·.on)).length)]
    | .pkgStatus => withFields v [(4, 4, (decide (0 < s.log.ufCount)).toNat), (5, 5, s.fget (creg .tenTherm) 32 32)]
    | .fhpCtrl | .fhpRxstat | .fhpTxstat | .fhpMisc | .fhpQ | .fhpTtw => if s.portHidden r.blk then 0 else v
    | _ => v
  BitVec.ofNat 64 (x.toNat &&& (w.rw ||| w.ro ||| w.w1c ||| w.rc))

/-- A read of the registers' address space: an address that names no register reads 0 (log entry 42). `clear` says whether
the read clears what is under RC (R10). -/
def State.readReg (s : State) (addr : Nat) (clear : Bool) : W64 × State :=
  match Reg.ofAddr addr with
  | none => (0, s)
  | some r =>
    let rc := (regRow r.name).rc
    (s.view r, if clear ∧ rc ≠ 0 then s.rset r (BitVec.ofNat 64 ((s.rget r).toNat &&& (2 ^ 64 - 1 - rc))) else s)

end Sys2Proof.Machine
end

