-- ==== Sys2Proof/Machine/Access.lean ====
section
/-!
DEFINITION. Accesses to registers and memory: register writes by agents, the debug paths, the messages of family 07, BAR4
and the debug window (R10, R11, R158, R456, R477, R478, R502, R503, R508-R510).
-/
namespace Sys2Proof.Machine

/-- The state that a command answers. -/
def stateOf (s : State) : Res → State
  | .next t => t
  | _ => s

/-! ## Register writes (R10, R11 and each block's rule) -/

def isM0 (a : Agent) : Bool := decide (a = .m0)

/-- The blocks in which every write but one of a writable register by its agents is recorded: a write of a read-only register is recorded
too (R185, R363, R411, R436, R465, R504, R518, R539). -/
def strictBlock (n : RegName) : Bool :=
  match n with
  | .padStatus | .padEcc | .padSpare | .padOpfault | .padWin | .padLzState | .padLzCnt
  | .tenStatus | .tenMeter | .tenStat | .tenGdir | .tenGstat | .tenKeys
  | .fabStatus | .fabStat | .fabStat2 | .fabGw | .fabPeer | .fabClink | .fabBarA | .fabBarB | .fabLpeerA | .fabLpeerB | .fabLpeerC | .fabLpeerD
  | .fabLmap | .fabOkey | .pciStatus | .pciStat => true
  | _ => false

/-- Whether an agent is one that writes a register of a block (R41, R88, R143, R185, R225, R265, R288, R326, R363, R411, R436, R465, R504, R518, R539). -/
def blockAgent (a : Agent) (r : Reg) : Bool :=
  let t : LTile := fin 64 r.blk
  match r.name with
  | .atbNow | .atbCtrl | .atbState | .atbOffset | .atbFreq | .atbServo | .atbHold | .atbFrameOffset | .atbSnap | .atbSnapNow | .atbSnapF0
  | .atbSnapF1 | .atbSnapMf | .atbPstart | .atbTod | .atbPtpMaster | .atbStat | .atbTscorr => isM0 a
  | .arrSave => mayTile a t || isTenantCore a
  | .arrId | .arrStatus | .arrCtrl | .arrFault | .arrPasses | .arrMaccy | .arrPreempt | .arrHash
  | .sgeStatus | .sgeCtrl | .sgeFault | .sgeFlags | .sgeIcount
  | .padStatus | .padCtrl | .padSweep | .padEcc | .padSpare | .padOpfault | .padWin | .padLzCfg | .padLzRd | .padLzState | .padLzCnt
  | .schStatus | .schCtrl | .schNextwin | .schFault | .schStat | .schCtx => mayTile a t
  | .memWin => false
  | .memStatus | .memCtrl | .memScrub | .memRepair | .memChk | .memStat | .memScrubWin | .memCh | .memEcc => mayMem a
  | .radStat | .radStat2 => isM0 a || decide (a = .commitUnit)
  | .fhpCfg | .fhpStatus | .fhpCtrl | .fhpRxstat | .fhpTxstat | .fhpMisc | .fhpQ | .fhpTtw
  | .radStatus | .radAsm | .radFkey | .radFact | .radFtime | .radFgain | .ctlRole => decide (a = .commitUnit)
  | .tenPwr | .tenTherm => isM0 a
  | .tenStatus | .tenCtrl | .tenEnd | .tenKeys | .tenMeter | .tenStat | .tenGdir | .tenGstat | .tenGjq | .tenGtab => mayTen a
  | .fabStatus | .fabCtrl | .fabStat | .fabStat2 | .fabTwin | .fabGw | .fabPeer | .fabClink | .fabBarA | .fabBarB | .fabLpeerA
  | .fabLpeerB | .fabLpeerC | .fabLpeerD | .fabLmap | .fabOkey | .fabReg => mayMem a
  | .ctlStatus | .ctlLast | .ctlLastset | .ctlHb | .ctlPendA | .ctlPendB | .mbxArmed | .mbxStat | .mbxOwner
  | .secStatus | .secCnt | .secSpdm | .pkgStatus | .pkgTemp | .pkgCool | .pkgClk | .pkgStat | .pkgRail => false
  | .pciStatus | .pciB4base | .pciDbgwin | .pciStat => isM0 a

/-- Whether an agent's write of a register is not refused and recorded. -/
def mayWrite (a : Agent) (r : Reg) : Bool := blockAgent a r && !(strictBlock r.name && decide (r.writable = 0))

/-- A write of FAB_CTRL: TWIN_EN is set only while an epoch is open in ordered mode, with another member as the twin (R403). -/
def State.twinMay (s : State) (v : W64) : Bool :=
  s.board.members.getLsbD (bits v 3 1) && decide (bits v 3 1 ≠ s.chip.val) && s.ten.ordered && decide (s.ten.state = .opened ∨ s.ten.state = .loaded ∨ s.ten.state = .suspended)

def State.fabCtrlWrite (s : State) (value : W64) : State :=
  let r := creg .fabCtrl
  let old := s.rget r
  let v := r.store old value
  if bit v 0 ∧ !bit old 0 ∧ !s.twinMay v then
    (s.logRec { cls := .ce, unit := 9, code := .rule 403 0, limit := perX 0 r.addr }).rset r (putBit v 0 false)
  else s.rset r v

/-- Whether a new value of a region entry takes nothing away that the old one gave (R373). -/
def regWidens (old new : W64) : Bool :=
  !bit old 19 || decide (bits old 47 32 = 0)
  || (bit new 19 && decide (bits old 7 0 = bits new 7 0 ∧ bits old 47 32 = bits new 47 32)
      && decide (bits old 18 8 &&& (2 ^ 11 - 1 - bits new 18 8) = 0))

/-- A write of FAB_REG that narrows access starts a recall of the GIB (R373). -/
def State.startRecall (s : State) (i : Nat) (v : W64) : State :=
  let s := s.finc (creg .fabStat2) 15 0
  s.modFab fun f => { f with callBack := some { reg := i, value := v, at_ := s.now, lines := [] } }

/-- A write of FAB_REG; while another recall runs, one that narrows access has no effect and is recorded. -/
def State.regionWrite (s : State) (i : Nat) (value : W64) : State :=
  let r := creg .fabReg i
  let old := s.rget r
  let v := r.store old value
  if regWidens old v then s.widenRegion i v
  else if s.fab.callBack.isSome then s.regRec r
  else s.startRecall i v

/-- A write of ATB_CTRL: another time source, or a frequency source that is not qualified (R49, R52). -/
def State.atbCtrlWrite (s : State) (value : W64) : State :=
  let r := creg .atbCtrl
  let v := r.store (s.rget r) value
  let s := if bits v 2 0 ≠ s.tsrc ∧ s.time.src.timeOk then s.timeLost 0x02FF else s
  let s := s.rset r v
  (if s.servoState = stHoldFreq ∧ !s.freqOk then s.toServo stHold else s).refreshQl

/-- A write of TEN_END: an instant that has passed never fires (R58). -/
def State.endWrite (s : State) (v : W64) : State :=
  (s.rset (creg .tenEnd) v).modTen fun e => { e with endArmed := decide (s.now < v) && decide (v ≠ BitVec.allOnes 64) }

/-- A write that the agent may make, under the access codes. -/
def State.storeReg (s : State) (r : Reg) (value : W64) : State :=
  match r.name with
  | .atbCtrl => s.atbCtrlWrite value
  | .tenGjq => s.rset r value
  | .tenEnd => s.endWrite value
  | .tenPwr =>
    -- a commit of this cycle has set BUDGET: the direct write is lost (R424)
    if s.ctl.moved.any fun m => m.1 == s.now then s.regRec r else s.rset r (r.store (s.rget r) value)
  | .fabCtrl => s.fabCtrlWrite value
  | .fabReg => s.regionWrite r.idx value
  | .radStat | .radStat2 => s.rset r 0
  | .ctlRole => s.rset r (BitVec.ofNat 64 (value.toNat &&& 0x77777777))
  | _ => s.rset r (r.store (s.rget r) value)

/-- A write by an agent. Registers whose write has a row of its own act as that row says. -/
def writeReg (a : Agent) (addr : Nat) (value : W64) (s : State) : State :=
  match Reg.ofAddr addr with
  | none => s
  | some r =>
    let t : LTile := fin 64 r.blk
    match r.name with
    | .atbSnap => stateOf s (execAtbSnap a value s)
    | .sgeFlags => stateOf s (execSgeFlagsClear t a value s)
    | .padSweep => stateOf s (execPadSweep t a value s)
    | .padLzCfg => stateOf s (execZoneEnable t (fin 16 r.idx) a value s)
    | .padLzRd => stateOf s (execZoneRdWrite t (fin 16 r.idx) a value s)
    | .memRepair => stateOf s (execMemRepairGo a value s)
    | .memScrub => stateOf s (execMemScrubGo a value s)
    | .fabTwin => stateOf s (execTwinMismatchClear a value s)
    | _ =>
      if r.name = .tenGjq ∧ r.idx = 3 then stateOf s (execGatherJobEnqueue a value s)
      else if mayWrite a r then (s.reservedBits r value).storeReg r value
      else s.regRec r

/-- REGISTER_WRITE (R10, R11): an address that names no register takes nothing. -/
def execRegisterWrite (a : Agent) (addr : Nat) (value : W64) (s : State) : Res := .next (writeReg a addr value s)

/-- REGISTER_READ_CLEAR (R10). ATB_STAT clears only when M0 reads it (R41). -/
def readClear (a : Agent) (addr : Nat) (s : State) : State :=
  let keep := decide ((Reg.ofAddr addr).map (·.name) = some .atbStat) && !isM0 a
  (s.readReg addr !keep).2

def execRegisterReadClear (a : Agent) (addr : Nat) (s : State) : Res := .next (readClear a addr s)

/-- REG_READ (R455): COUNT registers from ADDR. ATB_STAT clears only for PF1, which M0 serves. -/
def regReads (mgmt : Bool) : Nat → Nat → State → Bytes × State
  | _, 0, s => ([], s)
  | addr, n + 1, s =>
    let keep := decide ((Reg.ofAddr addr).map (·.name) = some .atbStat) && !mgmt
    let r := s.readReg addr !keep
    let x := regReads mgmt (addr + 8) n r.2
    (toBytes r.1 8 ++ x.1, x.2)

def regRead (m : Msg) (s : State) : State :=
  let x := regReads (decide (m.sender = .mgmt)) (fld m.payload 0 8) (fld m.payload 8 4) s
  x.2.reply m stOk 0 x.1

def execRegRead (slot : SlotId) (s : State) : Res := message 0x0701 slot regRead s

/-- The registers that REG_WRITE admits (R456). -/
def mgmtReg : RegName → Bool
  | .atbCtrl | .atbServo | .atbHold | .atbPtpMaster | .atbSnap | .pciB4base | .pciDbgwin => true
  | _ => false

def regWrite (m : Msg) (s : State) : State :=
  let addr := fld m.payload 0 8
  if (Reg.ofAddr addr).any fun r => mgmtReg r.name then
    let s := writeReg .m0 addr (ofBytes 64 (slice m.payload 8 8)) s
    s.reply m stOk 0 (toBytes (s.readReg addr false).1 8)
  else s.reply m stNotPermitted 64

def execRegWrite (slot : SlotId) (s : State) : Res := message 0x0702 slot regWrite s

/-! ## The debug path (R158, R148, R230) -/

/-- The record of an access to the hole of the DRAM range (R230). -/
def State.holeRec (s : State) (agent : Nat) : State :=
  (s.finc (creg .memStat) 31 16).logRec { cls := .ce, unit := 5, code := .num 0x0406, limit := perX 13 agent }

/-- A line as the debug path reads it: its bytes and its META byte. -/
def State.debugLine (s : State) (agent : Nat) (a : Nat) : Row × Byte × State :=
  if a < 0x2400000000 then
    let r := s.readLine (a / 64) reqDebug
    (r.1.data, if r.1.poison then 1 else 0, r.2)
  else if a < 0x4000000000 then (0, 0, s.holeRec agent)
  else if a < 0x4040000000 then
    let t : LTile := fin 64 ((a - 0x4000000000) / 0x1000000)
    let o := (a - 0x4000000000) % 0x1000000
    if o < 0xC00000 then
      let r := (s.pad t).row (rowOf o)
      (r.raw, BitVec.ofNat 8 (r.tag + 128 * r.poison.toNat), s)
    else (0, 0, s.logRec { cls := .ce, unit := 3, code := .num 0x0505, ltile := t, ptile := s.ptile t, limit := perX 4 t })
  else (0, 0, s)

/-- Lines that the debug path reads. -/
def debugLines (agent : Nat) : Nat → Nat → State → List (Row × Byte) × State
  | _, 0, s => ([], s)
  | a, n + 1, s =>
    let r := s.debugLine agent a
    let x := debugLines agent (a + 64) n r.2.2
    ((r.1, r.2.1) :: x.1, x.2)

/-- The local DRAM lines that a span of device bytes touches, as reads. -/
def dramSpan (a len : Nat) : List (Nat × Bool) := (span (a / 64) ((a % 64 + len + 63) / 64) false).filter fun o => decide (o.1 < memLines)

/-- MEM_READ (R455): its DRAM lines are read in slots of the host path (R252). -/
def memRead (m : Msg) (s : State) : State :=
  let ops := dramSpan (fld m.payload 0 8) (fld m.payload 8 4)
  let s := s.charge .host ops
  let x := debugLines (if m.sender = .mgmt then 1 else 0) (fld m.payload 0 8) (fld m.payload 8 4 / 64) s
  let data := x.1.flatMap fun r => toBytes r.1 64
  x.2.reply m stOk 0 (if fld m.payload 12 1 % 2 = 1 then data ++ x.1.map (·.2) else data)

/-- A MEM_READ executes when its DRAM lines can move. -/
def State.memReadOpen (s : State) (m : Msg) : Bool := s.canMove (dramSpan (fld m.payload 0 8) (fld m.payload 8 4))

def execMemRead (slot : SlotId) (s : State) : Res := .next (onMsg 0x0703 slot s.memReadOpen memRead s)

/-- Bytes of the debug path from an address on. -/
def debugBytes (agent a n : Nat) (s : State) : Bytes × State :=
  let first := a - a % 64
  let x := debugLines agent first ((a % 64 + n + 63) / 64) s
  (slice (x.1.flatMap fun r => toBytes r.1 64) (a % 64) n, x.2)

/-- TAP_INSTRUCTION_LOAD (R502, R503): IDCODE and BYPASS leave no trace; a read takes the rights of the debug path. -/
def tapLoad (i : TapInstr) (s : State) : State :=
  let used (s : State) : State := s.fset (creg .secStatus) 19 19 1
  let s0 := s
  match i with
  | .idcode => s.emit (.tap (0xB * 2 ^ 28 + 0x9640 * 2 ^ 12 + Config.tapMaker % 2 ^ 12))
  | .bypass => s
  | .read a =>
    let s := used s
    if (Reg.ofAddr a).isNone ∧ !s0.canMove (dramSpan a 8) then s0
    else if (Reg.ofAddr a).isSome then s.emit (.tap (s.readReg a false).1.toNat)
    else
      let x := debugBytes 3 a 8 (s.charge .host (dramSpan a 8))
      x.2.emit (.tap (leNat x.1))
  | .pins => if s.boot.dies then used s else s

def execTapInstructionLoad (i : TapInstr) (s : State) : Res := .next (tapLoad i s)

/-! ## BAR4 (R508, R510) -/

/-- The local address of a BAR4 offset. -/
def State.bar4Addr (s : State) (off : Nat) : Nat := s.fget (creg .pciB4base) 7 0 * 2 ^ 30 + off

/-- Whether an access touches a line under scrub. -/
def State.scrubRef (s : State) (a len : Nat) : Bool :=
  (List.range ((a % 64 + len + 63) / 64)).any fun i => s.scrubbed (a / 64 + i)

/-- BAR4_READ: data, in slots of the present group (R252), zeros where the access is refused or beyond the memory, or a poisoned
completion. -/
def bar4Read (off len : Nat) (s : State) : State :=
  let a := s.bar4Addr off
  let zeros (s : State) : State := s.emit (.hostData (List.replicate len 0))
  if 0x2400000000 < a + len then zeros (s.holeRec 515)
  else if s.scrubRef a len then zeros (s.finc (creg .pciStat) 15 0)
  else if !s.canMove (span (a / 64) ((a % 64 + len + 63) / 64) false) then s
  else
    let x := (s.charge .host (span (a / 64) ((a % 64 + len + 63) / 64) false)).readLines reqHost (a / 64) ((a % 64 + len + 63) / 64)
    if x.1.any (·.poison) then x.2.emit .hostPoison
    else x.2.emit (.hostData (slice (x.1.flatMap fun r => toBytes r.data 64) (a % 64) len))

def execBar4Read (offset length : Nat) (s : State) : Res := .next (bar4Read offset length s)

/-- The part of a write that falls on one line: data and byte mask. -/
def linePart (a : Nat) (b : Bytes) (line : Nat) : Row × BitVec 64 :=
  let at_ (i : Nat) : Option Nat := if a ≤ 64 * line + i ∧ 64 * line + i < a + b.length then some (64 * line + i - a) else none
  (ofBytes 512 ((List.range 64).map fun i => ((at_ i).map fun k => b.getD k 0).getD 0),
   BitVec.ofNat 64 (bitsOf ((List.range 64).filter fun i => (at_ i).isSome)))

/-- The line operations of a write of bytes: whole lines written, the others merged. -/
def writeOps (a : Nat) (b : Bytes) : List (Nat × Bool) :=
  (List.range ((a % 64 + b.length + 63) / 64)).map fun i => (a / 64 + i, decide ((linePart a b (a / 64 + i)).2 = fullMask))

/-- BAR4_WRITE: whole lines are written, partial ones merged, in slots of the present group (R252); a poisoned TLP poisons its lines. -/
def bar4Write (off : Nat) (b : Bytes) (poisoned : Bool) (s : State) : State :=
  let a := s.bar4Addr off
  if b = [] then s
  else if 0x2400000000 < a + b.length then s.holeRec 515
  else if s.scrubRef a b.length then s.finc (creg .pciStat) 15 0
  else if !s.canMove (writeOps a b) then s
  else (List.range ((a % 64 + b.length + 63) / 64)).foldl (fun (s : State) i =>
    let line := a / 64 + i
    let p := linePart a b line
    if poisoned then
      let r := s.readLine line reqHost
      if p.2 = fullMask then s.writeLine line p.1 true else r.2.writeLine line (mergeBytes (s.mergeBase line r.1) p.1 p.2) true
    else s.mergeLine line reqHost p.1 p.2) (s.charge .host (writeOps a b))

def execBar4Write (offset : Nat) (bytes : Bytes) (poisoned : Bool) (s : State) : Res := .next (bar4Write offset bytes poisoned s)

/-! ## LOG_READ (R455, R477, R478) -/

def Code.number : Code → Nat
  | .num n => n.toNat
  | .rule r k => (Config.eventCode r k).toNat

def Cls.number : Cls → Nat
  | .ce => 0 | .uc => 1 | .us => 2 | .uf => 3

/-- A record's 64 bytes. -/
def LogRec.bytes (r : LogRec) : Bytes :=
  leBytes 8 r.index ++ leBytes 8 r.atb.toNat ++ leBytes 1 (r.cls.number + 128 * r.mgmtOnly.toNat) ++ leBytes 1 r.scope ++ leBytes 1 r.owner ++ leBytes 1 r.unit
  ++ leBytes 2 r.code.number ++ leBytes 2 r.suppressed ++ leBytes 1 r.ltile ++ leBytes 1 r.ptile ++ leBytes 2 r.object ++ leBytes 4 r.kernel ++ padTo 32 r.detail

/-! ## BAR0 (R4, R41, R480, R491, R508) -/

/-- The identity and state block (R491). -/
def State.identity (s : State) : Bytes :=
  let st := s.rget (creg .secStatus)
  leBytes 4 0x3436584C ++ leBytes 1 0xB1 ++ leBytes 1 (bits st 3 0) ++ leBytes 1 (bits st 15 8) ++ leBytes 1 s.boot.recovery.toNat
  ++ padTo 16 s.board.serial ++ leBytes 4 s.boot.fwcnt ++ leBytes 4 s.boot.bdcnt ++ leBytes 4 s.cores.m0.version
  ++ leBytes 4 s.cores.flashFenen.version ++ leBytes 4 s.board.version ++ leBytes 4 s.boot.detail.toNat

/-- The error summary (R480). -/
def State.errSummary (s : State) : Bytes :=
  leBytes 8 s.log.mgmt.next ++ leBytes 8 s.log.manager.next ++ leBytes 4 s.log.ufCount ++ leBytes 4 s.log.usCount ++ leBytes 4 s.log.ucCount
  ++ leBytes 4 s.log.ceCount ++ List.replicate 32 0 ++ (s.log.firstUf.elim [] (·.bytes))

/-- The byte at an offset of BAR0 below the debug window: the mirror of the ATB block clears nothing (R41). -/
def State.bar0 (s : State) (o : Nat) : Byte :=
  if o < 0x1000 then s.identity.getD o 0
  else if o < 0x1100 then (toBytes (s.readReg (0x4100000000 + (o - 0x1000) / 8 * 8) false).1 8).getD (o % 8) 0
  else if 0x100000 ≤ o then s.errSummary.getD (o - 0x100000) 0
  else 0

/-- ATB_MIRROR_READ (R41): a host read at mirror offset 0x000 performs the snapshot and returns the count. -/
def execAtbMirrorRead (s : State) : Res := .next ((snap s).emit (.hostData (toBytes s.now 8)))

/-- A read in the debug window (R509): device bytes of local DRAM and mapped pad offsets; zeros otherwise. -/
def debugWindow (off len : Nat) (s : State) : State :=
  let w := s.rget (creg .pciDbgwin)
  let a := bits w 47 24 * 2 ^ 24 + off % 2 ^ 24
  let inside := decide (a < 0x2400000000) || decide (0x4000000000 ≤ a ∧ a < 0x4040000000)
  if bit w 48 ∧ inside then
    if !s.canMove (dramSpan a len) then s
    else
    let x := debugBytes 2 a len (s.charge .host (dramSpan a len))
    x.2.emit (.hostData x.1)
  else s.emit (.hostData (List.replicate len 0))

/-- DEBUG_WINDOW_READ: a host read of BAR0 (R508). Outside the debug window it returns the block that stands there, and the
snapshot is performed where it takes in the mirror's offset 0x000 (R41). A PCIe read crosses no 4 KiB boundary. -/
def bar0Read (off len : Nat) (s : State) : State :=
  if 0x1000000 ≤ off ∧ off + len ≤ 0x2000000 then debugWindow off len s
  else
    let v := if off ≤ 0x1000 ∧ 0x1000 < off + len then snap s else s
    v.emit (.hostData ((List.range len).map fun i => v.bar0 (off + i)))

def execDebugWindowRead (offset length : Nat) (s : State) : Res := .next (bar0Read offset length s)

/-- The view that a sender reads. -/
def State.viewOf (s : State) : Sender → View
  | .mgmt => s.log.mgmt
  | .manager => s.log.manager
  | .slice n => tget {} s.log.slices n
  | .tenant => s.log.tenant

def logRead (m : Msg) (s : State) : State :=
  let v := s.viewOf m.sender
  let oldest := v.next - v.recs.length
  let from_ := Nat.min v.next (Nat.max oldest (fld m.payload 0 8))
  let n := Nat.min (Nat.min (fld m.payload 8 4) (v.next - from_)) ((m.rlen - 64 - 16) / 64)
  let recs := ((v.recs.reverse.drop (from_ - oldest)).take n)
  s.reply m stOk 0 (leBytes 8 (from_ + n) ++ leBytes 4 n ++ leBytes 4 0 ++ recs.flatMap (·.bytes))

/-- LOG_READ: a control-plane read waits in a cycle that has had a management-plane one (R30). -/
def execLogRead (slot : SlotId) (s : State) : Res :=
  .next (onMsg 0x0704 slot (fun _ => isPf1 slot || decide (s.log.mgmtAt ≠ some s.now))
    (fun m s => logRead m (if isPf1 slot then { s with log := { s.log with mgmtAt := some s.now } } else s)) s)

end Sys2Proof.Machine
end

