-- ==== Sys2Proof/Machine/Settings.lean ====
section
/-!
DEFINITION. Messages that read or set the part's own settings: families 01, 05 (status and tables), 06 and 09 (R348, R369,
R373, R382, R387, R415, R454, R455, R464).
-/
namespace Sys2Proof.Machine

/-! ## System (R455) -/

/-- The version of the Fenen image in force: that of the position that holds F0. -/
def State.fenenVersion (s : State) : Nat := (s.cores.image.get (s.holder 0)).version

def sysInfo (m : Msg) (s : State) : State :=
  s.reply m stOk 0 (leBytes 1 0xB1 ++ leBytes 1 s.chip.val ++ leBytes 1 s.board.members.toNat
    ++ leBytes 1 (s.pads.toList.filter fun p => decide (p.stat = .spare)).length
    ++ leBytes 4 s.fenenVersion ++ leBytes 4 s.cores.m0.version ++ leBytes 4 s.boot.fwcnt ++ padTo 16 s.board.serial)

def execSysInfo (slot : SlotId) (s : State) : Res := message 0x0101 slot sysInfo s

/-- The views of several registers, 8 bytes each. -/
def State.views (s : State) (l : List Reg) : Bytes := l.flatMap fun r => toBytes (s.view r) 8

def sysTime (m : Msg) (s : State) : State := s.reply m stOk 0 (s.views [creg .atbNow, creg .atbState, creg .atbOffset, creg .atbPstart])

def execSysTime (slot : SlotId) (s : State) : Res := message 0x0102 slot sysTime s

/-- SYS_MGR_PASID (R415): it gives the manager its PASID, and vectors 0-63 (R514). -/
def sysMgrPasid (m : Msg) (s : State) : State :=
  State.reply { s with mbx := { s.mbx with mgrPasid := some (BitVec.ofNat 20 (fld m.payload 0 4)) } } m stOk

def execSysMgrPasid (slot : SlotId) (s : State) : Res := message 0x0103 slot sysMgrPasid s

/-- EVENT_RING (R455, R464): the new ring replaces the old, its producer index at 0. -/
def eventRing (m : Msg) (s : State) : State :=
  let p := m.payload
  let v := s.vectors m.sender
  let vec := fld p 28 2 % 2048
  if v.2 ≤ vec then s.reply m stMalformed 92
  else
    let o : Nat := match m.sender with | .slice n => n.val | _ => 64
    let flags := fld p 30 1
    let r : Ring := { base := fld p 0 8, cons := fld p 8 8, prod := fld p 16 8, entries := fld p 24 4, vec := v.1 + vec, irq := flags % 2 = 1, compl := flags / 2 % 2 = 1 }
    State.reply { s with mbx := { s.mbx with rings := tput o r s.mbx.rings } } m stOk

def execEventRing (slot : SlotId) (s : State) : Res := message 0x0104 slot eventRing s

/-! ## Tables of the tenant (R348, R382, R454) -/

def epochStatus (m : Msg) (s : State) : State := s.reply m stOk 0 (s.views [creg .tenStatus, creg .tenPwr, creg .tenKeys, creg .tenGdir])

def execEpochStatus (slot : SlotId) (s : State) : Res := message 0x050E slot epochStatus s

def gtableSet (m : Msg) (s : State) : State :=
  if s.ten.state = .closing ∨ s.ten.state = .closed then s.reply m stBadState
  else (s.rset (creg .tenGtab (fld m.payload 0 4)) (ofBytes 64 (slice m.payload 8 8))).reply m stOk

def execGtableSet (slot : SlotId) (s : State) : Res := message 0x050C slot gtableSet s

/-- Reserved bytes and kinds of an entry, and kind 3 in ordered mode (R386): reported as item 0. -/
def frtShape (ordered : Bool) (e : Bytes) : Bool :=
  decide (1 ≤ frKind e ∧ frKind e ≤ 5 ∧ fld e 1 1 < 2 ∧ 1 ≤ frLines e ∧ frLines e ≤ 64 ∧ frRemote e % 64 = 0 ∧ frLocal e % 64 = 0)
  && allZero e 4 4 && allZero e 24 8 && !(ordered && frKind e == 3)

/-- The conditions of R382 that an entry breaks. -/
def State.frtBad (s : State) (i : Image) (n : Nat) (e : Bytes) : List Nat :=
  let w := if frWin e = 0 then s.ten.cfg.win0 else s.ten.cfg.win1
  let len := 64 * frLines e
  let gate := frKind e == 4 || frKind e == 5
  let posts (r : Bytes) : Bool := (i.opsOf r).any fun x => decide (seqOp x = 0x08 ∧ (seqArg x).testBit 15 ∧ seqArg x % 32768 = n)
  (if frtShape s.ten.ordered e then [] else [0])
  ++ (if w.valid ∧ w.lo + frLocal e + len ≤ w.hi then [] else [1])
  ++ (if gate then [] else match s.clutchLine (frRemote e) with | some (_, l) => if l + frLines e ≤ memLines then [] else [2] | none => [2])
  ++ (if gate ∧ frRemote e / 4096 ≠ (frRemote e + len - 1) / 4096 then [3] else [])
  ++ (if gate ∧ i.recs.any fun r => recTenant r && posts r && decide (recTimeout r < 78643200) then [4] else [])

/-- FRT_REGISTER (R382): the table is taken whole, or every failing entry is named. -/
def frtRegister (buffer : Bytes) (m : Msg) (s : State) : State :=
  match s.ten.image with
  | none => s.reply m stBadState
  | some i =>
    if s.ten.state ≠ .loaded ∧ s.ten.state ≠ .suspended then s.reply m stBadState
    else
      let len := fld m.payload 8 4
      let es := (List.range (len / 32)).map fun k => slice buffer (32 * k) 32
      if 32768 < es.length then s.reply m stNoResource
      else
        let bad := ((List.range es.length).zip es).flatMap fun (n, e) => (s.frtBad i n e).map fun c => ({ code := c, kind := 10, index := n } : Viol)
        if bad ≠ [] then s.reply m stCheckFailed 0 (violBytes bad)
        else (s.modTen fun e => { e with frt := es.map fun b => { bytes := b } }).reply m stOk

def execFrtRegister (slot : SlotId) (buffer : Bytes) (s : State) : Res := message 0x0606 slot (frtRegister buffer) s

/-! ## The fabric's registers (R369, R373, R387, R391, R411) -/

def rValue (m : Msg) : W64 := ofBytes 64 (slice m.payload 8 8)
def rIndex (m : Msg) : Nat := fld m.payload 0 4

/-- REGION_SET: it replies when the access is added, or when the recall has completed. -/
def regionSet (m : Msg) (s : State) : State :=
  let i := rIndex m
  let r := creg .fabReg i
  let v := r.store (s.rget r) (rValue m)
  if regWidens (s.rget r) v then (s.widenRegion i v).reply m stOk
  else if s.fab.callBack.isSome then s.reply m stBusy
  else (s.startRecall i v).await m .callBack

def execRegionSet (slot : SlotId) (s : State) : Res := message 0x0601 slot regionSet s

def okeySet (m : Msg) (s : State) : State := (s.storeReg (creg .fabOkey (rIndex m)) (rValue m)).reply m stOk

def execOkeySet (slot : SlotId) (s : State) : Res := message 0x0602 slot okeySet s

def lpeerSet (m : Msg) (s : State) : State :=
  let w (k : Nat) : W64 := ofBytes 64 (slice m.payload (8 + 8 * k) 8)
  let i := rIndex m
  let s := s.storeReg (creg .fabLpeerA i) (w 0)
  let s := s.storeReg (creg .fabLpeerB i) (w 1)
  (s.storeReg (creg .fabLpeerC i) (w 2)).reply m stOk

def execLpeerSet (slot : SlotId) (s : State) : Res := message 0x0603 slot lpeerSet s

def lmapSet (m : Msg) (s : State) : State := (s.storeReg (creg .fabLmap (rIndex m)) (rValue m)).reply m stOk

def execLmapSet (slot : SlotId) (s : State) : Res := message 0x0604 slot lmapSet s

/-- FAB_SET: FAB_CTRL (index 0) or FAB_GW. -/
def fabSet (m : Msg) (s : State) : State := (s.storeReg (creg (if rIndex m = 0 then .fabCtrl else .fabGw)) (rValue m)).reply m stOk

def execFabSet (slot : SlotId) (s : State) : Res := message 0x0605 slot fabSet s

/-! ## Maintenance (R181, R259, R455) -/

/-- PAD_REGROW: during a swap copy of the tile, or another regrow, the row waits (R181, R427). -/
def padRegrow (m : Msg) (s : State) : State :=
  let t : LTile := fin 64 (fld m.payload 0 1)
  let bank := fld m.payload 1 1
  let row := fld m.payload 2 2
  let n := rowOfBank bank row
  if 32 ≤ (s.pad t).bankSpares bank then (regrowRow t bank row s).reply m stNoResource
  else if (s.swaps.any fun c => decide (c.1 = t)) || (s.pad t).regrow.isSome then (s.modPad (s.ptile t) fun p => p.fail n).reply m stOk
  else (regrowRow t bank row s).reply m stOk

def execPadRegrow (slot : SlotId) (s : State) : Res := message 0x0903 slot padRegrow s

/-- DRAM_REPAIR. -/
def dramRepair (m : Msg) (s : State) : State :=
  let ch := fld m.payload 0 1
  if 1675 ≤ (s.chan ch).sparesUsed then s.reply m stNoResource
  else (s.failRow ch (fld m.payload 4 4)).reply m stOk

def execDramRepair (slot : SlotId) (s : State) : Res := message 0x0904 slot dramRepair s

end Sys2Proof.Machine
end

