-- ==== Sys2Proof/Machine/Tenancy.lean ====
section
/-!
DEFINITION. The tenant epoch: opening, loading, placing, suspending, closing (R327-R341, R360, R473, R474, R501), and the
power and thermal control of the tenant (R342-R347).
-/
namespace Sys2Proof.Machine

/-! ## Opening an epoch (R153, R328-R330) -/

/-- The tag that the next epoch takes (R153). -/
def State.nextTag (s : State) : Nat := if 0x7E ≤ s.ten.lastTag then 0x40 else s.ten.lastTag + 1

/-- The configuration in force and those after each accepted commit. -/
def State.cfgs (s : State) : List Cfg :=
  ((byInstant s.ctl.pend).foldl (fun (x : List Cfg × Cfg) p => let c := x.2.after p.set p.settings; (enq x.1 c, c)) ([s.cfg], s.cfg)).1

/-- The conflicts of R329, in the order of its table. -/
def State.openBad (s : State) (e : EpochCfg) : List Viol :=
  let cs := s.cfgs
  let hit (f : SliceSt → Bool) : List (Fin 64) := (List.finRange 64).filter fun n => cs.any fun c => c.live.contains n && f (c.slices.get n)
  let at_ (code : Nat) (l : List (Fin 64)) : List Viol := l.map fun n => { code := code, kind := 2, index := n.val }
  let mgr (b : Bool) : List Viol := if b then [{ code := 15, kind := 2, index := 255 }] else []
  at_ 11 (hit fun x => winsMeet [e.win0, e.win1] x.wins)
  ++ mgr (decide (s.mbx.mgrPasid = some e.pasid)) ++ at_ 15 (hit fun x => decide (x.pasid = e.pasid))
  ++ at_ 15 (hit fun x => rangesMeet e.slot0 e.nslot x.slot0 x.nslot)
  ++ mgr (rangesMeet e.vec0 e.nvec (s.vectors .manager).1 (s.vectors .manager).2) ++ at_ 15 (hit fun x => rangesMeet e.vec0 e.nvec x.vec0 x.nvec)

/-- The allocation of A on a tile: the highest free range (R330). -/
def State.epochPlace (s : State) (c : Cfg) (t : LTile) (a : Nat) : Option (Nat × Nat) :=
  (highestFree (c.spans t 64 ++ s.pendSpans t 64) a).map fun st => (st, a)

/-- EPOCH_OPEN's effect once it is accepted: the allocations with the save area at their top, the tag, the windows. -/
def State.openEpoch (s : State) (e : EpochCfg) (ordered : Bool) (end_ : W64) : State :=
  let tag := s.nextTag
  let c := s.cfg
  let places := (List.finRange 64).map fun t => s.epochPlace c t e.a64k
  let s : State := { s with tiles := Vector.ofFn fun (t : Fin 64) =>
    let p := places.getD t.val none
    { s.tiles.get t with tenAlloc := p, ineligible := p.isNone, resident := [] } }
  let s := ((List.finRange 64).zip places).foldl (fun (s : State) x => match x.2 with
    | some (st, n) => s.rset (treg .arrSave x.1) (fields [(0, 65536 * (st + n) - 131072), (32, 1)])
    | none => s) s
  let s := s.modTen fun o => { o with
    state := .opened, tag := tag, lastTag := tag, ordered := ordered, cfg := e, image := none, openedAt := s.now, suspendAt := none,
    closeAt := none, drainedAt := none, runList := [], unsealFailed := false, overruns := 0, maxOver := 0, kills := 0, meter := 0,
    freezes := 0, byUf := false, heat := false, wrap := some o.wraps, wraps := o.wraps + 1, passT := [], frt := [], frtBusy := [] }
  s.endWrite end_

/-- A pending commit changes F: no epoch opens before it has taken effect (R38; log entry 180). -/
def State.offsetPending (s : State) : Bool := s.cfgs.any fun c => decide (c.frameOff ≠ s.frameOff)

def epochOpen (m : Msg) (s : State) : State :=
  let p := m.payload
  let e : EpochCfg := { pasid := BitVec.ofNat 20 (fld p 0 4), slot0 := fld p 4 2, nslot := fld p 6 2, vec0 := fld p 8 2, nvec := fld p 10 2,
                        a64k := fld p 12 2, win0 := winOf p 16, win1 := winOf p 24 }
  let bad := s.openBad e
  if s.ten.state ≠ .closed then s.reply m stBadState
  else if s.mem.scrub.isSome ∨ s.sweeping s.nextTag ∨ s.offsetPending then s.reply m stBusy
  else if bad ≠ [] then s.reply m stCheckFailed 0 (violBytes bad)
  else
    let s := s.openEpoch e (fld p 14 1 % 2 = 1) (ofBytes 64 (slice p 32 8))
    let elig := bitsOf ((List.range 64).filter fun t => !(s.tiles.get (fin 64 t)).ineligible)
    s.reply m stOk 0 (leBytes 8 s.ten.tag ++ leBytes 8 elig)

def execEpochOpen (slot : SlotId) (s : State) : Res := message 0x0501 slot epochOpen s

/-! ## Loading and submitting (R327, R330, R332) -/

/-- Thermal stage 2 suspends the tenant's work (R345). -/
def State.heatSuspend (s : State) : State := if s.ten.suspendAt.isSome then s else (s.modTen fun e => { e with heat := true }).beginSuspend

/-- Loading begins the tenant's work; under thermal stage 2 it is suspended at once (R345). -/
def State.goLoaded (s : State) : State :=
  let s := s.modTen fun e => { e with state := .loaded }
  if 2 ≤ s.ten.therm.val then s.heatSuspend else s

/-- The records of an image whose BOUND lies above A - 131,072 (R330). -/
def overBound (a64k : Nat) (i : Image) : List Nat :=
  (List.range i.recs.length).filter fun k => (i.recs[k]?).any fun r => Nat.blt (65536 * a64k) (recBound r + 131072)

/-- A violation of an image's header or section table. -/
def headViol (v : Viol) : Bool := v.code == 1 && (v.index / 1048576) % 16 == 0

/-- IMAGE_LOAD: one image for an epoch, accepted under R188, with no BOUND above A - 131,072. -/
def imageLoad (buffer : Bytes) (m : Msg) (s : State) : State :=
  if s.ten.state ≠ .opened ∨ s.ten.unsealFailed ∨ s.ten.unsealing.isSome then s.reply m stBadState
  else
    let b := imageBytes buffer (fld m.payload 8 4)
    let i := imageOfBytes b
    let bad := (imageBad b true s.ten.ordered).map fun (item, ty, k) => ({ itemViol item 0xFF ty k with code := item, item := 0 } : Viol)
    let big := (overBound s.ten.cfg.a64k i).map fun k => ({ code := 1, kind := 11, index := ownIdx 0xFF 1 k } : Viol)
    let bad := sortViols (if bad.any headViol then bad else bad ++ big)
    if bad ≠ [] then s.reply m stCheckFailed 0 (violBytes bad)
    else ((s.modTen fun e => { e with image := some i }).goLoaded).reply m stOk

def execImageLoad (slot : SlotId) (buffer : Bytes) (s : State) : Res := message 0x0503 slot (imageLoad buffer) s

/-- RUN_SUBMIT: an entry is accepted whose number is not listed and whose record is a tenant record of the image. -/
def runSubmit (m : Msg) (s : State) : State :=
  match s.ten.image with
  | none => s.reply m stBadState
  | some i =>
    if s.ten.state ≠ .loaded ∧ s.ten.state ≠ .suspended then s.reply m stBadState
    else
      let p := m.payload
      let input (v : Nat) : Option (BitVec 32) := if v = 0xFFFFFFFF then none else some (BitVec.ofNat 32 v)
      let x := (List.range (fld p 0 2)).foldl (fun (x : State × Nat) k =>
        let o := 8 + 16 * k
        let id := BitVec.ofNat 32 (fld p o 4)
        let r := fld p (o + 4) 4
        if x.1.ten.runList.any (fun e => decide (e.entry = id)) ∨ !((i.recs[r]?).any recTenant) then x
        else (x.1.modTen fun e => { e with runList := enq e.runList { entry := id, recIdx := r, in1 := input (fld p (o + 8) 4), in2 := input (fld p (o + 12) 4) } }, x.2 + 1)) (s, 0)
      x.1.reply m stOk 0 (leBytes 4 x.2 ++ leBytes 4 0)

def execRunSubmit (slot : SlotId) (s : State) : Res := message 0x0504 slot runSubmit s

/-! ## Placement and dispatch (R332, R217, R545) -/

/-- A context that a radio dispatch record in force, or of an accepted commit, names (R545). -/
def State.ctxReserved (s : State) (t : LTile) (c : CtxNo) : Bool :=
  let names (i : Image) : Bool := i.recs.any fun r => !recTenant r && decide (recTile r = t.val ∧ recCtx r = c.val)
  ((List.finRange 64).any fun n => (s.ctl.slices.get n).image.any names)
  || s.ctl.pend.any fun p => p.settings.any fun x => match x with | .image i _ => names i | _ => false

def State.freeCtx (s : State) (t : LTile) : Option CtxNo := (List.finRange 8).find? fun c => (s.ctx t c).isNone && !s.ctxReserved t c

/-- An input of an entry that has completed: its record has reached F4-F5. -/
def State.inputDone (s : State) : Option (BitVec 32) → Bool
  | none => true
  | some n => s.ten.runList.any fun e => decide (e.entry = n) && e.told

/-- Whether the kernel that an input entry ended with is resident on a tile. -/
def State.inputOn (s : State) (t : LTile) : Option (BitVec 32) → Bool
  | none => false
  | some n => s.ten.runList.any fun e => decide (e.entry = n) && e.told && (s.tiles.get t).resident.contains e.kernel

/-- The score of a tile (R332). -/
def State.score (s : State) (e : RunEntry) (t : LTile) : Nat :=
  256 * (4 * (s.inputOn t e.in1).toNat + 2 * (s.inputOn t e.in2).toNat + (s.freeCtx t).isSome.toNat) + (120 - s.heldFrames t)

/-- The first tile with the highest score. -/
def bestTile (f : LTile → Nat) : List LTile → Option LTile
  | [] => none
  | t :: r => match bestTile f r with
    | some u => if f t < f u then some u else some t
    | none => some t

/-- Whether lock-step twins are on, and whether this chip is the primary (R403). -/
def State.twinOn (s : State) : Bool := bit (s.rget (creg .fabCtrl)) 0
def State.twinPeer (s : State) : Fin 8 := fin 8 (s.fget (creg .fabCtrl) 3 1)
def State.twinFirst (s : State) : Bool := decide (s.chip < s.twinPeer)

/-- The tile that an entry is placed on. A twin's secondary takes its primary's placement (R404). -/
def State.place (s : State) (e : RunEntry) (r : Bytes) : Option LTile × State :=
  let able (t : LTile) : Bool := !(s.tiles.get t).ineligible
  if s.twinOn ∧ !s.twinFirst then
    let d := s.draw
    let t : LTile := fin 64 (Config.twinPlacement d.1)
    (if able t then some t else none, d.2)
  else
    let d := if s.twinOn then s.draw else (0, s)
    let ok (t : LTile) : Bool := able t && (!s.twinOn || Config.twinEligible d.1 t.val)
    if recTile r = 0xFF then (bestTile (s.score e) ((List.finRange 64).filter ok), d.2)
    else let t : LTile := fin 64 (recTile r); (if ok t then some t else none, d.2)

/-- RUN_ENTRY_DISPATCH: an entry whose inputs have completed starts in a free context of its tile. -/
def runDispatch (n : BitVec 32) (s : State) : State :=
  match s.ten.runList.find? (fun e => decide (e.entry = n)), s.ten.image with
  | some e, some i =>
    if s.ten.state ≠ .loaded ∨ s.ten.suspendAt.isSome ∨ e.running.isSome ∨ e.code.isSome ∨ e.barrier.any (fun b => decide (s.barState b ≠ 1)) ∨ s.level = 15 ∨ !s.inputDone e.in1 ∨ !s.inputDone e.in2 then s
    else match i.recs[e.recIdx]? with
      | none => s
      | some r =>
        match s.place e r with
        | (some t, s) =>
          match s.freeCtx t, (s.tiles.get t).tenAlloc with
          | some c, some (st, sz) =>
            if (s.tiles.get t).swapHold ∨ bit (s.rget (treg .schCtrl t)) 0 then s
            else match startTask r e.recIdx .epoch s.ten.tag st sz s.ten.cfg.win0 s.ten.cfg.win1 s.now with
              | none => s
              | some k =>
                let k : TaskCtx := { k with entry := some n, fence := if e.barrier.isSome then some 3 else none }
                let s := (s.setCtx t c (some k)).modEng t (·.forget c)
                let s := s.modTen fun x => { x with runList := mapIf (fun y => decide (y.entry = n)) (fun y => { y with running := some (t, c) }) x.runList }
                let s := if s.twinOn ∧ s.twinFirst then s.handK s.twinPeer (.placement n t) else s
                match e.barrier with
                | some b => s.arrive b
                | none => s
          | _, _ => s
        | (none, s) => s
  | _, _ => s

def execRunEntryDispatch (entry : BitVec 32) (s : State) : Res := .next (runDispatch entry s)

/-- COMPLETION_RECORD_DELIVERY (R212, R331, R462, R476): the resident set takes the task's kernel, its entry has ended, and
the owner's ring gets its record. A record of an earlier epoch is discarded by tag. -/
def completionDelivery (id : Nat) (s : State) : State :=
  match s.takeFlit fun f => decide (f.id = id ∧ f.due ≤ s.now) && (match f.payload with | .done .. => true | _ => false) with
  | some (f, s) => match f.payload with
    | .done t owner entry recIdx flags kernel code _ _ =>
      if 64 ≤ owner ∧ (owner ≠ s.ten.tag ∨ s.ten.state = .closed) then s
      else
        let s := if owner < 64 then s
          else
            let s := s.modTile t fun x => { x with resident := let l := enq x.resident kernel; l.drop (l.length - 16) }
            s.modTen fun x => { x with runList := mapIf (fun e => decide (some e.entry = entry)) (fun e => { e with code := some code, kernel := kernel, told := true }) x.runList }
        s.event { owner := ringOf owner, kind := 2, ltile := t, code := code, flags := flags, atb := s.now, kernel := kernel.toNat,
                  ref := s.refOf owner recIdx entry, unit := none }
    | _ => s
  | none => s

def execCompletionRecordDelivery (id : Nat) (s : State) : Res := .next (completionDelivery id s)

/-- RUN_ENTRY_NO_PROGRESS (R473): the timer is that of the task's waits, and after its end the time to its release. -/
def noProgress (n : BitVec 32) (s : State) : Option LTile :=
  match s.ten.runList.find? fun e => decide (e.entry = n) with
  | some e => match e.running with
    | some (t, c) => match s.ctx t c with
      | some k =>
        let waited := if k.ended.isSome then (s.now - k.endedAt).toNat else k.timer
        if k.entry = some n ∧ !s.halted t ∧ 4 * (k.timeout + 2048) ≤ waited then some t else none
      | none => none
    | none => none
  | none => none

/-- The tile is ineligible for the epoch, its tenant tasks are dropped, and it is named as a swap candidate. -/
def State.makeIneligible (s : State) (t : LTile) : State :=
  let s := s.modTile t fun x => { x with ineligible := true }
  let s := (s.tenantCtxs t).foldl (fun (s : State) x => s.dropTask t x.1 7) s
  s.swapCandidate t 12 (.rule 473 0)

def execRunEntryNoProgress (entry : BitVec 32) (s : State) : Res :=
  .next (match noProgress entry s with | some t => s.makeIneligible t | none => s)

/-- LEG_TIMEOUT (R474): a mesh transfer or a MEMX leg of a task that is 2,048 cy old completes with TIMEOUT: the lines of a
read land as zeros with the poison bit set, and the task is dropped. -/
def legTimeout (t : LTile) (c : CtxNo) (id : Nat) (s : State) : State :=
  let old (at_ : W64) : Bool := decide (2048 ≤ (s.now - at_).toNat)
  match s.mesh.xfers.find? fun x => decide (x.id = id ∧ x.tile = t ∧ x.ctx = c) && old x.issued && !x.dead with
  | some x =>
    let s : State := { s with mesh := { s.mesh with xfers := s.mesh.xfers.filter fun y => decide (y.id ≠ id) } }
    let s := x.lines.foldl (fun (s : State) l => s.padWrite t { row := rowOf l.1, rank := rankLanding, tag := x.owner, data := 0, mask := fullMask, poison := true }) s
    s.dropTask t c 4
  | none =>
    match s.mem.memx.find? fun m => decide (m.id = id ∧ m.tile = t ∧ m.ctx = c) && !m.radio && !m.dead with
    | none => s
    | some m =>
      let mine (q : LineReq) : Bool := match q.dest with | .memx i _ => decide (i = id) && old q.issued | .gather _ _ => false
      let late := (s.mem.want ++ s.mem.chans.toList.flatMap (·.accepted)).filter mine
      if late = [] then s
      else
        let s := s.modMem fun x => { x with want := x.want.filter fun q => !mine q
                                            chans := x.chans.map fun k => { k with accepted := k.accepted.filter fun q => !mine q } }
        let s := late.foldl (fun (s : State) q => match q.op, q.dest with
          | .read, .memx _ i => s.padWrite t { row := rowOf (m.pad + 64 * i), rank := rankLanding, tag := m.owner, data := 0, mask := fullMask, poison := true }
          | _, _ => s) s
        (s.memxLine id late.length).dropTask t c 4

def execLegTimeout (t : LTile) (c : CtxNo) (id : Nat) (s : State) : Res := .next (legTimeout t c id s)

/-! ## Suspending and resuming (R335-R338) -/

def epochSuspend (m : Msg) (s : State) : State :=
  let s := s.modTen fun e => { e with heat := false }
  if s.ten.state = .suspended then s.reply m stOk
  else if s.ten.state = .loaded then (s.beginSuspend).await m .suspend
  else s.reply m stBadState

def execEpochSuspend (slot : SlotId) (s : State) : Res := message 0x0505 slot epochSuspend s

/-- Whether a suspended epoch may be resumed: no seal or unseal runs, none has failed, and no thermal suspend is in force. -/
def State.mayResume (s : State) : Bool :=
  decide (s.ten.state = .suspended) && s.ten.sealing.isNone && s.ten.unsealing.isNone && !s.ten.unsealFailed && decide (s.ten.therm.val < 2)

def epochResume (m : Msg) (s : State) : State :=
  if s.mayResume then (s.modTen fun e => { e with state := .loaded, heat := false }).reply m stOk else s.reply m stBadState

def execEpochResume (slot : SlotId) (s : State) : Res := message 0x0506 slot epochResume s

/-- PREEMPTION_TIMEOUT (R337). -/
def preemptionTimeout (s : State) : State :=
  let late := s.tenantTasks.filter fun (t, c, _) => s.inFlight t c
  let s := late.foldl (fun (s : State) x => (s.dropTask x.1 x.2.1 6).finc (creg .tenStat) 15 0) s
  (s.modTen fun e => { e with kills := e.kills + late.length }).suspended

def execPreemptionTimeout (s : State) : Res :=
  guarded (match s.ten.suspendAt with | some x => decide (196608 ≤ (s.now - x).toNat) | none => false) preemptionTimeout s

/-! ## Non-preemptible commands (R339, R340) -/

/-- A command with a home tile is held while its 4,096 cycles would include V - 160 of the tile's next window, and until
V + L + 128. -/
def State.commandHeld (s : State) (t : LTile) : Bool :=
  (match s.nextSpan t (s.now + 160) with | some (o, _) => decide ((o - 160 - s.now).toNat ≤ 4095) | none => false)
  || s.inWindow (s.now + 160) t || s.inWindow s.now t || s.inWindow (s.now - 128) t

/-- CREDITED_REMOTE_WRITE: up to 16 units from the control cluster into a tenant landing zone. -/
def creditedWrite (t : LTile) (z : Fin 16) (u : BitVec 32) (data : List (BitVec 2048)) (s : State) : State :=
  let n := data.length
  let live := s.ten.state = .opened ∨ s.ten.state = .loaded ∨ s.ten.state = .suspended
  let credit := (List.range n).all fun i => s.hasCredit 68 t.val z.val (u + BitVec.ofNat 32 i)
  if n = 0 ∨ 16 < n ∨ !live ∨ s.ten.suspendAt.isSome ∨ s.commandHeld t ∨ !zTenant (s.rget (zcfg t z)) ∨ !credit then s
  else ((List.range n).zip data).foldl (fun (s : State) x =>
    s.land { tile := t, zone := z.val, unit := u + BitVec.ofNat 32 x.1, mask := 0xF, owner := BitVec.ofNat 7 s.ten.tag, src := BitVec.ofNat 7 controlStop, data := x.2, tenant := true }) s

def execCreditedRemoteWrite (t : LTile) (zone : Fin 16) (unit : BitVec 32) (data : List (BitVec 2048)) (s : State) : Res :=
  .next (creditedWrite t zone unit data s)

/-! ## Closing (R341, R360, R501) -/

/-- A report is written to the buffer of an EPOCH_CLOSE, and the message answered; of a write that fails no byte is
reported written (R512). -/
def State.giveReport (s : State) (m : Msg) (b : Bytes) : State :=
  if s.mbx.lostReports.contains m.slot then
    State.reply { s with mbx := { s.mbx with lostReports := s.mbx.lostReports.filter fun i => decide (i ≠ m.slot) } } m stOk 0 (leBytes 8 0)
  else (s.emit (.hostWrite (fld m.payload 0 8) b m.wpasid)).reply m stOk 0 (leBytes 4 b.length ++ leBytes 4 0)

def epochClose (m : Msg) (s : State) : State :=
  if s.ten.state = .closed then
    match m.sender, s.ten.report with
    | .manager, some b => s.giveReport m b
    | _, _ => s.reply m stBadState
  else (s.beginClose false).await m .close

def execEpochClose (slot : SlotId) (s : State) : Res := message 0x0502 slot epochClose s

/-- EPOCH_END_REACHED (R328, R341): a command that was running at END makes it late, and the lateness is an overrun. -/
def endReached (s : State) : State :=
  let late := (s.now - s.rget (creg .tenEnd)).toNat
  let s := if 0 < late then (s.finc (creg .tenStat) 31 16).modTen fun e => { e with overruns := e.overruns + 1, maxOver := Nat.max e.maxOver late } else s
  (s.modTen fun e => { e with endArmed := false }).beginClose false

def execEpochEndReached (s : State) : Res :=
  guarded (s.ten.endArmed && decide (s.rget (creg .tenEnd) ≤ s.now)) endReached s

/-- What still moves for the epoch at Z leaves the part: line operations, transfers and flits of tenant tasks. -/
def State.dropTraffic (s : State) (tag : Nat) : State :=
  let keep (f : Flit) : Bool := match f.payload with
    | .landing ws => ws.all fun w => decide (w.owner.toNat ≠ tag)
    | .lines _ _ o _ => decide (o ≠ tag)
    | .memxW m _ => s.mem.memx.any fun x => decide (x.id = m) && x.radio
    | _ => true
  { s with
    mesh := { s.mesh with xfers := [], flits := s.mesh.flits.filter keep }
    mem := { s.mem with memx := s.mem.memx.filter (·.radio), want := [], replies := [], chans := s.mem.chans.map fun c => { c with accepted := [] } }
    fab := { s.fab with frts := s.fab.frts.filter fun r => decide (r.owner ≠ tag), comb := s.fab.comb.filter fun b => decide (b.owner ≠ tag), land := [], landWait := [] } }

/-- EPOCH_CLOSE_DRAIN_END (R360): cycle Z. -/
def closeDrained (s : State) : State :=
  let tag := s.ten.tag
  let s := s.tenantTasks.foldl (fun (s : State) x =>
    let s := s.modTile x.1 (·.cut x.2.1)
    releaseCtx x.1 x.2.1 (s.endTask x.1 x.2.1 9)) s
  let s := (s.dropTraffic tag).sweepAll tag
  let s := (List.range 64).foldl (fun (s : State) n => s.rset (creg .tenGtab n) 0) s
  let s := (s.fset (creg .tenKeys) 5 4 0).modTen fun e => { e with
    drainedAt := some s.now, clearing := some (s.now + 2047), keys := Vector.replicate 4 none, halves := Vector.replicate 2 {}, frtBusy := [] }
  (s.startScrub [s.ten.cfg.win0, s.ten.cfg.win1]).modMem fun m => { m with scrubEpoch := true }

/-- Z (R360): the cycle after the last release, with no gather job under way, or 196,608 cycles after the close. -/
def drainOver (s : State) : Bool :=
  let released := s.mesh.flits.any fun f => match f.payload with
    | .done _ owner .. => decide (owner = s.ten.tag ∧ f.due = s.now + 65)
    | _ => false
  let working := s.ten.halves.toList.any fun h => h.jobs.head?.any fun j => decide (0 < j.next ∨ 0 < j.asked)
  decide (s.ten.state = .closing) && s.ten.drainedAt.isNone
  && ((decide (s.tenantTasks = []) && !released && !working) || (match s.ten.closeAt with | some x => decide (196608 ≤ (s.now - x).toNat) | none => true))

def execEpochCloseDrainEnd (s : State) : Res := guarded (drainOver s) closeDrained s

/-- Index 16 of the measurements (R502). -/
def State.debugState (s : State) : Nat := 3 + 4 * s.fget (creg .secStatus) 19 19

/-- A TYPE 4 object signed with the alias keys (R485). -/
def State.reportObject (s : State) (payload : Bytes) : Bytes :=
  let head := leBytes 4 0x53494345 ++ leBytes 2 1 ++ leBytes 2 4 ++ leBytes 4 0 ++ leBytes 4 payload.length ++ leBytes 4 0 ++ leBytes 1 0xB1 ++ leBytes 11 0
    ++ hash48 payload ++ padTo 1984 (Config.aliasKeys s.boot.aliasOf.1 s.boot.aliasOf.2)
  head ++ padTo 64 (Config.signEd head) ++ padTo 3309 (Config.signPq head) ++ leBytes 3 0 ++ payload

/-- The payload of the close report (R501). -/
def State.closeReport (s : State) (scrubbed : Nat) : Bytes :=
  let e := s.ten
  leBytes 1 e.tag ++ leBytes 1 (e.ordered.toNat + 2 * e.byUf.toNat) ++ leBytes 6 0 ++ leBytes 8 e.openedAt.toNat ++ leBytes 8 s.now.toNat
  ++ padTo 48 (e.image.elim [] (·.hash)) ++ leBytes 8 e.meter ++ leBytes 4 e.freezes ++ leBytes 4 e.kills ++ leBytes 4 e.overruns ++ leBytes 4 0
  ++ leBytes 8 e.maxOver ++ leBytes 8 scrubbed ++ leBytes 8 s.debugState ++ leBytes 8 0

/-- The epoch is CLOSED: the report is written for every request that waits. -/
def State.closed (s : State) (scrubbed : Nat) : State :=
  let b := s.reportObject (s.closeReport scrubbed)
  let s : State := { s with
    tiles := s.tiles.map fun x => { x with tenAlloc := none, ineligible := false, resident := [] }
    mbx := { s.mbx with rings := tdel 64 s.mbx.rings, events := s.mbx.events.filter fun e => decide (e.owner ≠ 64), units := s.mbx.units.filter fun u => decide (u.2.1 < 64) }
    log := { s.log with tenant := {} } }
  let s := (s.rset (creg .tenEnd) (BitVec.allOnes 64)).modTen fun e => { e with
    state := .closed, tag := 0x7F, ordered := false, image := none, closeAt := none, drainedAt := none, runList := [], wrap := none, report := some b,
    unsealFailed := false, endArmed := false, frt := [], dir := [], clearing := none, cfg := {} }
  s.answerAll .close fun m s => s.giveReport m b

/-- SCRUB_COMPLETE (R263, R264): the last slot of the scrub has been written. -/
def scrubComplete (s : State) : State :=
  match s.mem.scrub with
  | none => s
  | some (ws, p) =>
    if p < 33 * scrubUnits ws then s
    else
    let epoch := s.mem.scrubEpoch
    let s := s.modMem fun m => { m with scrub := none, scrubEpoch := false }
    if epoch ∧ s.ten.state = .closing then s.closed (64 * sumNat (ws.map (·.2))) else s

def execScrubComplete (s : State) : Res := .next (scrubComplete s)

/-! ## Power (R342, R343) -/

/-- The energy of the interval's tenant activity in nJ. -/
def State.energy (s : State) : Nat :=
  let a := s.ten.activity
  sumNat (([a.depth8, a.depth4, a.depth16, a.depthCx, a.engine, a.dram, a.flits, a.sealed].zip s.board.energy).map fun (x, y) => x * y)

/-- THROTTLE_INTERVAL: P over 1 ms, where nJ per ms are 10^-6 W. -/
def throttle (s : State) : State :=
  let p := s.energy
  let n := s.level
  let b := s.fget (creg .tenPwr) 9 0 * 1000000
  let m := if 1 ≤ s.ten.therm.val then 15 else if b < p then Nat.min 15 (n + 1) else if 16 * p < 15 * b then n - 1 else n
  let s := (s.fset (creg .tenPwr) 19 16 m).fset (creg .tenPwr) 41 32 (Nat.min 1023 (p / 1000000))
  s.modTen fun e => { e with activity := {}, powerAt := s.now }

def execThrottleInterval (s : State) : Res :=
  guarded (s.cores.m0Up && decide (1966080 ≤ (s.now - s.ten.powerAt).toNat)) throttle s

/-! ## Temperature (R345-R347) -/

/-- Thermal stage 2 or more suspends a running tenant; leaving it resumes one that it alone suspended, where AUTO_RESUME is 1. -/
def State.thermal (s : State) (old new : Fin 4) : State :=
  let s := s.modTen fun e => { e with therm := new }
  let s := if 1 ≤ new.val then s.fset (creg .tenPwr) 19 16 15 else s
  if old.val < 2 ∧ 2 ≤ new.val ∧ s.ten.state = .loaded then s.heatSuspend
  else if 2 ≤ old.val ∧ new.val < 2 ∧ bit (s.rget (creg .tenCtrl)) 16 ∧ s.ten.heat ∧ s.mayResume then s.modTen fun e => { e with state := .loaded, heat := false }
  else s

/-- The next stage from a reading. -/
def nextStage (st : Fin 4) (tj thr shed hot cool : Nat) (envOk : Bool) : Fin 4 :=
  match st with
  | 0 => if 2 ≤ hot then 2 else if thr ≤ tj then 1 else 0
  | 1 => if 2 ≤ hot then 2 else if tj + 3 < thr then 0 else 1
  | 2 => if shed ≤ tj ∧ !envOk then 3 else if 100 ≤ cool then (if tj + 3 < thr then 0 else 1) else 2
  | 3 => if tj + 3 < shed then 2 else 3

/-- THERMAL_READING: the hottest junction moves the thermal stage; PKG_TEMP shows the whole reading (R539). -/
def thermalReading (x : Temps) (s : State) : State :=
  let r := s.rget (creg .tenTherm)
  let thr := bits r 7 0
  let susp := bits r 15 8
  let shed := bits r 23 16
  let env := bit r 32
  let was := bits r 31 24
  let t := x.tj.toNat
  let hot := if susp ≤ t then s.ten.hot + 1 else 0
  let cool := if t + 5 < susp then s.ten.cool + 1 else 0
  let s := (s.fset (creg .tenTherm) 31 24 t).rset (creg .pkgTemp) (fields [(0, t), (8, x.sensor), (16, x.case.toNat), (24, x.device)])
  let s := s.modTen fun e => { e with hot := hot, cool := cool }
  let old := s.ten.therm
  let new := nextStage old t thr shed hot cool env
  let s := s.thermal old new
  let s := if new.val < 3 then s.modTen fun e => { e with shedAt := none } else s
  -- R347: TJ_SHED with the environment within its limits is reported once
  if 2 ≤ new.val ∧ shed ≤ t ∧ env ∧ (old.val < 2 ∨ was < shed) then s.ufRec { cls := .uf, unit := 13, code := .rule 347 0 } true else s

def execThermalReading (t : Temps) (s : State) : Res := guarded s.cores.m0Up (thermalReading t) s

/-- The next cells of the shed order: those in force that no pending shed names, until they hold 480 frames (R346). -/
def State.shedNext (s : State) : List (Fin 64 × Fin 512) :=
  let going := s.ctl.pend.flatMap fun p => p.settings.flatMap fun x => match x with | .shed l => l | _ => []
  let live := s.mbx.shedOrder.filterMap fun (n, k) => match tfind k.val (s.ctl.slices.get n).cells with
    | some c => if going.contains (n, k) then none else some ((n, k), cellFrames (fld c.payload 4 1))
    | none => none
  (live.foldl (fun (x : List (Fin 64 × Fin 512) × Nat) c => if 480 ≤ x.2 then x else (enq x.1 c.1, x.2 + c.2)) ([], 0)).1

/-- CELL_SHED_STEP. -/
def shedStep (s : State) : State :=
  let l := s.shedNext
  let s := s.modTen fun e => { e with shedAt := some s.now }
  if l = [] then s
  else
    let s := s.action 1 (.shed l) 3932160
    s.logRec { cls := .uc, unit := 13, code := .rule 346 0, owners := .manager :: ((l.map (·.1)).eraseDups.map Owner.slice),
               detail := (l.take 8).flatMap fun (n, k) => leBytes 2 n.val ++ leBytes 2 k.val }

def execCellShedStep (s : State) : Res :=
  guarded (decide (s.ten.therm = 3) && s.cores.m0Up && (match s.ten.shedAt with | some x => decide (19660800 ≤ (s.now - x).toNat) | none => true)) shedStep s

end Sys2Proof.Machine
end

