-- ==== Sys2Proof/Machine/SealOps.lean ====
section
/-!
DEFINITION. SEAL and UNSEAL of a tenant's context, and its key generations (R341, R353-R359, R501).
-/
namespace Sys2Proof.Machine

/-- What the head of the kernel state holds (R353): the image, the run-list position with the tasks it has reached and
their waiting operations, the passes whose frozen state the allocations hold, the directory and the registry; and the
sizes that R357 compares. -/
structure KState where
  image : Image
  ordered : Bool
  a64k : Nat
  lines0 : Nat
  lines1 : Nat
  /-- window 1 has the lower address -/
  swapped : Bool
  runList : List RunEntry
  tasks : List (LTile × CtxNo × TaskCtx)
  units : List (LTile × Tab Nat)
  frozen : List (LTile × List Pass)
  passes : List (LTile × List PendPass)
  blocks : List (LTile × List SgeBlock)
  padops : List (LTile × List PadOp)
  dir : Tab (List (Option GEntry))
  gtab : List W64
  deriving DecidableEq, Repr

end Sys2Proof.Machine

namespace Sys2Proof.Config

/-- The bytes of the head of a kernel state, and the head that bytes spell: the spec gives no layout (log entry 48). -/
opaque headBytes (k : Machine.KState) : Bytes
opaque headOf (b : Bytes) : Option Machine.KState

end Sys2Proof.Config

namespace Sys2Proof.Machine

/-! ## The context (R353, R354) -/

/-- The lines of a window: first and number; none of a window that is not valid. -/
def DWin.span (w : DWin) : Nat × Nat := if w.valid then w.lines else (0, 0)

/-- Window 0 or 1 of the epoch. -/
def State.epochWin (s : State) (second : Bool) : DWin := if second then s.ten.cfg.win1 else s.ten.cfg.win0

/-- The head of the epoch's kernel state. -/
def State.kstate (s : State) (i : Image) : KState :=
  let on {α : Type} (f : LTile → α) : List (LTile × α) := (List.finRange 64).map fun t => (t, f t)
  let w0 := s.ten.cfg.win0.span
  let w1 := s.ten.cfg.win1.span
  { image := i, ordered := s.ten.ordered, a64k := s.ten.cfg.a64k, lines0 := w0.2, lines1 := w1.2, swapped := decide (w1.1 < w0.1),
    runList := s.ten.runList, tasks := s.tenantTasks,
    units := on fun t => (s.tiles.get t).units.filter fun u => (s.tenantCtxs t).any fun c => decide (c.1.val = u.1 / 16),
    frozen := on fun t => (s.tiles.get t).arr.run.filter (·.frozen),
    passes := on fun t => (s.tiles.get t).arr.pend.filter (!·.radio),
    blocks := on fun t => (s.tiles.get t).eng.pend.filter (!·.radio),
    padops := on fun t => (s.tiles.get t).cmp.pend.filter (!·.radio),
    dir := s.ten.dir, gtab := (List.range 64).map fun n => s.rget (creg .tenGtab n) }

/-- The pieces of a window of `lines` lines, of at most 65,536 bytes. -/
def winParts (second : Bool) (lines : Nat) : List SealPart :=
  (List.range (ceilDiv lines 1024)).map fun k => .dram second (65536 * k) (64 * Nat.min 1024 (lines - 1024 * k))

/-- The chunks of a context, first first (R354): the head, the tiles' allocations, the windows in address order. -/
def State.sealParts (s : State) (i : Image) : List SealPart :=
  let k := s.kstate i
  let head := chunks 65536 (Config.headBytes k)
  let allocs := (List.finRange 64).flatMap fun t => match (s.tiles.get t).tenAlloc with
    | some (_, n) => (List.range n).map fun j => .alloc t j
    | none => []
  let w0 := winParts false k.lines0
  let w1 := winParts true k.lines1
  ((List.range head.length).zip head).map (fun x => .head x.1 x.2) ++ allocs ++ (if k.swapped then w1 ++ w0 else w0 ++ w1)

/-- A freeze that has not yet written all that it saves. -/
def State.saving (s : State) : Bool :=
  s.tiles.toList.any fun x => x.arr.freeze.any fun f => f.rows != [] || f.recordDue || f.restore.isSome

/-- The home tile of a chunk (R339). -/
def SealPart.home : SealPart → Option LTile
  | .alloc t _ => some t
  | _ => none

/-- FLAGS.KSTATE of a part, its WHERE and its plaintext length. -/
def SealPart.head? : SealPart → Bool × Nat × Nat
  | .head n d => (true, n, d.length)
  | .alloc t n => (true, 65536 * (t.val + 1) + n, 65536)
  | .dram _ off len => (false, off, len)

/-- Whether a part's DRAM lines can move now (R252). -/
def State.partOpen (s : State) : SealPart → Bool
  | .dram w off len => s.canMove (span ((s.epochWin w).span.1 + off / 64) (len / 64) false)
  | _ => true

/-- The bytes of a part; lines of DRAM are read in slots of the present group (R252). -/
def State.partBytes (s : State) : SealPart → Bytes × State
  | .head _ d => (d, s)
  | .alloc t n =>
    match (s.tiles.get t).tenAlloc with
    | some (st, _) => let r := s.padBytes t s.ten.tag (65536 * (st + n)) 65536; (r.1, r.2.2)
    | none => ([], s)
  | .dram w off len =>
    let r := ((s.act fun a => { a with dram := a.dram + len / 64 }).charge .seal (span ((s.epochWin w).span.1 + off / 64) (len / 64) false)).readLines reqSeal ((s.epochWin w).span.1 + off / 64) (len / 64)
    (r.1.flatMap fun x => toBytes x.data 64, r.2)

/-! ## SEAL (R353-R356) -/

/-- The header of a chunk, which is also its additional data (R355). -/
def sealHead (g : Fin 4) (k : KeyGen) (r : SealRun) (last : Bool) (p : SealPart) (iv : BitVec 96) : Bytes :=
  let h := p.head?
  leBytes 4 0x4C414553 ++ leBytes 2 1 ++ leBytes 1 g.val ++ leBytes 1 (last.toNat + 2 * h.1.toNat) ++ leBytes 4 k.genNum ++ leBytes 4 r.seq
  ++ leBytes 8 r.id.toNat ++ leBytes 8 h.2.1 ++ leBytes 4 h.2.2 ++ toBytes iv 12 ++ leBytes 16 0

/-- The key generation of an index. -/
def State.gen (s : State) (g : Fin 4) : Option KeyGen := s.ten.keys.get g

def sealStart (m : Msg) (s : State) : State :=
  match s.gen s.curGen, s.ten.image with
  | some k, some i =>
    if s.ten.state ≠ .loaded ∧ s.ten.state ≠ .suspended then s.reply m stBadState
    else if s.ten.sealing.isSome ∨ s.ten.unsealing.isSome then s.reply m stBusy
    else if 2 ^ 32 < k.sealed + (s.sealParts i).length then s.reply m stGenExhausted
    else
      let s := (if s.ten.state = .loaded then s.beginSuspend else s).modTen fun e => { e with heat := false }
      (s.modTen fun e => { e with sealing := some { slot := m.slot, gen := s.curGen, id := s.now, addr := fld m.payload 0 8, len := fld m.payload 8 4 } }).await m .seal
  | _, _ => s.reply m stBadState

def execSeal (slot : SlotId) (s : State) : Res := message 0x0507 slot sealStart s

/-- A seal ends, and its message is answered. -/
def State.sealEnd (s : State) (status : Nat) (payload : Bytes := []) : State :=
  (s.modTen fun e => { e with sealing := none }).answerAll .seal fun m s => s.reply m status 0 payload

/-- The parts that a seal has still to write. -/
def State.sealTodo (s : State) (r : SealRun) : List SealPart :=
  match r.todo, s.ten.image with
  | some l, _ => l
  | none, some i => s.sealParts i
  | none, none => []

/-- One part sealed and written to the host; `slow` where it lasted longer than 4,096 cycles (R341). -/
def State.sealPart (s : State) (r : SealRun) (k : KeyGen) (p : SealPart) (rest : List SealPart) (iv : BitVec 96) (slow : Bool) : State :=
  let d := s.partBytes p
  let head := sealHead r.gen k r rest.isEmpty p iv
  let c := Config.gcmSeal k.key iv head d.1
  let b := head ++ c.1 ++ toBytes c.2 16
  let s := d.2
  if r.len < r.done + b.length then s.sealEnd stNoResource
  else
    let s := s.emit (.hostWrite (r.addr + r.done) b (some s.ten.cfg.pasid.toNat))
    let s := s.act fun a => { a with sealed := a.sealed + d.1.length }
    let s := if slow then (s.finc (creg .tenStat) 31 16).modTen fun e => { e with overruns := e.overruns + 1 } else s
    let n : SealRun := { r with seq := r.seq + 1, todo := some rest, done := r.done + b.length }
    let s := s.modTen fun e => { e with sealing := some n, keys := e.keys.set r.gen (some { k with sealed := k.sealed + 1 }) }
    if rest.isEmpty then s.sealEnd stOk (leBytes 8 n.id.toNat ++ leBytes 4 n.seq ++ leBytes 4 0 ++ leBytes 8 n.done) else s

/-- SEAL_CHUNK: the next part of the seal in progress, once the epoch is SUSPENDED and nothing is being saved. -/
def sealChunk (iv : BitVec 96) (slow : Bool) (s : State) : State :=
  match s.ten.sealing with
  | none => s
  | some r =>
    if s.ten.state ≠ .suspended ∨ s.saving then s
    else match s.sealTodo r, s.gen r.gen with
      | p :: rest, some k => if p.home.any s.commandHeld ∨ !s.partOpen p then s else s.sealPart r k p rest iv slow
      | _, _ => s.sealEnd stNoResource

def execSealChunk (iv : BitVec 96) (slow : Bool) (s : State) : Res := .next (sealChunk iv slow s)

/-! ## UNSEAL (R357, R358) -/

def unsealStart (m : Msg) (s : State) : State :=
  if s.ten.state ≠ .opened then s.reply m stBadState
  else if s.ten.sealing.isSome ∨ s.ten.unsealing.isSome then s.reply m stBusy
  else (s.modTen fun e => { e with unsealing := some { slot := m.slot, addr := fld m.payload 0 8, len := fld m.payload 8 4 } }).await m .unseal

def execUnseal (slot : SlotId) (s : State) : Res := message 0x0508 slot unsealStart s

/-- An unseal ends; `failed` sets UNSEAL_FAILED (R358). -/
def State.unsealEnd (s : State) (failed : Bool) (status : Nat) (payload : Bytes := []) : State :=
  (s.modTen fun e => { e with unsealing := none, unsealFailed := failed }).answerAll .unseal fun m s => s.reply m status 0 payload

/-- A sealed task in this epoch: its tag, windows and the place of its allocation are the epoch's (R206, R330). -/
def State.restoreTask (s : State) (i : Image) (x : LTile × CtxNo × TaskCtx) : State :=
  let k := x.2.2
  match (s.tiles.get x.1).tenAlloc, i.recs[k.recIdx]? with
  | some (st, sz), some r =>
    match startTask r k.recIdx .epoch s.ten.tag st sz s.ten.cfg.win0 s.ten.cfg.win1 s.now with
    | some n => s.setCtx x.1 x.2.1 (some { k with owner := n.owner, base := n.base, bound := n.bound, srow := n.srow, win0 := n.win0, win1 := n.win1 })
    | none => s
  | _, _ => s

/-- The head of a context restored, and the epoch SUSPENDED (R357). -/
def State.restoreHead (s : State) (k : KState) : State :=
  let s := k.tasks.foldl (fun (s : State) x => s.restoreTask k.image x) s
  let tag := s.ten.tag
  let s := k.units.foldl (fun (s : State) x => s.modTile x.1 fun y => { y with units := x.2.foldl (fun u v => tset 0 u v.1 v.2) y.units }) s
  let s := k.frozen.foldl (fun (s : State) x => if x.2 = [] then s else s.modTile x.1 fun y =>
    { y with arr := { y.arr with run := y.arr.run ++ x.2.map fun (p : Pass) => { p with owner := tag }
                                 freeze := some { start := s.now, closes := none, recordDue := false } } }) s
  let s := k.passes.foldl (fun (s : State) x => s.modTile x.1 fun y => { y with arr := { y.arr with pend := y.arr.pend ++ x.2 } }) s
  let s := k.blocks.foldl (fun (s : State) x => s.modTile x.1 fun y => { y with eng := { y.eng with pend := y.eng.pend ++ x.2 } }) s
  let s := k.padops.foldl (fun (s : State) x => s.modTile x.1 fun y => { y with cmp := { y.cmp with pend := y.cmp.pend ++ x.2.map fun (o : PadOp) => { o with owner := tag } } }) s
  let s := ((List.range 64).zip k.gtab).foldl (fun (s : State) x => s.rset (creg .tenGtab x.1) x.2) s
  s.modTen fun e => { e with state := .suspended, image := some k.image, runList := k.runList, dir := k.dir }

/-- Whether the epoch is at least as large as the sealed context (R357), and of its mode, which is fixed at open (R329). -/
def State.roomFor (s : State) (k : KState) : Bool :=
  decide (k.ordered = s.ten.ordered ∧ k.a64k ≤ s.ten.cfg.a64k ∧ k.lines0 ≤ s.ten.cfg.win0.span.2 ∧ k.lines1 ≤ s.ten.cfg.win1.span.2)

/-- The conditions of R357 on a chunk: the plaintext where they hold. -/
def State.openChunk (s : State) (r : UnsealRun) (b : Bytes) : Option Bytes :=
  let len := fld b 32 4
  match s.gen (fin 4 (fld b 6 1)) with
  | none => none
  | some k =>
    if b.length ≠ 80 + len ∨ len = 0 ∨ 65536 < len ∨ fld b 8 4 ≠ k.genNum ∨ fld b 12 4 ≠ r.seq ∨ r.id.any (fun i => decide (i.toNat ≠ fld b 16 8)) then none
    else Config.gcmOpen k.key (ofBytes 96 (slice b 36 12)) (slice b 0 64) (slice b 64 len) (ofBytes 128 (slice b (64 + len) 16))

/-- A kernel-state or DRAM chunk restored; none where it lies outside the epoch. -/
def State.putChunk (s : State) (r : UnsealRun) (k : KState) (kst : Bool) (at_ : Nat) (d : Bytes) : Option (UnsealRun × State) :=
  if kst then
    let t : LTile := fin 64 (at_ / 65536 - 1)
    match (s.tiles.get t).tenAlloc with
    | some (st, n) =>
      if at_ / 65536 ≤ 64 ∧ at_ % 65536 < n then some (r, s.padStore t rankOther s.ten.tag (65536 * (st + at_ % 65536)) d) else none
    | none => some (r, s)
  else
    -- the second window begins where the offset returns to 0
    let second := r.second || (decide (at_ = 0) && r.id.isSome && decide ((if k.swapped then k.lines1 else k.lines0) * 64 ≤ r.dram))
    let w := (s.epochWin (second != k.swapped)).span
    if at_ / 64 + ceilDiv d.length 64 ≤ w.2 then
      let l := (chunks 64 d).map fun x => ({ data := ofBytes 512 x } : RdRow)
      some ({ r with second := second, dram := r.dram + d.length },
            ((s.act fun a => { a with dram := a.dram + l.length }).charge .seal (span (w.1 + at_ / 64) l.length true)).writeLines (w.1 + at_ / 64) l)
    else none

/-- An accepted chunk's effect. -/
def State.takeChunk (s : State) (r : UnsealRun) (b d : Bytes) : State :=
  let flags := fld b 7 1
  let kst := decide (flags / 2 % 2 = 1)
  let last := decide (flags % 2 = 1)
  let at_ := fld b 24 8
  let r : UnsealRun := { r with gen := some (fin 4 (fld b 6 1)), id := some (ofBytes 64 (slice b 16 8)), seq := r.seq + 1, done := r.done + b.length }
  let s := s.act fun a => { a with sealed := a.sealed + d.length }
  let head := kst && decide (at_ < 65536)
  let r : UnsealRun := if head then { r with head := r.head ++ d } else r
  if head ∧ !last then s.modTen fun e => { e with unsealing := some r }
  else match Config.headOf r.head with
    | none => s.unsealEnd true stUnsealFailed
    | some k =>
      if !s.roomFor k then s.unsealEnd false stBadState
      else match (if head then some (r, s) else s.putChunk r k kst at_ d) with
        | none => s.unsealEnd true stUnsealFailed
        | some (r, s) =>
          if last then (s.restoreHead k).unsealEnd false stOk (leBytes 4 r.seq ++ leBytes 4 0)
          else s.modTen fun e => { e with unsealing := some r }

/-- The home tile of a chunk that arrives (R339). -/
def chunkHome (b : Bytes) : Option LTile :=
  let n := fld b 24 8 / 65536
  if fld b 7 1 / 2 % 2 = 1 ∧ 1 ≤ n ∧ n ≤ 64 then some (fin 64 (n - 1)) else none

/-- Whether the DRAM lines that a chunk restores can move now (R252). -/
def State.chunkOpen (s : State) (r : UnsealRun) (b d : Bytes) : Bool :=
  let at_ := fld b 24 8
  fld b 7 1 / 2 % 2 = 1 || match Config.headOf r.head with
    | none => true
    | some k =>
      let second := r.second || (decide (at_ = 0) && r.id.isSome && decide ((if k.swapped then k.lines1 else k.lines0) * 64 ≤ r.dram))
      let w := (s.epochWin (second != k.swapped)).span
      decide (w.2 < at_ / 64 + ceilDiv d.length 64) || s.canMove (span (w.1 + at_ / 64) (ceilDiv d.length 64) true)

/-- UNSEAL_CHUNK: the next chunk of the source buffer, as the host read of it completed. -/
def unsealChunk (b : Bytes) (s : State) : State :=
  match s.ten.unsealing with
  | none => s
  | some r =>
    if (chunkHome b).any s.commandHeld then s
    else if r.len < r.done + b.length then s.unsealEnd true stUnsealFailed
    else match s.openChunk r b with
      | none => s.unsealEnd true stUnsealFailed
      | some d => if s.chunkOpen r b d then s.takeChunk r b d else s

def execUnsealChunk (chunk : Bytes) (s : State) : Res := .next (unsealChunk chunk s)

/-! ## Key generations (R359, R501) -/

/-- KEY_INSTALL: the wrapped key of a generation that is not live. -/
def keyInstall (m : Msg) (s : State) : State :=
  let p := m.payload
  let g : Fin 4 := fin 4 (fld p 0 1)
  match s.ten.wrap with
  | none => s.reply m stBadState
  | some n =>
    if s.ten.state = .closing ∨ (s.gen g).isSome then s.reply m stBadState
    else
      let tail := slice p 0 1 ++ slice p 4 4
      match Config.decapsulate n (slice p 16 32) (slice p 48 1088) with
      | none => s.reply m stVerifyFailed
      | some shared =>
        let k := Config.hkdf [] shared ("LX9640-WRAP".toList.map (fun c => BitVec.ofNat 8 c.toNat) ++ leBytes 1 s.ten.tag ++ tail) 32
        match Config.gcmOpen (ofBytes 256 k) (ofBytes 96 (slice p 1136 12)) tail (slice p 1148 32) (ofBytes 128 (slice p 1180 16)) with
        | none => s.reply m stVerifyFailed
        | some key => (s.modTen fun e => { e with keys := e.keys.set g (some { key := ofBytes 256 key, genNum := fld p 4 4 }) }).reply m stOk

def execKeyInstall (slot : SlotId) (s : State) : Res := message 0x0509 slot keyInstall s

/-- KEY_CURRENT: a live generation becomes current. -/
def keyCurrent (m : Msg) (s : State) : State :=
  let g : Fin 4 := fin 4 (fld m.payload 0 4)
  if (s.gen g).isNone then s.reply m stBadState else (s.fset (creg .tenKeys) 5 4 g).reply m stOk

def execKeyCurrent (slot : SlotId) (s : State) : Res := message 0x050A slot keyCurrent s

/-- Whether a seal or unseal that uses a generation is in flight. -/
def State.genBusy (s : State) (g : Fin 4) : Bool :=
  s.ten.sealing.any (fun r => decide (r.gen = g)) || s.ten.unsealing.any fun r => decide (r.gen = some g)

/-- KEY_RETIRE: the key is erased unless it is current or in use. -/
def keyRetire (m : Msg) (s : State) : State :=
  let g : Fin 4 := fin 4 (fld m.payload 0 4)
  if (s.gen g).isNone then s.reply m stBadState
  else if s.curGen = g ∨ s.genBusy g then s.reply m stGenBusy
  else (s.modTen fun e => { e with keys := e.keys.set g none }).reply m stOk

def execKeyRetire (slot : SlotId) (s : State) : Res := message 0x050B slot keyRetire s

end Sys2Proof.Machine
end

