-- ==== Sys2Proof/Machine/Tick.lean ====
section
/-!
DEFINITION. What every cycle does (R34), what every memory frame does (R40, R59), the time events that depend on cells in
force (R43, R46, R56), and the die-to-die links (R196-R198, R474).
-/
namespace Sys2Proof.Machine

/-! ## Die-to-die links (R196, R197, R474) -/

/-- A frame that a link sent in cycle `sent` and that has not crossed it yet. -/
def State.crossing (s : State) (sent : W64) : Bool := decide (sent ≤ s.now ∧ s.now < sent + 24)

/-- The cycle in which a rim die's link sends a flit, in a direction. -/
def Flit.sentOn (f : Flit) (r : Fin 4) (toMesh : Bool) : Option W64 :=
  match f.cross with
  | some (q, v) => if q = r ∧ (match f.payload with | .lines .. => true | _ => false) = toMesh then some v else none
  | none => none

/-- The cycles in which a direction of a link sends what it has been given. -/
def State.sentFrames (s : State) (r : Fin 4) (toMesh : Bool) : List W64 :=
  ((s.mesh.crossings.filter fun c => toMesh && decide (c.rim = r)).map (·.sent)) ++ s.mesh.flits.filterMap (·.sentOn r toMesh)

/-- A flit that its link sends in another cycle: it reaches its rim die, or enters the mesh and lands, that much later. -/
def State.resent (s : State) (r : Fin 4) (f : Flit) (v : W64) : Flit × State :=
  match f.payload with
  | .lines _ t _ _ =>
    let a := rimStop r
    let w := firstCycle (s.open_ (outPort a)) 4096 (v + 24)
    let y := (s.take (outPort a) w).transit a (stopOf (s.ptile t)) w
    ({ f with due := y.1, cross := some (r, v) }, y.2)
  | _ => ({ f with due := v + 24, cross := some (r, v) }, s)

/-- The frames of a direction sent again from the frame of cycle `h` on (R196): those handed over before the retransmission begins 64
cycles later, the others behind them. -/
def State.sendAgain (s : State) (r : Fin 4) (toMesh : Bool) (h : W64) : State :=
  let cs := s.mesh.crossings.foldl (fun (x : List Crossing × Resend) c =>
    if toMesh ∧ c.rim = r ∧ h ≤ c.sent then let y := x.2.send c.sent; (enq x.1 { c with sent := y.1 }, y.2) else (enq x.1 c, x.2)) ([], { upto := h + 64, tail := 0 })
  let fs := s.mesh.flits.foldl (fun (x : List Flit × Resend × State) f => match f.sentOn r toMesh with
    | some v =>
      if v < h then (enq x.1 f, x.2)
      else
        let y := x.2.1.send v
        let z := if y.1 = v then (f, x.2.2) else x.2.2.resent r f y.1
        (enq x.1 z.1, y.2, z.2)
    | none => (enq x.1 f, x.2)) ([], cs.2, s)
  let s : State := { fs.2.2 with mesh := { fs.2.2.mesh with crossings := cs.1, flits := fs.1 } }
  let k := linkKey r (rimStop r)
  let l := s.link k
  s.setLink k (if toMesh then { l with into := fs.2.1 } else { l with from_ := fs.2.1 })

/-- A replay of a direction's oldest frame on the link (R196; log entry 178). -/
def State.delayDir (s : State) (r : Fin 4) (toMesh : Bool) : State :=
  match (s.sentFrames r toMesh).filter s.crossing with
  | [] => s
  | v :: vs => s.sendAgain r toMesh (vs.foldl (fun a b => if b < a then b else a) v)

/-- A replay on a rim die's link. -/
def State.delayLink (s : State) (r : Fin 4) : State := (s.delayDir r true).delayDir r false

/-- A flit that is lost on a link: a radio one leaves nothing behind, and a MEMX write's lines will be written poisoned (R247); a tenant leg
waits for its TIMEOUT (R474). -/
def State.loseFlit (s : State) (f : Flit) : State :=
  let wait (lines : List (Nat × Row × Bool)) (memx : Option Nat) (s : State) : State :=
    match f.sender.bind fun x => (s.ctx x.1 x.2).map fun k => (x.1, x.2, k) with
    | some (t, c, k) =>
      if k.radio then s
      else { s with mesh := { s.mesh with
               xfers := enq s.mesh.xfers { id := s.mesh.nextId, tile := t, ctx := c, owner := k.owner, dest := 64, zone := 0, unit := 0, addr := 0, left := 0,
                                           issued := f.start, lines := lines, memx := memx }
               nextId := s.mesh.nextId + 1 } }
    | none => s
  match f.payload with
  | .memxW id _ => wait [] (some id) s
  | .lines id _ _ ls => wait ls (some id) s
  | .egress .. => wait [] none s
  | _ => s

/-- A radio frame towards the mesh that is lost: the lines of a read leg have had their last effect. -/
def State.loseCrossing (s : State) (c : Crossing) : State :=
  match c.payload with
  | .lines id _ _ ls => s.memxLine id ls.length
  | _ => s

/-- Every frame on a link is discarded. -/
def State.cutLink (s : State) (r : Fin 4) : State :=
  let onLink (f : Flit) : Bool := (f.sentOn r true).any s.crossing || (f.sentOn r false).any s.crossing
  let crosses (c : Crossing) : Bool := decide (c.rim = r) && s.crossing c.sent
  let cut : State := { s with mesh := { s.mesh with flits := s.mesh.flits.filter fun f => !onLink f, crossings := s.mesh.crossings.filter fun c => !crosses c } }
  let cut := (s.mesh.flits.filter onLink).foldl (fun (s : State) f => s.loseFlit f) cut
  (s.mesh.crossings.filter crosses).foldl (fun (s : State) c => s.loseCrossing c) cut

/-- A frame that failed after 3 replays: the link retrains for 16,384 cycles (R474); four in a second are a UF (R468). -/
def State.linkError (s : State) (r : Fin 4) (stop : Nat) : State :=
  let k := linkKey r stop
  let l := s.link k
  let i := interval s.now 1
  let n : Nat := if l.errors.1 = i then l.errors.2 + 1 else 1
  let s := s.setLink k { l with replays := 0, retrain := some (s.now + 16384), errors := (i, n) }
  let s := if stop = rimStop r then s.cutLink r else s
  let s := s.logRec { cls := .uc, unit := 15, code := .rule 474 0, object := 256 * r.val + stop }
  if n = 4 then s.ufRec { cls := .uf, unit := 15, code := .rule 468 2, object := 256 * r.val + stop } else s

/-- A replay on a die-to-die link; the frame's earlier replays are those of the 64 cycles before. -/
def State.d2dReplay (s : State) (r : Fin 4) (stop : Nat) : State :=
  let k := linkKey r stop
  let l := s.link k
  if l.retrain.isSome then s
  else
    let n := if s.now = l.replayAt + 64 then l.replays + 1 else 1
    if n ≤ 3 then
      let s := s.setLink k { l with replays := n, replayAt := s.now }
      if stop = rimStop r then s.delayLink r else s
    else s.linkError r stop

/-- A replay on a Krovbem link: after 3 of one frame the link goes down (R395). -/
def State.krovbemReplay (s : State) (port : Fin 7) : State :=
  let k := 288 + port.val
  let l := s.link k
  let n := if s.now = l.replayAt + 64 then l.replays + 1 else 1
  if n ≤ 3 then (s.setLink k { l with replays := n, replayAt := s.now }).modFab fun f =>
    -- the frames behind it wait 64 cycles more (R196, R365)
    { f with linkFree := tput port.val (later s.now (tget 0 f.linkFree port.val) + 64) f.linkFree }
  else (s.setLink k {}).krovbemDown port

/-- LINK_REPLAY. -/
def linkReplay (l : LinkId) (s : State) : State :=
  match l with
  | .d2d r stop => s.d2dReplay r stop.val
  | .krovbem port => if s.peerBit (s.chipAt port) 1 then s.krovbemReplay port else s

def execLinkReplay (l : LinkId) (s : State) : Res := guarded (!s.boot.dies) (linkReplay l) s

/-- D2D_LINK_RETRAIN_COMPLETE. -/
def execD2dLinkRetrainComplete (rim : Fin 4) (stop : Fin 72) (s : State) : Res :=
  let k := linkKey rim stop.val
  guarded (match (s.link k).retrain with | some e => decide (e = s.now) | none => false)
    (fun s => s.setLink k { s.link k with retrain := none, replays := 0 }) s

/-- A late frame is counted for its tile and logged (R197). -/
def State.lateDrop (s : State) (t : LTile) : State :=
  (s.finc (treg .schStat t) 31 16).logRec { cls := .ce, unit := 4, code := .rule 197 0, ltile := t, ptile := s.ptile t, limit := perX 15 t }

/-- A frame for a rim die that arrives after its deadline. -/
def Flit.late (f : Flit) (now : W64) : Bool := decide (f.due ≤ now) && f.deadline.any fun d => decide (d < f.due)

/-- LATE_FRAME_DISCARD at an injecting stop: the oldest frame of the flow has not been injected by its deadline - 64 (R197). -/
def lateCross (f : FlowId) (s : State) : State :=
  match takeFirst (·.of f) s.mesh.crossings with
  | some (c, rest) =>
    if s.now = c.nominal + 65 then (State.loseCrossing { s with mesh := { s.mesh with crossings := rest } } c).lateDrop c.tile else s
  | none => s

/-- The frame of a flow that stands late at a rim die, and its tile. -/
def State.lateAt (s : State) (f : FlowId) (x : Flit) : Option LTile :=
  if !x.late s.now then none
  else match x.payload, f with
    | .egress _ t owner _ _ _, .declared n _ => if owner = n.val then some t else none
    | .memxW id _, .leg n m r => match s.mem.memx.find? fun y => decide (y.id = id) with
      | some y => if y.owner = n.val ∧ y.idx = m ∧ x.cross.map (·.1) = some r then some y.tile else none
      | none => none
    | _, _ => none

/-- LATE_FRAME_DISCARD. -/
def lateFrame (f : FlowId) (s : State) : State :=
  match takeFirst (fun x => (s.lateAt f x).isSome) s.mesh.flits with
  | some (x, rest) => State.lateDrop { s with mesh := { s.mesh with flits := rest } } ((s.lateAt f x).getD 0)
  | none => lateCross f s

def execLateFrameDiscard (f : FlowId) (s : State) : Res := .next (lateFrame f s)

/-! ## The cycle (R34) -/

/-- What a flit brings in the cycle it is due in. What waits for a command of its own stays. -/
def State.deliver (s : State) (f : Flit) : State :=
  match f.payload with
  | .landing ws => ws.foldl (fun (s : State) w => s.land w) s
  | .lines id t owner ls => s.landLines id t owner ls
  | .memxW id ls => s.rimLines id ls
  | .egress r t _ zone _ data =>
    let k := 16 * t.val + zone
    (s.modRim r fun x => { x with rings := tset [] x.rings k (tget [] x.rings k ++ data.map fun d => (d, s.now)) }).noteOutputs f.sender [.ring r k s.now]
  | .control t owner zone _ data => data.foldl (fun (s : State) d => s.holdUnit t owner zone d) s
  | .zoneData src t z u rows => s.emit (.zoneData src t z u rows)
  | _ => s

/-- A flit that the cycle itself delivers. -/
def Flit.plain (f : Flit) : Bool :=
  match f.payload with
  | .nack _ (some _) _ | .grant .. | .done .. | .post .. => false
  | _ => true

/-- Every plain flit that is due, first injected first. -/
def State.deliverDue (s : State) : State :=
  let now (f : Flit) : Bool := f.plain && decide (f.due ≤ s.now) && !f.late s.now
  let due := s.mesh.flits.filter now
  due.foldl (fun (s : State) f => s.deliver f) { s with mesh := { s.mesh with flits := s.mesh.flits.filter fun f => !now f } }

/-- Frames handed to a link that retrains are discarded (R474). -/
def State.cutDown (s : State) : State :=
  (List.finRange 4).foldl (fun (s : State) r => if (s.link (linkKey r (rimStop r))).retrain.isSome then s.cutLink r else s) s

/-- The cycle of one tile: stops of its sequencer, effects due, array, engine, compare unit, task timers. -/
def State.tileCycle (s : State) (t : LTile) : State := (((((s.stopCycle t).laterCycle t).arrayCycle t).engCycle t).cmpCycle t).timerCycle t

/-- Every task under a function of its tile and context. -/
def State.mapCtx (s : State) (f : LTile → CtxNo → TaskCtx → TaskCtx) : State :=
  { s with tiles := Vector.ofFn fun t => let x := s.tiles.get t
                                         { x with ctx := Vector.ofFn fun c => (x.ctx.get c).map (f t c) } }

/-- A task that has not ended, or has an operation without its last effect; a dropped one does not wait for the mesh (R212, R475). -/
def State.liveTask (s : State) (t : LTile) (c : CtxNo) (k : TaskCtx) : Bool :=
  k.ended.isNone || (s.tiles.get t).localBusy c || (!k.dropped && s.meshBusy t c)

/-- The cycle of each live task is noted, and at its end whether it still lives (R212). -/
def State.noteBusy (s : State) : State := s.mapCtx fun t c k => if k.live || s.liveTask t c k then { k with busyAt := s.now } else k
def State.noteLive (s : State) : State := s.mapCtx fun t c k => { k with live := s.liveTask t c k }

/-- The row that the copy of a tile's swap takes in this cycle (R427); 196,608 once all are copied. -/
def State.swapRow (s : State) (t : LTile) : Nat := match s.ctl.swap with | some (u, _, _, n) => if u = t then n else 196608 | none => 196608

/-- The copy of a swap reads its row: an error is handled as R178 has it (R429). -/
def State.swapRead (s : State) : State :=
  match s.ctl.swap with
  | some (t, _, _, n) => if n < 196608 then s.noteRead t n 128 else s
  | none => s

/-- The pads after a cycle: each pad's own writes, and those of a swap's copy on its spare (R157, R427). -/
def State.endPads (s : State) : Vector Pad 68 :=
  let pads := s.pads.map fun p => p.endCycle s.now
  s.swaps.foldl (fun (v : Vector Pad 68) x =>
    v.set x.2 ((s.pads.get x.2).mirror (s.pad x.1) (pads.get (s.ptile x.1)) s.now (s.swapRow x.1))) pads

/-- The end of a cycle: pad writes take effect, the local copies are reloaded, and the count advances. -/
def State.endTick (s : State) : State :=
  { s with
    pads := s.endPads
    ctl := { s.ctl with swap := s.ctl.swap.map fun c => (c.1, c.2.1, c.2.2.1, Nat.min 196608 (c.2.2.2 + 1)) }
    tiles := s.tiles.map fun x => { x with issued := false }
    mesh := { s.mesh with taken := s.mesh.taken.filter fun x => decide (s.now < x.2) }
    time := { s.time with now := s.now + 1, copies := [] } }

/-- ATB_TICK (R34): everything that the present cycle does by itself, then the count advances by 1. -/
def atbTick (s : State) : State :=
  let s := (List.finRange 64).foldl (fun (s : State) t => s.tileCycle t) s.noteBusy
  s.memCycle.handCycle.cutDown.deliverDue.trySuspended.noteLive.scanRecall.sendLinks.swapRead.endTick

def execAtbTick (s : State) : Res := guarded (!s.boot.dies) atbTick s

/-! ## Memory frames (R40, R59, R240, R395, R400) -/

/-- The logical tile at a stop. -/
def State.tileOf (s : State) (stop : Nat) : Option LTile := (List.finRange 64).find? fun t => decide (stopOf (s.ptile t) = stop)

/-- An output that becomes an erasure (R59): a row or a line is poisoned, units leave the ring. -/
def State.erase (s : State) (o : Output) : State :=
  match o.what with
  | .row t r => s.changeRow t r fun x => { x with poison := true }
  | .line n => s.writeLine n (tget 0 s.mem.lines n) true true
  | .ring r k v => s.modRim r fun x => { x with rings := tset [] x.rings k ((tget [] x.rings k).filter fun u => decide (u.2 ≠ v)) }

/-- A radio task of a tile whose window falls within the memory frame that ends now (R59). -/
def State.windowEnds (s : State) (t : LTile) (c : CtxNo) : Bool :=
  (s.ctx t c).any fun k => k.radio && decide (k.opens < s.now ∧ s.now - 8192 < k.closes)

/-- The radio windows of a stop whose copy was wrong, of the memory frame that ends now, are failed: what they put somewhere, and what they
still send, becomes erasures (R59; log entry 179). -/
def State.failStop (s : State) (stop : Nat) : State :=
  match s.tileOf stop with
  | none => s
  | some t =>
    let bad (x : Option (LTile × CtxNo)) : Bool := x.any fun y => decide (y.1 = t) && s.windowEnds t y.2
    let gone := s.mesh.outputs.filter fun o => decide (o.tile = t ∧ s.now - 8192 < o.closes)
    let s : State := { s.mapCtx (fun u c k => if u = t ∧ s.windowEnds t c then { k with failed := true } else k) with mesh := { s.mesh with
      flits := s.mesh.flits.filter fun f => !bad f.sender
      radioQ := s.mesh.radioQ.filter fun q => !bad (some (q.tile, q.ctx)) || s.readLeg q } }
    (gone.foldl (fun (s : State) o => s.erase o) s).swapCandidate t 8 (.rule 59 0)

/-- A copy that differs from the master count (R59): stops 0-71, rim dies 72-75. -/
def State.copyBad (s : State) (n : Nat) (v : W64) : State :=
  let s : State := { s with time := { s.time with copies := tput n v s.time.copies } }
  let s := s.logRec { cls := .uc, unit := 8, code := .rule 59 1, object := n }
  if n < 72 then s.failStop n
  else { s with time := { s.time with badFrames := (n - 72, s.now) :: s.time.badFrames } }

/-- What a fault of the frame's check does (R59, R468). -/
def State.frameFault (s : State) (x : FrameFault) : State :=
  match x with
  | .copy n v => if v = s.now then s else s.copyBad n.val v
  | .master => s.ufRec { cls := .uf, unit := 8, code := .rule 468 1, object := 0 }
  | .commitUnit => s.ufRec { cls := .uf, unit := 12, code := .rule 468 1, object := 1 }

/-- Channels in full retrain show it (R240). -/
def State.showRetrain (s : State) (l : List (Fin 160)) : State :=
  (List.finRange 160).foldl (fun (s : State) k => s.fset (creg .memCh k.val) 12 12 (l.contains k).toNat) s

/-- The vector of a HEART: the members heard within the last 4 memory frames (R395). -/
def State.heard (s : State) : Byte :=
  ofLanes 8 ((List.range 8).map fun n => BitVec.ofBool (match tfind n s.fab.heartOf with | some (at_, _) => decide ((s.now - at_).toNat ≤ 32768) | none => false))

/-- The clutch ports that lead to a member. -/
def State.clutchPorts (s : State) : List (Fin 7) := (List.finRange 7).filter fun p => s.member (s.chipAt p) && s.chipAt p != s.chip

/-- HEART on every clutch port, and TIME from the leader. -/
def State.hearts (s : State) : State :=
  s.clutchPorts.foldl (fun (s : State) p =>
    let s := if s.cores.uf.isSome then s else s.queueK p (.heart s.heard)
    if s.board.leader = s.chip ∧ s.member s.chip then
      s.queueK p (.time (tfind p.val s.fab.timeBack) (decide (s.servoState = stLocked))) else s) s

/-- MEMORY_FRAME_BOUNDARY; `bad` is what the check of the time finds, `retrain` the channels in full retrain. -/
def frameBoundary (bad : List FrameFault) (retrain : List (Fin 160)) (s : State) : State :=
  let s := bad.foldl (fun (s : State) x => s.frameFault x) s
  (State.showRetrain { s with mesh := { s.mesh with outputs := s.mesh.outputs.filter fun o => decide (s.now < o.closes) } } retrain).flushOld.hearts

def execMemoryFrameBoundary (bad : List FrameFault) (retrain : List (Fin 160)) (s : State) : Res :=
  guarded (s.mfStart s.now && !s.boot.dies) (frameBoundary bad retrain) s

/-! ## Time events (R43-R46, R49-R52, R56, R59) -/

/-- A fronthaul timestamp in 1/16 cy is invalid when its rim die's copy was wrong in that memory frame (R59). -/
def State.badStamp (s : State) (port : Fin 16) (t16 : Int) : Bool :=
  match s.lane 1 port.val with
  | some l => s.time.badFrames.any fun b => decide (b.1 = l.val / 6 ∧ (b.2.toNat : Int) - 8192 ≤ t16 / 16 ∧ t16 / 16 < (b.2.toNat : Int))
  | none => false

/-- PTP_MESSAGE_RECEIVE. -/
def ptpMessage (m : PtpMsg) (s : State) : State :=
  let invalid := match m.body with
    | .sync _ t2 t3 _ => s.badStamp m.port t2 || s.badStamp m.port t3
    | _ => false
  if invalid then s else (ptpReceive s.cellInForce m s).refreshQl

def execPtpMessageReceive (m : PtpMsg) (s : State) : Res := guarded (!s.time.src.paused) (ptpMessage m) s

def execPpsInEdge (ts16 : Nat) (s : State) : Res :=
  guarded (decide (s.tsrc = 2) && !s.time.src.paused) (fun s => (ppsEdge s.cellInForce ts16 s).refreshQl) s

/-- HOLDOVER_LIMIT_EXCEEDED. -/
def limitExceeded (s : State) : Bool :=
  !bit (s.rget (creg .atbState)) 9 && decide (s.fget (creg .atbHold) 31 0 < s.holdEst)

def execHoldoverLimitExceeded (s : State) : Res :=
  guarded (limitExceeded s) (fun s => (s.fset (creg .atbState) 9 9 1).logRec { cls := .ce, unit := 8, code := .rule 56 0 }) s

end Sys2Proof.Machine
end

