-- ==== Sys2Proof/Machine/BootOps.lean ====
section
/-!
DEFINITION. Signed objects (R485-R487), boot and recovery (R488-R492), the reset and power pins (R525-R538), and self-tests
(R482-R484).
-/
namespace Sys2Proof.Machine

/-! ## Signed objects (R485, R486) -/

/-- The first condition of R486 that an object of a TYPE breaks, as a stop: 1 for the signatures, digest, keys and fixed
fields, 6 for the stepping. -/
def objectBad (type : Nat) (b : Bytes) : Option Nat :=
  let plen := fld b 12 4
  let payload := slice b 5440 plen
  let head := slice b 0 2064
  let ed := slice b 80 32
  let pq := slice b 112 1952
  if b.length < 5440 + plen ∨ fld b 0 4 ≠ 0x53494345 ∨ fld b 4 2 ≠ 1 ∨ fld b 6 2 ≠ type ∨ plen % 64 ≠ 0 ∨ !allZero b 21 11 ∨ !allZero b 5437 3 then some 1
  else if fld b 20 1 ≠ 0xB1 then some 6
  else if slice b 32 48 ≠ hash48 payload ∨ Config.sha384 ed ≠ Config.romHash false ∨ Config.sha384 pq ≠ Config.romHash true
       ∨ !Config.edVerify ed head (slice b 2064 64) ∨ !Config.pqVerify pq head (slice b 2128 3309) then some 1
  else none

/-- What an object's header and payload say of an image. -/
def objectImage (b : Bytes) : FwImage :=
  let p := slice b 5440 (fld b 12 4)
  { version := fld b 16 4, rollback := fld b 8 4, hash := Config.sha384 p, format := Config.imageFormat p }

/-- The board description of an object. -/
def objectBoard (b : Bytes) : Board :=
  let p := slice b 5440 (fld b 12 4)
  { Config.boardOf p with hash := Config.sha384 p, version := fld b 16 4, rollback := fld b 8 4 }

/-- The anti-rollback counter that governs a KIND (R492). -/
def State.counterOf (s : State) (kind : Nat) : Nat := if kind = 3 then s.boot.bdcnt else s.boot.fwcnt

/-- The reply of IMAGE_VERIFY (R455). -/
def verifyReply (b : Bytes) : Bytes := slice b 16 4 ++ slice b 8 4 ++ slice b 32 48

/-- IMAGE_VERIFY: a Fenen or M0 image is held for MOULT_START, a board description written to the flash. -/
def imageVerify (buffer : Bytes) (m : Msg) (s : State) : State :=
  let kind := fld m.payload 0 1
  let b := slice buffer 0 (fld m.payload 16 4)
  if (objectBad kind b).isSome then s.reply m stVerifyFailed
  else if fld b 8 4 < s.counterOf kind then s.reply m stRollback
  else
    let c := s.cores
    let c : Cores := if kind = 1 then { c with heldFenen := some (objectImage b) }
      else if kind = 2 then { c with heldM0 := some (objectImage b) }
      else { c with flashBoard := some (objectBoard b) }
    State.reply { s with cores := c } m stOk 0 (verifyReply b)

def execImageVerify (slot : SlotId) (buffer : Bytes) (s : State) : Res := message 0x0801 slot (imageVerify buffer) s

/-! ## Boot (R488-R492, R535, R536) -/

/-- Boot stops with a reason: in the recovery state, but after reasons 3 and 4 (R489, R490). -/
def State.bootStop (s : State) (reason : Nat) (detail : BitVec 32) : State :=
  let s := s.fset (creg .secStatus) 15 8 reason
  { s with boot := { s.boot with running := false, recovery := decide (reason ≠ 3 ∧ reason ≠ 4), detail := detail } }

/-- The stop reasons of a stage; 6 is a stepping mismatch in its object. -/
def stageReasons (n : Nat) : List Nat :=
  match n with
  | 1 => [3] | 2 => [4] | 3 => [1, 2, 6] | 5 => [5, 2, 6] | 6 => [7] | 7 => [8] | 8 => [9] | 9 => [11] | 10 => [13] | 11 => [10] | 12 => [12, 2, 6]
  | _ => []

/-- The objects that boot uses: those supplied for this boot, or the flash's. -/
def State.bootM0 (s : State) : FwImage := s.boot.memM0.getD s.cores.flashM0
def State.bootFenen (s : State) : FwImage := s.boot.memFenen.getD s.cores.flashFenen
def State.bootBoard (s : State) : Option Board := match s.boot.memBoard with | some b => some b | none => s.cores.flashBoard

/-- A port under R267-R269. -/
def PortCfg.ok (p : PortCfg) : Bool :=
  (p.width == 1 || p.width == 2 || p.width == 4) && decide (p.first < 24 ∧ p.first % 6 % p.width = 0 ∧ p.first % 6 + p.width ≤ 6 ∧ p.rate ≤ 1)
  && match p.role with
    | 1 => decide (p.index < 16) && !(p.width == 1 && p.rate == 0)
    | 2 => decide (p.index < 7) && p.width == 1 && p.rate == 1
    | 3 => p.index == 0 && !(p.width == 1 && p.rate == 0)
    | _ => false

/-- Set-point ranges in mV (R522). -/
def railRanges : List (Nat × Nat) :=
  [(700, 850), (750, 900), (700, 800), (700, 800), (1140, 1260), (1050, 1260), (1710, 1890), (850, 950), (1140, 1260), (700, 800), (700, 800), (850, 950), (1710, 1890)]

/-- The content rules of stage 6 (R267, R268, R364, R523). -/
def Board.ok (b : Board) : Bool :=
  b.ports.all PortCfg.ok && noRepeats (b.ports.flatMap fun p => (List.range p.width).map (p.first + ·))
  && noRepeats (b.ports.map fun p => 16 * p.role + p.index)
  && b.members.getLsbD b.chip.val && b.members.getLsbD b.leader.val && noRepeats (b.clinks.map (·.2.2))
  && (List.range 8).all (fun n => !b.members.getLsbD n || n == b.chip.val || b.clinks.any fun c => c.2.2 == n)
  && b.clinks.all (fun c => decide (c.2.2 < 8 ∧ c.2.2 ≠ b.chip.val ∧ c.2.1 ≤ 32) && b.members.getLsbD c.2.2)
  && b.rails.length == 13 && b.railBoot.length == 13 && b.railAddr.length == 13 && noRepeats b.railAddr
  && ((b.rails.zip railRanges) ++ (b.railBoot.zip railRanges)).all fun x => decide (x.2.1 ≤ x.1 ∧ x.1 ≤ x.2.2)

/-- FHP_CFG of a port (R288). -/
def PortCfg.reg (p : PortCfg) : W64 := fields [(0, p.role), (3, p.rate), (4, p.width), (8, p.first), (16, p.index)]

/-- The queues that a port has from boot on (R306, R390); q255's quantum is a choice (log entry 50). -/
def State.bootQueues (s : State) (p : PortCfg) : State :=
  let q (s : State) (n quantum : Nat) : State := s.setQueue p.first n quantum false true
  if p.role = 1 then q (q s 192 1518) 255 1518 else if p.role = 3 then q (q s 0 9216) 1 9216 else s

/-- M0 loads the board description (R44, R266, R288, R345, R364, R508, R522, R528). -/
def State.loadBoard (s : State) (b : Board) : State :=
  let s : State := { s with board := b }
  let s := (List.range 24).foldl (fun (s : State) l => s.rset ⟨.fhpCfg, l, 0⟩ (fields [(3, b.rates.getD l 0)])) s
  let s := b.ports.foldl (fun (s : State) p =>
    ((List.range p.width).foldl (fun (s : State) i => s.rset ⟨.fhpCfg, p.first + i, 0⟩ p.reg) s).bootQueues p) s
  let s := ((List.range 16).zip b.tscorr).foldl (fun (s : State) x => s.rset ⟨.atbTscorr, 0, x.1⟩ (fields [(0, x.2.1), (16, x.2.2)])) s
  let s := ((List.range 7).zip b.clinks).foldl (fun (s : State) x =>
    (s.rset (creg .fabClink x.1) (fields [(0, x.2.1), (16, x.2.2.1), (24, x.2.2.2)])).fset (creg .fabPeer x.2.2.2) 10 8 x.1) s
  let s := (List.range 8).foldl (fun (s : State) n => s.fset (creg .fabPeer n) 0 0 (b.members.getLsbD n).toNat) s
  let s := ((s.fset (creg .tenTherm) 7 0 b.tjThr).fset (creg .tenTherm) 15 8 b.tjSusp).fset (creg .tenTherm) 23 16 b.tjShed
  let s := (s.fset (creg .pkgClk) 1 0 b.osc).fset (creg .pciStatus) 22 16 b.bar4 |>.refreshQl
  ((List.range 13).zip b.rails).foldl (fun (s : State) x => s.fset (creg .pkgRail x.1) 15 0 x.2) s

/-- The default tile map with the failed tiles replaced (R20), or the failed tile that finds no spare. -/
def repairMap (failed : List Nat) : Nat ⊕ (Vector PTile 64 × List Nat) :=
  (failed.filter fun p => !defaultSpares.contains p).foldl (fun (x : Nat ⊕ (Vector PTile 64 × List Nat)) p => match x with
    | .inl e => .inl e
    | .inr (m, free) => match free with
      | [] => .inl p
      | q :: rest => .inr (m.map fun t => if t.val = p then fin 68 q else t, rest)) (.inr (defaultMap, defaultSpares.filter fun q => !failed.contains q))

/-- The failed physical tiles of the factory repair map, ascending. -/
def State.failedTiles (s : State) : List Nat := (List.range 68).filter fun p => (s.pads.get (fin 68 p)).stat == .failed

/-- A stage that cannot pass: its reason and detail. -/
def State.stageBad (s : State) (n : Nat) : Option (Nat × BitVec 32) :=
  match n with
  | 3 => if s.bootM0.rollback < s.boot.fwcnt then some (2, 0) else none
  | 5 => match s.bootBoard with
    | none => some (5, 0)
    | some b => if b.rollback < s.boot.bdcnt then some (2, 0) else none
  | 6 => if s.board.ok then none else some (7, 0)
  | 10 => match repairMap s.failedTiles with
    | .inl p => some (13, BitVec.ofNat 32 p)
    | .inr _ => none
  | 12 => if s.bootFenen.rollback < s.boot.fwcnt then some (2, 0) else none
  | _ => none

/-- What a stage waits for: MAIN_PWROK in stage 8, ATB lock in stage 13. -/
def State.stageWaits (s : State) (n : Nat) : Bool :=
  (n == 8 && !bit (s.rget (creg .pkgStatus)) 1) || (n == 13 && s.servoState != stLocked)

/-- ENV_OK set, with its CE record and count when it changes (R538). -/
def State.setEnv (s : State) (ok : Bool) : State :=
  let was := bit (s.rget (creg .tenTherm)) 32
  if was = ok then s
  else
    let s := s.fset (creg .tenTherm) 32 32 ok.toNat
    let s := if ok then s else s.finc (creg .pkgStat) 47 32
    s.logRec { cls := .ce, unit := 13, code := .rule 538 1 }

/-- The effect of a stage's work. -/
def State.stageWork (s : State) (n : Nat) : State :=
  match n with
  | 2 => s.fset (creg .secStatus) 17 17 1
  | 4 =>
    let h := ((s.bootBoard).map (·.hash)).getD 0
    let s := s.fset (creg .secStatus) 18 18 1
    { s with
      cores := { s.cores with m0 := s.bootM0, m0Up := true }
      spdm := { s.spdm with pcie := {}, i3c := {} }
      boot := { s.boot with aliasOf := (s.bootM0.hash, h) }
      time := { s.time with src := { s.time.src with paused := false, lastAnnounce := s.now, lastSample := s.now, lastEsmc := s.now } } }
  | 5 => match s.bootBoard with
    | some b => ({ s with boot := { s.boot with bdcnt := Nat.max s.boot.bdcnt b.rollback } } : State).loadBoard b
    | none => s
  | 7 =>
    let s := (s.fset (creg .pkgClk) 2 2 1).fset (creg .pkgStatus) 2 2 1
    { s with boot := { s.boot with enAt := some s.now } }
  | 9 => ((s.fset (creg .pkgCool) 33 32 3).setEnv true)
  | 10 => match repairMap s.failedTiles with
    | .inr (m, free) =>
      { s with tileMap := m, pads := Vector.ofFn fun (p : Fin 68) =>
          let x := s.pads.get p
          if x.stat = .failed then x else { x with stat := if free.contains p.val then .spare else .service } }
    | .inl _ => s
  | 12 =>
    { s with cores := { s.cores with image := Vector.replicate 8 s.bootFenen, beatAt := Vector.replicate 8 s.now } }
  | 13 => match s.boot.memBoard with
    | some b => { s with cores := { s.cores with flashBoard := some b } }
    | none => s
  | _ => s

/-- BOOT_STAGE_COMPLETE: the stage under way passes or fails. -/
def stageComplete (pass : Bool) (reason : Nat) (detail : BitVec 32) (s : State) : State :=
  let n := s.stage + 1
  let l := stageReasons n
  if !pass then (if l = [] then s else s.bootStop (if l.contains reason then reason else l.headD 0) detail)
  else if s.stageWaits n then s
  else match s.stageBad n with
    | some (r, d) => s.bootStop r d
    | none =>
      let s := (s.stageWork n).fset (creg .secStatus) 3 0 n
      if n = 13 then { s with boot := { s.boot with running := false } } else s

def execBootStageComplete (pass : Bool) (reason : Nat) (detail : BitVec 32) (s : State) : Res :=
  guarded (s.boot.running && !s.boot.held && decide (s.stage < 13)) (stageComplete pass reason detail) s

/-- BOOT_MILESTONE_MISSED (R535): a milestone missed by 10 % stops boot with its stage's reason; stage 13 waits (R536). -/
def milestoneMissed (detail : BitVec 32) (s : State) : State :=
  let n := s.stage + 1
  if n = 13 then s
  else if n = 8 ∧ !bit (s.rget (creg .pkgStatus)) 1 then s.bootStop 9 0xFFFFFFFF
  else s.bootStop ((stageReasons n).headD 1) detail

def execBootMilestoneMissed (detail : BitVec 32) (s : State) : Res := guarded (s.boot.running && !s.boot.held) (milestoneMissed detail) s

/-- The stage that uses an object's KIND. -/
def kindStage (kind : Nat) : Nat := if kind = 1 then 12 else if kind = 2 then 3 else 5

/-- RECOVERY_IMAGE (R489): an accepted object replaces the one of its kind, and boot restarts from the stage that uses it.
An object that a stage after the stop uses is refused (log entry 51). With a new M0 image M0 restarts: stage 4 starts it, with its SPDM
connections reset (R500). -/
def recoveryImage (buffer : Bytes) (m : Msg) (s : State) : State :=
  let kind := fld m.payload 0 1
  let b := slice buffer 0 (fld m.payload 16 4)
  if !s.boot.recovery ∨ s.stage + 1 < kindStage kind then s.reply m stBadState
  else if (objectBad kind b).isSome then s.reply m stVerifyFailed
  else if fld b 8 4 < s.counterOf kind then s.reply m stRollback
  else
    let o := s.boot
    let o : Boot := if kind = 1 then { o with memFenen := some (objectImage b) }
      else if kind = 2 then { o with memM0 := some (objectImage b) }
      else { o with memBoard := some (objectBoard b) }
    let s : State := { s with
      boot := { o with recovery := false, running := true, detail := 0 }
      cores := { s.cores with m0Up := s.cores.m0Up && decide (kind ≠ 2) } }
    let s := ((s.fset (creg .secStatus) 16 16 1).fset (creg .secStatus) 15 8 0).fset (creg .secStatus) 3 0 (kindStage kind - 1)
    s.reply m stOk 0 (verifyReply b)

def execRecoveryImage (slot : SlotId) (buffer : Bytes) (s : State) : Res := message 0x0802 slot (recoveryImage buffer) s

/-! ## Reset and power pins (R525, R527, R532-R534) -/

/-- The part in reset (R534): the board flash with its counters and repair maps survives (log entry 52). -/
def State.porst (s : State) : State :=
  { State.reset with
    pads := Vector.ofFn fun (p : Fin 68) =>
      let x := s.pads.get p
      { repair := x.repair, stat := if x.stat = .failed then .failed else if defaultSpares.contains p.val then .spare else .service }
    mem := { chans := s.mem.chans.map fun c => { repaired := c.repaired, sparesUsed := c.repaired.length } }
    cores := { flashFenen := s.cores.flashFenen, flashM0 := s.cores.flashM0, flashBoard := s.cores.flashBoard }
    boot := { fwcnt := s.boot.fwcnt, bdcnt := s.boot.bdcnt }
    out := s.out, freeCount := s.freeCount, pending := s.pending }

def execPorstAssert (s : State) : Res := .next s.porst

def execMgmtPwrokLow (s : State) : Res := .next (s.porst.fset (creg .pkgStatus) 0 0 0)

/-- PORST_RELEASE (R532): the rising edge starts the boot ROM; MGMT_PWROK and MCLK are there before it (R535). -/
def porstRelease (s : State) : State :=
  let s := (s.fset (creg .pkgStatus) 0 0 1).fset (creg .pkgClk) 3 3 1
  { s with boot := { s.boot with held := false, running := true } }

def execPorstRelease (s : State) : Res := guarded s.boot.held porstRelease s

/-- MAIN_PWROK rises (R525): the compute die and the rim dies leave reset. -/
def execMainPwrokAssert (s : State) : Res :=
  guarded (bit (s.rget (creg .pkgStatus)) 2 && !bit (s.rget (creg .pkgStatus)) 1 && !s.boot.held)
    (fun s => let s := s.fset (creg .pkgStatus) 1 1 1
              { s with boot := { s.boot with dies := false } }) s

/-- A register of the blocks that the always-on group keeps (R522, R527). -/
def keepsPower (n : RegName) : Bool :=
  match n with
  | .secStatus | .secCnt | .secSpdm | .pciStatus | .pciB4base | .pciDbgwin | .pciStat | .pkgStatus | .pkgTemp | .pkgCool | .pkgClk | .pkgStat | .pkgRail => true
  | _ => false

/-- The dies in reset (R527): their state is lost, what M0's island holds is kept; M0 writes a UF record, and MAIN_EN falls. -/
def State.mainDown (s : State) : State :=
  let s := s.ufRec { cls := .uf, unit := 13, code := .rule 527 0 }
  let o := s.porst
  let s : State := { s with
    regs := s.regs.filter fun x => keepsPower x.1.name
    tiles := o.tiles, pads := o.pads, tileMap := o.tileMap, mesh := o.mesh, mem := o.mem, ten := { s.ten with state := .closed, tag := 0x7F }
    ctl := o.ctl, ports := o.ports, radio := o.radio, fab := o.fab, tests := []
    boot := { s.boot with dies := true } }
  s.fset (creg .pkgStatus) 2 2 0

/-- MAIN_PWROK_DEASSERT: it acts while MAIN_EN is asserted. -/
def pwrokDown (s : State) : State :=
  let en := bit (s.rget (creg .pkgStatus)) 2
  let s := s.fset (creg .pkgStatus) 1 1 0
  if en then s.mainDown else s

def execMainPwrokDeassert (s : State) : Res := guarded (bit (s.rget (creg .pkgStatus)) 1) pwrokDown s

/-- THERMTRIP (R533). -/
def execThermtrip (s : State) : Res :=
  guarded (!s.boot.held) (fun s =>
    let en := bit (s.rget (creg .pkgStatus)) 2
    let s := s.fset (creg .pkgStatus) 3 3 1
    if en then s.mainDown else s) s

/-- PLL_LOCK_LOSS (R468). -/
def execPllLockLoss (s : State) : Res :=
  guarded (bit (s.rget (creg .pkgClk)) 2) (fun s => (s.fset (creg .pkgClk) 2 2 0).ufRec { cls := .uf, unit := 8, code := .rule 468 0 }) s

/-! ## Sensors (R482, R526, R537, R538) -/

/-- RAIL_READING (R526): three readings in a row outside ±3 % of the set-point. -/
def railReading (rail : Fin 13) (mv da : BitVec 16) (s : State) : State :=
  let r := creg .pkgRail rail.val
  let set := s.fget r 15 0
  let ok := decide (97 * set ≤ 100 * mv.toNat ∧ 100 * mv.toNat ≤ 103 * set)
  let n := if ok then 0 else tget 0 s.pkg.railBad rail.val + 1
  let s := ((s.fset r 31 16 mv.toNat).fset r 47 32 da.toNat).fset r 48 48 ok.toNat
  let s : State := { s with pkg := { s.pkg with railBad := tset 0 s.pkg.railBad rail.val n } }
  let s := s.fset (creg .pkgStatus) 6 6 (s.pkg.railBad.any fun x => decide (3 ≤ x.2)).toNat
  if n = 3 then
    (s.finc (creg .pkgStat) 15 0).logRec { cls := .uc, unit := 13, code := .rule 526 0, owners := [.management], object := rail.val }
  else s

def execRailReading (rail : Fin 13) (millivolt deciamp : BitVec 16) (s : State) : Res :=
  guarded (s.cores.m0Up && decide (8 ≤ s.stage)) (railReading rail millivolt deciamp) s

/-- The inlet and flow limits (R537), in 0.1 °C and 0.01 L/min. -/
def inletOk (v : Nat) : Bool := decide (150 ≤ v ∧ v ≤ 400)
def flowOkay (v : Nat) : Bool := decide (200 ≤ v)

/-- One sensor read of a pair: the reads missed in a row, and whether the sensor counts as within its limit. -/
def sensorRead (miss : Nat) (was : Bool) (ok : Nat → Bool) (v : Option (BitVec 12)) : Nat × Bool :=
  match v with
  | some x => (0, ok x.toNat)
  | none => (miss + 1, was && decide (miss + 1 < 3))

/-- COOLANT_READING (R538): a sensor that does not answer three times in a row is outside its limit. -/
def coolantReading (inlet flow : Option (BitVec 12)) (s : State) : State :=
  let r := creg .pkgCool
  let i := sensorRead s.pkg.inletMiss (bit (s.rget r) 32) inletOk inlet
  let f := sensorRead s.pkg.flowMiss (bit (s.rget r) 33) flowOkay flow
  let s := match inlet with | some x => s.fset r 11 0 x.toNat | none => s.finc (creg .pkgStat) 31 16
  let s := match flow with | some x => s.fset r 27 16 x.toNat | none => s.finc (creg .pkgStat) 31 16
  let s := ((s.fset r 32 32 i.2.toNat).fset r 33 33 f.2.toNat).fset r 34 34 (decide (3 ≤ i.1 ∨ 3 ≤ f.1)).toNat
  let s : State := { s with pkg := { s.pkg with inletMiss := i.1, flowMiss := f.1 } }
  let s := if i.1 = 3 ∨ f.1 = 3 then
      s.logRec { cls := .uc, unit := 13, code := .rule 538 0, owners := [.management], object := if i.1 = 3 then 0 else 1 } else s
  s.setEnv (i.2 && f.2)

def execCoolantReading (inlet flow : Option (BitVec 12)) (s : State) : Res :=
  guarded (s.cores.m0Up && decide (9 ≤ s.stage)) (coolantReading inlet flow) s

/-- EYE_MARGIN_REPORT (R482). -/
def eyeMargin (lane : Fin 24) (margin : Nat) (s : State) : State :=
  if margin < s.board.eye then s.logRec { cls := .ce, unit := 6, code := .rule 482 0, object := lane.val, limit := some (16, lane.val, 60) } else s

def execEyeMarginReport (lane : Fin 24) (margin : Nat) (s : State) : Res := guarded s.cores.m0Up (eyeMargin lane margin) s

/-! ## Self-tests (R483, R484) -/

/-- Cycles of a kind of test. -/
def testLength (kind : Nat) : Nat := if kind = 1 then 983040 else if kind = 2 then 1966080 else 19660800

/-- A test's number: its target, lanes from 256 up. -/
def testId (kind target : Nat) : Nat := if kind = 3 then 256 + target else target

/-- Whether a pending swap names a physical tile as its spare. -/
def State.swapTarget (s : State) (p : Nat) : Bool :=
  s.ctl.pend.any fun x => x.settings.any fun y => match y with | .tileSwap _ q => decide (q.val = p) | _ => false

/-- SELFTEST: its START is the first memory-frame boundary at or after the take + 16,384 cy. -/
def selfTest (m : Msg) (s : State) : State :=
  let kind := fld m.payload 0 1
  let target := fld m.payload 1 1
  let id := testId kind target
  if kind ≠ 3 ∧ ((s.pads.get (fin 68 target)).stat = .service ∨ s.swapTarget target) then s.reply m stBadState
  else if s.tests.any fun t => decide (t.id = id) then s.reply m stBusy
  else
    let a := m.taken + 16384
    let start := a + BitVec.ofNat 64 ((8192 - s.off a % 8192) % 8192)
    State.reply { s with tests := enq s.tests { id := id, kind := kind, target := target, start := start } } m stOk 0 (leBytes 8 start.toNat)

def execSelftest (slot : SlotId) (s : State) : Res := message 0x0905 slot selfTest s

def execSelftestStart (id : Nat) (s : State) : Res :=
  guarded (s.tests.any fun t => decide (t.id = id ∧ t.start = s.now) && !t.running)
    (fun s => { s with tests := mapIf (fun t => decide (t.id = id)) (fun t => { t with running := true }) s.tests }) s

/-- What a result makes of a physical tile out of service (R484). -/
def PStat.tested (st : PStat) (kind : Nat) (pass : Bool) : PStat :=
  match st with
  | .service => .service
  | .failed => .failed
  | .spare => if pass then .spare else .failed
  | .left a b =>
    if !pass then .failed
    else
      let a := a || kind == 1
      let b := b || kind == 2
      if a && b then .spare else .left a b

/-- SELFTEST_COMPLETE: the result is a record with CODE 0x0601 or 0x0602. -/
def testDone (t : SelfTest) (pass : Bool) (detail : Nat) (s : State) : State :=
  let tile := decide (t.kind ≠ 3)
  let s : State := { s with tests := s.tests.filter fun x => decide (x.id ≠ t.id) }
  let s := if tile then s.modPad (fin 68 t.target) fun p => { p with stat := p.stat.tested t.kind pass } else s
  s.logRec { cls := .ce, unit := 14, code := .num (if pass then 0x0601 else 0x0602), object := t.target, ptile := if tile then t.target else 0xFF, detail := leBytes 4 detail }

/-- A test that has run its length. -/
def State.testOver (s : State) (id : Nat) : Option SelfTest :=
  s.tests.find? fun t => decide (t.id = id ∧ testLength t.kind = (s.now - t.start).toNat) && t.running

def execSelftestComplete (id : Nat) (pass : Bool) (detail : Nat) (s : State) : Res :=
  .next (match s.testOver id with | some t => testDone t pass detail s | none => s)

end Sys2Proof.Machine
end

