-- ==== Sys2Proof/Machine/SpdmOps.lean ====
section
/-!
DEFINITION. Attestation over SPDM (R495-R500), and the keys of IDE streams (R515). The byte layouts of SPDM messages are
those of its standard, which the spec names and does not give (log entry 53).
-/
namespace Sys2Proof.Machine

/-! ## Connections (R496) -/

def State.conn (s : State) (tr : Transport) : Conn := match tr with | .pcie => s.spdm.pcie | .i3c => s.spdm.i3c

def State.setConn (s : State) (tr : Transport) (c : Conn) : State :=
  match tr with
  | .pcie => { s with spdm := { s.spdm with pcie := c } }
  | .i3c => { s with spdm := { s.spdm with i3c := c } }

/-- SPDM error codes. -/
def spdmInvalid : Nat := 0x01
def spdmSession : Nat := 0x02
def spdmUnexpected : Nat := 0x04
def spdmDecrypt : Nat := 0x06
def spdmUnsupported : Nat := 0x07
def spdmLimit : Nat := 0x0A
def spdmLarge : Nat := 0x0F

/-- An ERROR response: counted, and nothing else changes. -/
def State.spdmErr (s : State) (tr : Transport) (code : Nat) : State := (s.finc (creg .secSpdm) 31 16).emit (.spdmError tr code)

/-- A response; one longer than 1,024 bytes waits for CHUNK_GET (R496). -/
def State.spdmSend (s : State) (tr : Transport) (b : Bytes) : State :=
  if b.length ≤ 1024 then s.emit (.spdm tr b)
  else (s.setConn tr { s.conn tr with chunkOut := b, outNext := 0 }).spdmErr tr spdmLarge

/-- A request and its response enter the transcript, and the response is sent. -/
def State.spdmReply (s : State) (tr : Transport) (req resp : Bytes) : State :=
  let c := s.conn tr
  (s.setConn tr { c with transcript := c.transcript ++ req ++ resp }).spdmSend tr resp

/-- The fixed part of a message: its number in the order of R496's list, and its fields. -/
def spdmMsg (n : Nat) (l : List Nat) : Bytes := Config.serial (100 + n) l

/-- A request is served by M0 once negotiation has come as far as `phase`. -/
def spdmAt (phase : Nat) (tr : Transport) (f : State → State) (s : State) : Res :=
  guarded (s.cores.m0Up && !s.boot.recovery) (fun s => if (s.conn tr).phase.val < phase then s.spdmErr tr spdmUnexpected else f s) s

/-- GET_VERSION begins a new connection, its transcript with it. -/
def spdmVersion (tr : Transport) (s : State) : State :=
  (s.setConn tr { phase := 1, transcript := spdmMsg 0 [], sessions := (s.conn tr).sessions }).spdmReply tr [] (spdmMsg 1 [0x13])

def execSpdmGetVersion (tr : Transport) (s : State) : Res := spdmAt 0 tr (spdmVersion tr) s

/-- CAPABILITIES: CERT, CHAL, MEAS with signature, MEAS_FRESH, KEY_EX, ENCRYPT, MAC, HBEAT, KEY_UPD, CHUNK; 1,024 bytes. -/
def spdmCapabilities (tr : Transport) (s : State) : State :=
  (s.setConn tr { s.conn tr with phase := 2 }).spdmReply tr (spdmMsg 2 []) (spdmMsg 3 [1, 1, 2, 1, 1, 1, 1, 1, 1, 1, 1024])

def execSpdmGetCapabilities (tr : Transport) (s : State) : Res := spdmAt 1 tr (spdmCapabilities tr) s

/-- ALGORITHMS: Ed25519, SHA-384, secp384r1, AES-256-GCM; `offered` where the requester offers them. -/
def spdmAlgorithms (tr : Transport) (offered : Bool) (s : State) : State :=
  if !offered then s.spdmErr tr spdmUnsupported
  else (s.setConn tr { s.conn tr with phase := 3 }).spdmReply tr (spdmMsg 4 []) (spdmMsg 5 [1, 2, 3, 4])

def execSpdmNegotiateAlgorithms (tr : Transport) (offered : Bool) (s : State) : Res := spdmAt 2 tr (spdmAlgorithms tr offered) s

/-! ## Certificates (R495, R498) -/

/-- A chain of the part: Ed25519 (false) or ML-DSA-65 (true). -/
def State.chain (s : State) (pq : Bool) : Bytes := Config.chain pq s.board.serial 0xB1 s.boot.aliasOf.1 s.boot.aliasOf.2

def execSpdmGetDigests (tr : Transport) (s : State) : Res :=
  spdmAt 3 tr (fun s => s.spdmReply tr (spdmMsg 6 []) (spdmMsg 7 [] ++ hash48 (s.chain false))) s

/-- GET_CERTIFICATE: slot 0 holds the Ed25519 chain. -/
def spdmCertificate (tr : Transport) (slot off len : Nat) (s : State) : State :=
  let b := s.chain false
  if slot ≠ 0 then s.spdmErr tr spdmUnsupported
  else if b.length ≤ off then s.spdmErr tr spdmInvalid
  else
    let n := Nat.min len (b.length - off)
    s.spdmReply tr (spdmMsg 8 [slot, off, len]) (spdmMsg 9 [n, b.length - off - n] ++ slice b off n)

def execSpdmGetCertificate (tr : Transport) (slot offset length : Nat) (s : State) : Res := spdmAt 3 tr (spdmCertificate tr slot offset length) s

/-- GET_PQ_DIGEST (R498). -/
def execGetPqDigest (tr : Transport) (s : State) : Res := spdmAt 3 tr (fun s => s.spdmSend tr (spdmMsg 26 [1] ++ hash48 (s.chain true))) s

/-- GET_PQ_CERT (R498): bytes of the ML-DSA-65 chain, and how many follow them. -/
def pqCert (tr : Transport) (off len : Nat) (s : State) : State :=
  let b := s.chain true
  if 1000 < len ∨ b.length < off + len then s.spdmErr tr spdmInvalid
  else s.spdmSend tr (spdmMsg 26 [2] ++ slice b off len ++ leBytes 4 (b.length - off - len))

def execGetPqCert (tr : Transport) (offset length : Nat) (s : State) : Res := spdmAt 3 tr (pqCert tr offset length) s

/-! ## Signed responses (R497) -/

/-- The Ecvinik dual-signature record over a message, and the Ed25519 signature that covers it too. -/
def dualSigned (m : Bytes) : Bytes :=
  let r := leBytes 1 0x01 ++ leBytes 2 3309 ++ padTo 3309 (Config.signPq m)
  r ++ padTo 64 (Config.signEd (m ++ r))

/-- 32 bytes of the device random generator. -/
def State.random (s : State) : Bytes × State := let d := s.draw; (toBytes (Config.freeBits 256 d.1) 32, d.2)

/-- A signed response: the transcript, the request and the response are signed; the transcript then starts anew from here. -/
def State.spdmSigned (s : State) (tr : Transport) (req resp : Bytes) : State :=
  let m := (s.conn tr).transcript ++ req ++ resp
  s.spdmReply tr req (resp ++ dualSigned m)

/-- CHALLENGE. -/
def spdmChallenge (tr : Transport) (nonce : BitVec 256) (s : State) : State :=
  let r := s.random
  r.2.spdmSigned tr (spdmMsg 10 [nonce.toNat]) (spdmMsg 11 [] ++ hash48 (s.chain false) ++ r.1)

def execSpdmChallenge (tr : Transport) (nonce : BitVec 256) (s : State) : Res := spdmAt 3 tr (spdmChallenge tr nonce) s

/-! ## Measurements (R499, R500, R502) -/

/-- Index 12: in the cycle of a commit, the configuration before it. -/
def State.cfgMeasured (s : State) : BitVec 384 × W64 := if s.spdm.cfg.2 = s.now then s.spdm.was else s.spdm.cfg

/-- A digest, most significant byte first as SHA-384 has it. -/
def digest48 (d : BitVec 384) : Bytes := toBytes d 48

/-- The HASH of each committed radio image, in slice order. -/
def State.imageHashes (s : State) : Bytes := (List.finRange 64).flatMap fun n => ((s.ctl.slices.get n).image.map (·.hash)).getD []

/-- Index 14. -/
def State.tenantBlock (s : State) : Bytes :=
  if s.ten.state = .closed then List.replicate 56 0
  else leBytes 1 s.ten.tag ++ leBytes 1 s.ten.state.code ++ leBytes 1 s.ten.ordered.toNat ++ leBytes 5 0 ++ padTo 48 (s.ten.image.elim [] (·.hash))

/-- The content of a measurement block. -/
def State.measure (s : State) (i : Nat) : Bytes :=
  if i = 1 then digest48 Config.bootRom
  else if i = 2 then digest48 s.cores.m0.hash
  else if i ≤ 10 then digest48 (s.cores.image.get (fin 8 (i - 3))).hash
  else if i = 11 then digest48 s.board.hash
  else if i = 12 then digest48 s.cfgMeasured.1 ++ leBytes 8 s.cfgMeasured.2.toNat
  else if i = 13 then digest48 (Config.sha384 s.imageHashes)
  else if i = 14 then s.tenantBlock
  else if i = 15 then (match s.ten.wrap with | some n => padTo 1216 (Config.wrapPublic n) | none => List.replicate 1216 0)
  else if i = 16 then leBytes 8 s.debugState
  else toBytes s.ctlStatus 8

/-- A measurement block: index, form, content. -/
def State.block (s : State) (i : Nat) : Bytes :=
  let b := s.measure i
  spdmMsg 30 [i, (decide (i ≤ 13)).toNat, b.length] ++ b

/-- GET_MEASUREMENTS: index 0 asks how many blocks there are, 255 for all, of one cycle. -/
def spdmMeasurements (tr : Transport) (nonce : BitVec 256) (index : Nat) (signed : Bool) (s : State) : State :=
  if 17 < index ∧ index ≠ 255 then s.spdmErr tr spdmInvalid
  else
    let l := if index = 0 then [] else if index = 255 then (List.range 17).map (· + 1) else [index]
    let r := s.random
    let req := spdmMsg 12 [nonce.toNat, index, signed.toNat]
    let resp := spdmMsg 13 [17, l.length] ++ l.flatMap s.block ++ r.1
    if signed then (r.2.finc (creg .secSpdm) 15 0).spdmSigned tr req resp else r.2.spdmReply tr req resp

def execSpdmGetMeasurements (tr : Transport) (nonce : BitVec 256) (index : Nat) (signed : Bool) (s : State) : Res :=
  spdmAt 3 tr (spdmMeasurements tr nonce index signed) s

/-! ## Sessions (R496) -/

def State.session (s : State) (tr : Transport) (n : Fin 2) : Option Session := (s.conn tr).sessions.get n

def State.setSession (s : State) (tr : Transport) (n : Fin 2) (x : Option Session) : State :=
  let c := s.conn tr
  s.setConn tr { c with sessions := c.sessions.set n x }

/-- KEY_EXCHANGE: a free session gets the key of the exchange and the transcript. -/
def spdmKeyExchange (tr : Transport) (exchange : Bytes) (s : State) : State :=
  match (List.finRange 2).find? fun n => (s.session tr n).isNone with
  | none => s.spdmErr tr spdmLimit
  | some n =>
    let req := spdmMsg 14 [] ++ exchange
    let resp := spdmMsg 15 [n.val] ++ Config.exchangeData s.spdm.count
    let key := Config.hkdf ((s.conn tr).transcript ++ req ++ resp) (Config.ecdhe exchange) [] 48
    let s : State := { s with spdm := { s.spdm with count := s.spdm.count + 1 } }
    (s.setSession tr n (some { key := key })).spdmSigned tr req resp

def execSpdmKeyExchange (tr : Transport) (exchange : Bytes) (s : State) : Res := spdmAt 3 tr (spdmKeyExchange tr exchange) s

/-- FINISH: the verify data of the requester completes the session. -/
def spdmFinish (tr : Transport) (n : Fin 2) (verify : Bytes) (s : State) : State :=
  match s.session tr n with
  | some x =>
    if x.established then s.spdmErr tr spdmUnexpected
    else if Config.hmac x.key (s.conn tr).transcript = verify then
      (s.setSession tr n (some { x with established := true })).spdmReply tr (spdmMsg 16 [n.val] ++ verify) (spdmMsg 17 [n.val])
    else (s.setSession tr n none).spdmErr tr spdmDecrypt
  | none => s.spdmErr tr spdmSession

def execSpdmFinish (tr : Transport) (session : Fin 2) (verify : Bytes) (s : State) : Res := spdmAt 3 tr (spdmFinish tr session verify) s

/-- A request inside an established session. -/
def inSession (tr : Transport) (n : Fin 2) (f : Session → State → State) (s : State) : Res :=
  spdmAt 3 tr (fun s => match s.session tr n with
    | some x => if x.established then f x s else s.spdmErr tr spdmSession
    | none => s.spdmErr tr spdmSession) s

def execSpdmHeartbeat (tr : Transport) (session : Fin 2) (s : State) : Res :=
  inSession tr session (fun _ s => s.spdmSend tr (spdmMsg 19 [session.val])) s

/-- KEY_UPDATE: the session's next key follows from the present one. -/
def execSpdmKeyUpdate (tr : Transport) (session : Fin 2) (s : State) : Res :=
  inSession tr session (fun x s => (s.setSession tr session (some { x with key := Config.hkdf [] x.key (spdmMsg 20 []) 48 })).spdmSend tr (spdmMsg 21 [session.val])) s

def execSpdmEndSession (tr : Transport) (session : Fin 2) (s : State) : Res :=
  inSession tr session (fun _ s => (s.setSession tr session none).spdmSend tr (spdmMsg 23 [session.val])) s

/-! ## Large messages and unsupported requests (R496) -/

/-- CHUNK_SEND: the next part of a large request; a part out of order ends it. The request itself comes as its own command. -/
def spdmChunkSend (tr : Transport) (seq : Nat) (last : Bool) (b : Bytes) (s : State) : State :=
  let c := s.conn tr
  if seq ≠ c.inNext then (s.setConn tr { c with chunkIn := [], inNext := 0 }).spdmErr tr spdmInvalid
  else
    let c : Conn := if last then { c with chunkIn := [], inNext := 0 } else { c with chunkIn := c.chunkIn ++ b, inNext := seq + 1 }
    (s.setConn tr c).spdmSend tr (spdmMsg 25 [seq, last.toNat])

def execSpdmChunkSend (tr : Transport) (seq : Nat) (last : Bool) (bytes : Bytes) (s : State) : Res := spdmAt 2 tr (spdmChunkSend tr seq last bytes) s

/-- CHUNK_GET: the next part of a large response. -/
def spdmChunkGet (tr : Transport) (seq : Nat) (s : State) : State :=
  let c := s.conn tr
  if c.chunkOut = [] ∨ seq ≠ c.outNext then s.spdmErr tr spdmInvalid
  else
    let d := c.chunkOut.take 1000
    let rest := c.chunkOut.drop 1000
    (s.setConn tr { c with chunkOut := rest, outNext := if rest = [] then 0 else seq + 1 }).emit (.spdm tr (spdmMsg 24 [seq, rest.length] ++ d))

def execSpdmChunkGet (tr : Transport) (seq : Nat) (s : State) : Res := spdmAt 2 tr (spdmChunkGet tr seq) s

def execSpdmUnsupportedRequest (tr : Transport) (_code : Byte) (s : State) : Res := spdmAt 0 tr (fun s => s.spdmErr tr spdmUnsupported) s

/-! ## IDE (R515) -/

def State.setIde (s : State) (n : Fin 4) (x : Ide) : State := { s with pci := { s.pci with ide := s.pci.ide.set n x } }

/-- IDE_KM inside an established session: a key and its range, and the stream's start and stop. -/
def ideKm (tr : Transport) (n : Fin 4) (op : IdeKm) (s : State) : State :=
  if !(List.finRange 2).any (fun k => (s.session tr k).any (·.established)) then s.spdmErr tr spdmUnsupported
  else
    let x := s.pci.ide.get n
    let y : Ide := match op with
      | .program key base limit => { x with key := key, base := base, limit := limit }
      | .start => { x with on := true }
      | .stop => { x with on := false }
    (s.setIde n y).spdmSend tr (spdmMsg 27 [n.val])

def execIdeKmRequest (tr : Transport) (stream : Fin 4) (op : IdeKm) (s : State) : Res := spdmAt 3 tr (ideKm tr stream op) s

/-- IDE_UNPROTECTED_TLP: it is dropped and counted. -/
def execIdeUnprotectedTlp (stream : Fin 4) (s : State) : Res :=
  guarded (s.pci.ide.get stream).on
    (fun s => (s.finc (creg .pciStat) 31 16).logRec { cls := .ce, unit := 13, code := .rule 515 0, object := stream.val, limit := perX 17 stream.val }) s

end Sys2Proof.Machine
end

