-- ==== Sys2Proof/Machine/PcieOps.lean ====
section
/-!
DEFINITION. The PCIe attachment: its resets, its link, interrupts unmasked, errors of the part's own requests, and
translation invalidation (R448, R505, R506, R512-R516).
-/
namespace Sys2Proof.Machine

/-! ## Resets (R516) -/

/-- Events formed while the function cannot write are discarded and counted in their ring's LOST. -/
def State.dropEvents (s : State) : State :=
  let s := s.mbx.events.foldl (fun (s : State) e => s.modRing e.owner fun r => { r with lost := Nat.min 0xFFFF (r.lost + 1) }) s
  { s with mbx := { s.mbx with events := [] } }

/-- PF0 FLR: the MSI-X table and the translation cache are reset, armed slots released; kept SEQ values stay. -/
def State.flr0 (s : State) : State :=
  let s := (List.finRange 256).foldl (fun (s : State) n => if (s.slot (.pf0 n)).armed.isSome then
    s.modSlot (.pf0 n) fun x => { x with hdr := putBit x.hdr 32 false, armed := none } else s) s
  let s : State := { s with pci := { s.pci with masked := BitVec.allOnes 2048, pend := 0, ats := [] } }
  s.dropEvents

/-- PF1 FLR: the SPDM connections are reset; M0 keeps running. -/
def State.flr1 (s : State) : State := { s with spdm := { s.spdm with pcie := {}, i3c := {} }, pci := { s.pci with msi := 1 } }

def execPf0Flr (s : State) : Res := guarded (!s.boot.held) (·.flr0) s
def execPf1Flr (s : State) : Res := guarded (!s.boot.held) (·.flr1) s

/-- PCIE_LINK_DOWN, and PERST# which acts as one (R532): both rows apply, and the link shows as down. -/
def State.pcieDown (s : State) : State := (s.flr0.flr1).fset (creg .pciStatus) 8 0 0

def execPcieLinkDown (s : State) : Res := guarded (!s.boot.held) (·.pcieDown) s
def execPerstAssert (s : State) : Res := guarded (!s.boot.held) (·.pcieDown) s

/-- BUS_MASTER_DISABLE has the effect of the PF0 FLR on replies and events only. -/
def execBusMasterDisable (s : State) : Res := guarded (!s.boot.held) (·.dropEvents) s

/-- PCIE_LINK_RETRAIN (R505): PCI_STATUS shows what was trained; each retrain is counted and recorded. A link that trains shows
the PCIe reference as present (R528, R539; log entry 111). -/
def pcieRetrain (speed : Fin 7) (width : Fin 17) (flit : Bool) (s : State) : State :=
  let r := creg .pciStatus
  let s := (((s.fset r 2 0 speed).fset r 7 3 width).fset r 8 8 flit.toNat).fset (creg .pkgClk) 8 8 1
  (s.finc (creg .pciStat) 47 32).logRec { cls := .ce, unit := 13, code := .rule 505 0 }

def execPcieLinkRetrain (speed : Fin 7) (width : Fin 17) (flit : Bool) (s : State) : Res :=
  guarded (!s.boot.held && speed != 0 && [1, 2, 4, 8, 16].contains width.val) (pcieRetrain speed width flit) s

/-- MSIX_UNMASK (R514): a message that waited is sent. -/
def msixUnmask (v : Fin 2048) (s : State) : State :=
  let p := bit s.pci.pend v.val
  let s : State := { s with pci := { s.pci with masked := putBit s.pci.masked v.val false, pend := putBit s.pci.pend v.val false } }
  if p then s.emit (.msix v.val) else s

def execMsixUnmask (vector : Fin 2048) (s : State) : Res := guarded (!s.boot.held) (msixUnmask vector) s

/-! ## Errors of the part's requests (R448, R512) -/

/-- A reply or event write that failed (R448, code 0x0403). -/
def State.writeFailed (s : State) (own : Owner) (object : Nat) : State :=
  (s.finc (creg .mbxStat) 47 32).logRec { cls := .ce, unit := 11, code := .num 0x0403, owners := [own], object := object, limit := perX 18 object }

/-- The message of a slot that executes or is answered later. -/
def State.msgOf (s : State) (i : SlotId) : Option Msg :=
  match s.mbx.waiting.find? fun w => decide (w.1.slot = i) with
  | some w => some w.1
  | none => s.mbx.taken.find? fun m => decide (m.slot = i)

/-- A message answered before it has executed. -/
def State.endMsg (s : State) (m : Msg) (status : Nat) : State :=
  State.reply { s with mbx := { s.mbx with taken := s.mbx.taken.filter fun x => decide (x ≠ m) } } m status

/-- A host request of a message failed (R512). -/
def messageError (i : SlotId) (s : State) : State :=
  match s.msgOf i with
  | none => s
  | some m =>
    let op := m.opcode
    if op = 0x0305 ∨ op = 0x0503 ∨ op = 0x0606 ∨ op = 0x0801 ∨ op = 0x0802 then s.endMsg m stVerifyFailed
    else if op = 0x0308 then s.endMsg m stAborted
    else if op = 0x0507 then (if s.ten.sealing.isSome then s.sealEnd stNoResource else s.endMsg m stNoResource)
    else if op = 0x0508 then (if s.ten.unsealing.isSome then s.unsealEnd true stUnsealFailed else s.endMsg m stUnsealFailed)
    else if op = 0x0502 then
      State.writeFailed { s with mbx := { s.mbx with lostReports := enq s.mbx.lostReports i } } m.sender.owner (slotKey i)
    else s

/-- A request of the host that the part does not support ends with UR and changes nothing else (R3, R506; the closest case of
R481, code 0x04FF). -/
def State.hostUnsupported (s : State) : State :=
  (s.logRec { cls := .ce, unit := 13, code := .num 0x04FF, limit := perX 21 0 }).emit .hostUr

/-- HOST_REQUEST_ERROR: counted in HOSTERR, and its request's end. -/
def requestError (r : HostReq) (s : State) : State :=
  let n := s.finc (creg .pciStat) 63 48
  match r with
  | .unsupported => s.hostUnsupported
  | .reply i => n.writeFailed (match s.slotOwner i with | some o => o.owner | none => .management) (slotKey i)
  | .event o => n.writeFailed (if h : o.val < 64 then .slice ⟨o.val, h⟩ else .tenant) (1024 + o.val)
  | .message i => messageError i n

def execHostRequestError (r : HostReq) (_e : HostError) (s : State) : Res := guarded (!s.boot.held) (requestError r) s

/-- HOST_COMPLETION_TIMEOUT: 9,830,400 cy after a read of the slot's message, at the earliest after its take. -/
def execHostCompletionTimeout (slot : SlotId) (s : State) : Res :=
  guarded (match s.msgOf slot with | some m => decide (9830400 ≤ (s.now - m.taken).toNat) | none => false) (requestError (.message slot)) s

/-! ## Translations (R506) -/

def execAtsInvalidateRequest (lo hi : Nat) (s : State) : Res :=
  guarded (!s.boot.held) (fun s => State.emit { s with pci := { s.pci with ats := s.pci.ats.filter fun x => decide (x.2 < lo ∨ hi < x.1) } } .atsDone) s

end Sys2Proof.Machine
end

