-- ==== Sys2Proof/Machine/Dispatch.lean ====
section
/-!
DEFINITION. One arm for each command: a direct call of its meaning.
-/
namespace Sys2Proof.Machine

def exec (i : Instr) (s : State) : Host.Outcome State Fault Refusal :=
  match i with
  | .memoryFrameBoundary bad retrain => Sys2Proof.Machine.execMemoryFrameBoundary bad retrain s
  | .atbSnap a value => Sys2Proof.Machine.execAtbSnap a value s
  | .ptpMessageReceive m => Sys2Proof.Machine.execPtpMessageReceive m s
  | .ptpMessageTransmit port k => Sys2Proof.Machine.execPtpMessageTransmit port k s
  | .esmcReceive ql => Sys2Proof.Machine.execEsmcReceive ql s
  | .esmcInfoTransmit port => Sys2Proof.Machine.execEsmcInfoTransmit port s
  | .ppsInEdge ts16 => Sys2Proof.Machine.execPpsInEdge ts16 s
  | .todFrameReceive frame => Sys2Proof.Machine.execTodFrameReceive frame s
  | .seqNop t c => Sys2Proof.Machine.execSeqNop t c s
  | .seqPass t c => Sys2Proof.Machine.execSeqPass t c s
  | .passStart t part => Sys2Proof.Machine.execPassStart t part s
  | .preemptFreeze t => Sys2Proof.Machine.execPreemptFreeze t s
  | .preemptRestore t => Sys2Proof.Machine.execPreemptRestore t s
  | .arrayParityError t kind row col => Sys2Proof.Machine.execArrayParityError t kind row col s
  | .arrPark t a => Sys2Proof.Machine.execArrPark t a s
  | .seqSge t c => Sys2Proof.Machine.execSeqSge t c s
  | .sgeNop t => Sys2Proof.Machine.execSgeNop t s
  | .setxl t => Sys2Proof.Machine.execSetxl t s
  | .setxh t => Sys2Proof.Machine.execSetxh t s
  | .xop t parity => Sys2Proof.Machine.execXop t parity s
  | .rep t => Sys2Proof.Machine.execRep t s
  | .clracc t => Sys2Proof.Machine.execClracc t s
  | .ldtb t parity => Sys2Proof.Machine.execLdtb t parity s
  | .add t parity => Sys2Proof.Machine.execAdd t parity s
  | .sub t parity => Sys2Proof.Machine.execSub t parity s
  | .mul t parity => Sys2Proof.Machine.execMul t parity s
  | .mla t parity => Sys2Proof.Machine.execMla t parity s
  | .mls t parity => Sys2Proof.Machine.execMls t parity s
  | .mac t parity => Sys2Proof.Machine.execMac t parity s
  | .macc t parity => Sys2Proof.Machine.execMacc t parity s
  | .accout t parity => Sys2Proof.Machine.execAccout t parity s
  | .min t parity => Sys2Proof.Machine.execMin t parity s
  | .max t parity => Sys2Proof.Machine.execMax t parity s
  | .abs t parity => Sys2Proof.Machine.execAbs t parity s
  | .shr t parity => Sys2Proof.Machine.execShr t parity s
  | .and t parity => Sys2Proof.Machine.execAnd t parity s
  | .or t parity => Sys2Proof.Machine.execOr t parity s
  | .xor t parity => Sys2Proof.Machine.execXor t parity s
  | .cmp t parity => Sys2Proof.Machine.execCmp t parity s
  | .sel t parity => Sys2Proof.Machine.execSel t parity s
  | .bxd t parity => Sys2Proof.Machine.execBxd t parity s
  | .norm t parity => Sys2Proof.Machine.execNorm t parity s
  | .expx t parity => Sys2Proof.Machine.execExpx t parity s
  | .msstepForward t parity => Sys2Proof.Machine.execMsstepForward t parity s
  | .msstepBackward t parity => Sys2Proof.Machine.execMsstepBackward t parity s
  | .rotz t parity => Sys2Proof.Machine.execRotz t parity s
  | .zip t parity => Sys2Proof.Machine.execZip t parity s
  | .unzip t parity => Sys2Proof.Machine.execUnzip t parity s
  | .perm t parity => Sys2Proof.Machine.execPerm t parity s
  | .bgath t parity => Sys2Proof.Machine.execBgath t parity s
  | .luti t parity => Sys2Proof.Machine.execLuti t parity s
  | .bfpd t parity => Sys2Proof.Machine.execBfpd t parity s
  | .bfpc t parity => Sys2Proof.Machine.execBfpc t parity s
  | .pkfl t parity => Sys2Proof.Machine.execPkfl t parity s
  | .cvt t parity => Sys2Proof.Machine.execCvt t parity s
  | .sgePark t a => Sys2Proof.Machine.execSgePark t a s
  | .sgeFlagsClear t a value => Sys2Proof.Machine.execSgeFlagsClear t a value s
  | .cmpcnt t => Sys2Proof.Machine.execCmpcnt t s
  | .cmpinc t => Sys2Proof.Machine.execCmpinc t s
  | .seqSendRadio t c => Sys2Proof.Machine.execSeqSendRadio t c s
  | .seqSendTenant t c => Sys2Proof.Machine.execSeqSendTenant t c s
  | .seqCret t c => Sys2Proof.Machine.execSeqCret t c s
  | .seqFlags t c => Sys2Proof.Machine.execSeqFlags t c s
  | .seqPost t c => Sys2Proof.Machine.execSeqPost t c s
  | .postFabricRequest t c => Sys2Proof.Machine.execPostFabricRequest t c s
  | .seqKbnd t c => Sys2Proof.Machine.execSeqKbnd t c s
  | .fenceL t c => Sys2Proof.Machine.execFenceL t c s
  | .fenceC t c => Sys2Proof.Machine.execFenceC t c s
  | .fenceG t c => Sys2Proof.Machine.execFenceG t c s
  | .fenceRelease t c => Sys2Proof.Machine.execFenceRelease t c s
  | .seqEnd t c => Sys2Proof.Machine.execSeqEnd t c s
  | .memxRead t c => Sys2Proof.Machine.execMemxRead t c s
  | .memxWrite t c => Sys2Proof.Machine.execMemxWrite t c s
  | .memxAccumulateInt32 t c => Sys2Proof.Machine.execMemxAccumulateInt32 t c s
  | .memxAccumulateFp32 t c => Sys2Proof.Machine.execMemxAccumulateFp32 t c s
  | .radioWindowOpen t => Sys2Proof.Machine.execRadioWindowOpen t s
  | .radioFlitInject f => Sys2Proof.Machine.execRadioFlitInject f s
  | .tenantFlitInject id => Sys2Proof.Machine.execTenantFlitInject id s
  | .landingWrite t zone unit mask owner src data => Sys2Proof.Machine.execLandingWrite t zone unit mask owner src data s
  | .landingNackReceive t c => Sys2Proof.Machine.execLandingNackReceive t c s
  | .creditGrantReceive t zone => Sys2Proof.Machine.execCreditGrantReceive t zone s
  | .zoneRemoteRead t zone unit src owner => Sys2Proof.Machine.execZoneRemoteRead t zone unit src owner s
  | .zoneEnable t zone a value => Sys2Proof.Machine.execZoneEnable t zone a value s
  | .zoneRdWrite t zone a value => Sys2Proof.Machine.execZoneRdWrite t zone a value s
  | .padSweep t a value => Sys2Proof.Machine.execPadSweep t a value s
  | .tagSweepComplete p => Sys2Proof.Machine.execTagSweepComplete p s
  | .heldSweepStart p => Sys2Proof.Machine.execHeldSweepStart p s
  | .patrolVisit t upset metaUpset => Sys2Proof.Machine.execPatrolVisit t upset metaUpset s
  | .regrow t bank row => Sys2Proof.Machine.execRegrow t bank row s
  | .linkReplay l => Sys2Proof.Machine.execLinkReplay l s
  | .d2dLinkRetrainComplete rim stop => Sys2Proof.Machine.execD2dLinkRetrainComplete rim stop s
  | .lateFrameDiscard f => Sys2Proof.Machine.execLateFrameDiscard f s
  | .taskContextRelease t c => Sys2Proof.Machine.execTaskContextRelease t c s
  | .postDelivery id => Sys2Proof.Machine.execPostDelivery id s
  | .completionRecordDelivery id => Sys2Proof.Machine.execCompletionRecordDelivery id s
  | .eventRecordWrite owner consumer => Sys2Proof.Machine.execEventRecordWrite owner consumer s
  | .contextReclaim t c => Sys2Proof.Machine.execContextReclaim t c s
  | .schPark t a => Sys2Proof.Machine.execSchPark t a s
  | .taskTimeout t c => Sys2Proof.Machine.execTaskTimeout t c s
  | .dramLineAccept channel => Sys2Proof.Machine.execDramLineAccept channel s
  | .dramLineSlot channel line upset => Sys2Proof.Machine.execDramLineSlot channel line upset s
  | .checkLineWriteback rim channel block => Sys2Proof.Machine.execCheckLineWriteback rim channel block s
  | .dramRowRepair channel => Sys2Proof.Machine.execDramRowRepair channel s
  | .memRepairGo a value => Sys2Proof.Machine.execMemRepairGo a value s
  | .memScrubGo a value => Sys2Proof.Machine.execMemScrubGo a value s
  | .fhFrameReceive f => Sys2Proof.Machine.execFhFrameReceive f s
  | .recordFlush rim stream symbol => Sys2Proof.Machine.execRecordFlush rim stream symbol s
  | .gainDecision rim stream => Sys2Proof.Machine.execGainDecision rim stream s
  | .egressMessagePlace rim tile header body => Sys2Proof.Machine.execEgressMessagePlace rim tile header body s
  | .egressFrameEnqueue port q frame => Sys2Proof.Machine.execEgressFrameEnqueue port q frame s
  | .egressFrameStart port => Sys2Proof.Machine.execEgressFrameStart port s
  | .ttWindowOpen port w => Sys2Proof.Machine.execTtWindowOpen port w s
  | .ttWindowClose port w => Sys2Proof.Machine.execTtWindowClose port w s
  | .portLinkUp port => Sys2Proof.Machine.execPortLinkUp port s
  | .portLinkDown port => Sys2Proof.Machine.execPortLinkDown port s
  | .runEntryDispatch entry => Sys2Proof.Machine.execRunEntryDispatch entry s
  | .fabricBulkBurst id => Sys2Proof.Machine.execFabricBulkBurst id s
  | .creditedRemoteWrite t zone unit data => Sys2Proof.Machine.execCreditedRemoteWrite t zone unit data s
  | .sealChunk iv slow => Sys2Proof.Machine.execSealChunk iv slow s
  | .unsealChunk chunk => Sys2Proof.Machine.execUnsealChunk chunk s
  | .thermalReading t => Sys2Proof.Machine.execThermalReading t s
  | .gatherJobEnqueue a value => Sys2Proof.Machine.execGatherJobEnqueue a value s
  | .gatherLookup half => Sys2Proof.Machine.execGatherLookup half s
  | .gatherInstall half => Sys2Proof.Machine.execGatherInstall half s
  | .gatherEvict half => Sys2Proof.Machine.execGatherEvict half s
  | .gatherAccumulateInt32 half => Sys2Proof.Machine.execGatherAccumulateInt32 half s
  | .gatherAccumulateFp32 half => Sys2Proof.Machine.execGatherAccumulateFp32 half s
  | .gatherJobComplete half => Sys2Proof.Machine.execGatherJobComplete half s
  | .krovbemRd port f => Sys2Proof.Machine.execKrovbemRd port f s
  | .krovbemRdx port f => Sys2Proof.Machine.execKrovbemRdx port f s
  | .krovbemWr port f => Sys2Proof.Machine.execKrovbemWr port f s
  | .krovbemWb port f => Sys2Proof.Machine.execKrovbemWb port f s
  | .krovbemEv port f => Sys2Proof.Machine.execKrovbemEv port f s
  | .krovbemFwd port f => Sys2Proof.Machine.execKrovbemFwd port f s
  | .krovbemInv port f => Sys2Proof.Machine.execKrovbemInv port f s
  | .krovbemData port f => Sys2Proof.Machine.execKrovbemData port f s
  | .krovbemAck port f => Sys2Proof.Machine.execKrovbemAck port f s
  | .krovbemNack port f reason => Sys2Proof.Machine.execKrovbemNack port f reason s
  | .krovbemAccept port f => Sys2Proof.Machine.execKrovbemAccept port f s
  | .krovbemTime port t1 t2 t3 t4 => Sys2Proof.Machine.execKrovbemTime port t1 t2 t3 t4 s
  | .krovbemHeart port src vector => Sys2Proof.Machine.execKrovbemHeart port src vector s
  | .krovbemBar port src barrier kind => Sys2Proof.Machine.execKrovbemBar port src barrier kind s
  | .krovbemTwin port kernel tile count record hashes => Sys2Proof.Machine.execKrovbemTwin port kernel tile count record hashes s
  | .twinRecordTimeout kernel tile => Sys2Proof.Machine.execTwinRecordTimeout kernel tile s
  | .twinMismatchClear a value => Sys2Proof.Machine.execTwinMismatchClear a value s
  | .busyLineRelease addr => Sys2Proof.Machine.execBusyLineRelease addr s
  | .clutchRequestTimeout home tag => Sys2Proof.Machine.execClutchRequestTimeout home tag s
  | .heartTimeout port => Sys2Proof.Machine.execHeartTimeout port s
  | .memberDead n => Sys2Proof.Machine.execMemberDead n s
  | .contextMirrorCopy slice cell => Sys2Proof.Machine.execContextMirrorCopy slice cell s
  | .gatewayResend peer tag => Sys2Proof.Machine.execGatewayResend peer tag s
  | .gatewayRequestExpire peer tag => Sys2Proof.Machine.execGatewayRequestExpire peer tag s
  | .leapfrogRdreq p => Sys2Proof.Machine.execLeapfrogRdreq p s
  | .leapfrogRddata p => Sys2Proof.Machine.execLeapfrogRddata p s
  | .leapfrogWrite p => Sys2Proof.Machine.execLeapfrogWrite p s
  | .leapfrogDone p => Sys2Proof.Machine.execLeapfrogDone p s
  | .leapfrogNack p => Sys2Proof.Machine.execLeapfrogNack p s
  | .leapfrogKeepalive p => Sys2Proof.Machine.execLeapfrogKeepalive p s
  | .barrierDecide b => Sys2Proof.Machine.execBarrierDecide b s
  | .barrierGoDeadline b => Sys2Proof.Machine.execBarrierGoDeadline b s
  | .barrierRelease b => Sys2Proof.Machine.execBarrierRelease b s
  | .heartbeatWrite role => Sys2Proof.Machine.execHeartbeatWrite role s
  | .heartbeatTimeout role => Sys2Proof.Machine.execHeartbeatTimeout role s
  | .slotArm slot header => Sys2Proof.Machine.execSlotArm slot header s
  | .mailboxSlotWrite slot offset bytes => Sys2Proof.Machine.execMailboxSlotWrite slot offset bytes s
  | .sysInfo slot => Sys2Proof.Machine.execSysInfo slot s
  | .sysTime slot => Sys2Proof.Machine.execSysTime slot s
  | .sysMgrPasid slot => Sys2Proof.Machine.execSysMgrPasid slot s
  | .eventRing slot => Sys2Proof.Machine.execEventRing slot s
  | .sliceCreate slot => Sys2Proof.Machine.execSliceCreate slot s
  | .sliceAlloc slot => Sys2Proof.Machine.execSliceAlloc slot s
  | .sliceDelete slot => Sys2Proof.Machine.execSliceDelete slot s
  | .sliceStatus slot => Sys2Proof.Machine.execSliceStatus slot s
  | .cellStage slot => Sys2Proof.Machine.execCellStage slot s
  | .cellState slot => Sys2Proof.Machine.execCellState slot s
  | .streamStage slot => Sys2Proof.Machine.execStreamStage slot s
  | .templateStage slot => Sys2Proof.Machine.execTemplateStage slot s
  | .imageStage slot buffer => Sys2Proof.Machine.execImageStage slot buffer s
  | .standbyStage slot => Sys2Proof.Machine.execStandbyStage slot s
  | .shedOrder slot => Sys2Proof.Machine.execShedOrder slot s
  | .fhSend slot buffer => Sys2Proof.Machine.execFhSend slot buffer s
  | .cellStats slot => Sys2Proof.Machine.execCellStats slot s
  | .stageCheck slot => Sys2Proof.Machine.execStageCheck slot s
  | .stageCommit slot => Sys2Proof.Machine.execStageCommit slot s
  | .stageCancel slot => Sys2Proof.Machine.execStageCancel slot s
  | .stageClear slot => Sys2Proof.Machine.execStageClear slot s
  | .stageStatus slot => Sys2Proof.Machine.execStageStatus slot s
  | .deviceStageTileSwap slot => Sys2Proof.Machine.execDeviceStageTileSwap slot s
  | .deviceStageFrameOffset slot => Sys2Proof.Machine.execDeviceStageFrameOffset slot s
  | .epochOpen slot => Sys2Proof.Machine.execEpochOpen slot s
  | .epochClose slot => Sys2Proof.Machine.execEpochClose slot s
  | .imageLoad slot buffer => Sys2Proof.Machine.execImageLoad slot buffer s
  | .runSubmit slot => Sys2Proof.Machine.execRunSubmit slot s
  | .epochSuspend slot => Sys2Proof.Machine.execEpochSuspend slot s
  | .epochResume slot => Sys2Proof.Machine.execEpochResume slot s
  | .seal slot => Sys2Proof.Machine.execSeal slot s
  | .unseal slot => Sys2Proof.Machine.execUnseal slot s
  | .keyInstall slot => Sys2Proof.Machine.execKeyInstall slot s
  | .keyCurrent slot => Sys2Proof.Machine.execKeyCurrent slot s
  | .keyRetire slot => Sys2Proof.Machine.execKeyRetire slot s
  | .gtableSet slot => Sys2Proof.Machine.execGtableSet slot s
  | .gatherSubmit slot => Sys2Proof.Machine.execGatherSubmit slot s
  | .epochStatus slot => Sys2Proof.Machine.execEpochStatus slot s
  | .regionSet slot => Sys2Proof.Machine.execRegionSet slot s
  | .okeySet slot => Sys2Proof.Machine.execOkeySet slot s
  | .lpeerSet slot => Sys2Proof.Machine.execLpeerSet slot s
  | .lmapSet slot => Sys2Proof.Machine.execLmapSet slot s
  | .fabSet slot => Sys2Proof.Machine.execFabSet slot s
  | .frtRegister slot buffer => Sys2Proof.Machine.execFrtRegister slot buffer s
  | .barrierArm slot => Sys2Proof.Machine.execBarrierArm slot s
  | .regRead slot => Sys2Proof.Machine.execRegRead slot s
  | .regWrite slot => Sys2Proof.Machine.execRegWrite slot s
  | .memRead slot => Sys2Proof.Machine.execMemRead slot s
  | .logRead slot => Sys2Proof.Machine.execLogRead slot s
  | .imageVerify slot buffer => Sys2Proof.Machine.execImageVerify slot buffer s
  | .recoveryImage slot buffer => Sys2Proof.Machine.execRecoveryImage slot buffer s
  | .moultStart slot => Sys2Proof.Machine.execMoultStart slot s
  | .moultStatus slot => Sys2Proof.Machine.execMoultStatus slot s
  | .padRegrow slot => Sys2Proof.Machine.execPadRegrow slot s
  | .dramRepair slot => Sys2Proof.Machine.execDramRepair slot s
  | .selftest slot => Sys2Proof.Machine.execSelftest slot s
  | .selftestStart id => Sys2Proof.Machine.execSelftestStart id s
  | .selftestComplete id pass detail => Sys2Proof.Machine.execSelftestComplete id pass detail s
  | .eyeMarginReport lane margin => Sys2Proof.Machine.execEyeMarginReport lane margin s
  | .legTimeout t c id => Sys2Proof.Machine.execLegTimeout t c id s
  | .runEntryNoProgress entry => Sys2Proof.Machine.execRunEntryNoProgress entry s
  | .bootMilestoneMissed detail => Sys2Proof.Machine.execBootMilestoneMissed detail s
  | .railReading rail millivolt deciamp => Sys2Proof.Machine.execRailReading rail millivolt deciamp s
  | .coolantReading inlet flow => Sys2Proof.Machine.execCoolantReading inlet flow s
  | .bar4Read offset length => Sys2Proof.Machine.execBar4Read offset length s
  | .bar4Write offset bytes poisoned => Sys2Proof.Machine.execBar4Write offset bytes poisoned s
  | .debugWindowRead offset length => Sys2Proof.Machine.execDebugWindowRead offset length s
  | .ideUnprotectedTlp stream => Sys2Proof.Machine.execIdeUnprotectedTlp stream s
  | .pcieLinkRetrain speed width flit => Sys2Proof.Machine.execPcieLinkRetrain speed width flit s
  | .msixUnmask vector => Sys2Proof.Machine.execMsixUnmask vector s
  | .hostRequestError r e => Sys2Proof.Machine.execHostRequestError r e s
  | .hostCompletionTimeout slot => Sys2Proof.Machine.execHostCompletionTimeout slot s
  | .registerWrite a addr value => Sys2Proof.Machine.execRegisterWrite a addr value s
  | .registerReadClear a addr => Sys2Proof.Machine.execRegisterReadClear a addr s
  | .seqPadop t c => Sys2Proof.Machine.execSeqPadop t c s
  | .radioWindowClose t => Sys2Proof.Machine.execRadioWindowClose t s
  | .bootStageComplete pass reason detail => Sys2Proof.Machine.execBootStageComplete pass reason detail s
  | .tapInstructionLoad code => Sys2Proof.Machine.execTapInstructionLoad code s
  | .ideKmRequest tr stream op => Sys2Proof.Machine.execIdeKmRequest tr stream op s
  | .atsInvalidateRequest lo hi => Sys2Proof.Machine.execAtsInvalidateRequest lo hi s
  | .spdmGetVersion tr => Sys2Proof.Machine.execSpdmGetVersion tr s
  | .spdmGetCapabilities tr => Sys2Proof.Machine.execSpdmGetCapabilities tr s
  | .spdmNegotiateAlgorithms tr offered => Sys2Proof.Machine.execSpdmNegotiateAlgorithms tr offered s
  | .spdmGetDigests tr => Sys2Proof.Machine.execSpdmGetDigests tr s
  | .spdmGetCertificate tr slot offset length => Sys2Proof.Machine.execSpdmGetCertificate tr slot offset length s
  | .spdmChallenge tr nonce => Sys2Proof.Machine.execSpdmChallenge tr nonce s
  | .spdmGetMeasurements tr nonce index signed => Sys2Proof.Machine.execSpdmGetMeasurements tr nonce index signed s
  | .spdmKeyExchange tr exchange => Sys2Proof.Machine.execSpdmKeyExchange tr exchange s
  | .spdmFinish tr session verify => Sys2Proof.Machine.execSpdmFinish tr session verify s
  | .spdmHeartbeat tr session => Sys2Proof.Machine.execSpdmHeartbeat tr session s
  | .spdmKeyUpdate tr session => Sys2Proof.Machine.execSpdmKeyUpdate tr session s
  | .spdmEndSession tr session => Sys2Proof.Machine.execSpdmEndSession tr session s
  | .spdmChunkSend tr seq last bytes => Sys2Proof.Machine.execSpdmChunkSend tr seq last bytes s
  | .spdmChunkGet tr seq => Sys2Proof.Machine.execSpdmChunkGet tr seq s
  | .getPqDigest tr => Sys2Proof.Machine.execGetPqDigest tr s
  | .getPqCert tr offset length => Sys2Proof.Machine.execGetPqCert tr offset length s
  | .spdmUnsupportedRequest tr code => Sys2Proof.Machine.execSpdmUnsupportedRequest tr code s
  | .atbTick => Sys2Proof.Machine.execAtbTick s
  | .atbMirrorRead => Sys2Proof.Machine.execAtbMirrorRead s
  | .ptpSourceTimeout => Sys2Proof.Machine.execPtpSourceTimeout s
  | .esmcTimeout => Sys2Proof.Machine.execEsmcTimeout s
  | .synceLockLoss => Sys2Proof.Machine.execSynceLockLoss s
  | .freqInputOutOfWindow => Sys2Proof.Machine.execFreqInputOutOfWindow s
  | .ppsEdgeMissing => Sys2Proof.Machine.execPpsEdgeMissing s
  | .ppsOutRise => Sys2Proof.Machine.execPpsOutRise s
  | .holdoverLimitExceeded => Sys2Proof.Machine.execHoldoverLimitExceeded s
  | .scrubComplete => Sys2Proof.Machine.execScrubComplete s
  | .epochEndReached => Sys2Proof.Machine.execEpochEndReached s
  | .preemptionTimeout => Sys2Proof.Machine.execPreemptionTimeout s
  | .epochCloseDrainEnd => Sys2Proof.Machine.execEpochCloseDrainEnd s
  | .throttleInterval => Sys2Proof.Machine.execThrottleInterval s
  | .cellShedStep => Sys2Proof.Machine.execCellShedStep s
  | .isolationMute => Sys2Proof.Machine.execIsolationMute s
  | .regionRecallComplete => Sys2Proof.Machine.execRegionRecallComplete s
  | .stageCommitApply => Sys2Proof.Machine.execStageCommitApply s
  | .tileSwapTenantSuspend => Sys2Proof.Machine.execTileSwapTenantSuspend s
  | .handoverPrepare => Sys2Proof.Machine.execHandoverPrepare s
  | .handoverConfirm => Sys2Proof.Machine.execHandoverConfirm s
  | .m0Moult => Sys2Proof.Machine.execM0Moult s
  | .mailboxSweep => Sys2Proof.Machine.execMailboxSweep s
  | .m0WatchdogExpiry => Sys2Proof.Machine.execM0WatchdogExpiry s
  | .pllLockLoss => Sys2Proof.Machine.execPllLockLoss s
  | .porstRelease => Sys2Proof.Machine.execPorstRelease s
  | .porstAssert => Sys2Proof.Machine.execPorstAssert s
  | .mgmtPwrokLow => Sys2Proof.Machine.execMgmtPwrokLow s
  | .mainPwrokDeassert => Sys2Proof.Machine.execMainPwrokDeassert s
  | .thermtrip => Sys2Proof.Machine.execThermtrip s
  | .pf0Flr => Sys2Proof.Machine.execPf0Flr s
  | .pf1Flr => Sys2Proof.Machine.execPf1Flr s
  | .pcieLinkDown => Sys2Proof.Machine.execPcieLinkDown s
  | .perstAssert => Sys2Proof.Machine.execPerstAssert s
  | .busMasterDisable => Sys2Proof.Machine.execBusMasterDisable s
  | .mainPwrokAssert => Sys2Proof.Machine.execMainPwrokAssert s
  | .m0RestartComplete => Sys2Proof.Machine.execM0RestartComplete s
  | .spareImageLoaded => Sys2Proof.Machine.execSpareImageLoaded s
  | .tileSwapCopyComplete => Sys2Proof.Machine.execTileSwapCopyComplete s
  | .gatherDirectoryClearComplete => Sys2Proof.Machine.execGatherDirectoryClearComplete s
  | .ppsOutFall => Sys2Proof.Machine.execPpsOutFall s
  | .freqInputQualified => Sys2Proof.Machine.execFreqInputQualified s

end Sys2Proof.Machine
end

