-- ==== Sys2Proof/Safety.lean ====
section
/-!
DEFINITION. The terms that statements use: how a command ends, and what a canonical memory is.
-/
namespace Sys2Proof.Machine

/-- The command is answered with a next state that has a property. -/
def Ends (c : Instr) (s : State) (p : State → Prop) : Prop := ∃ u, exec c s = .next u ∧ p u

/-- The next operation `w` of a task `k` comes due in this cycle, is its context's to issue, and is accepted: no slot is full,
its fields hold, a SEND stays in its task's window, and a radio operation has its last effect inside the window (R201, R206, R209). -/
def State.issues (s : State) (t : LTile) (c : CtxNo) (k : TaskCtx) (i : Image) (w : W64) : Prop :=
  s.ctx t c = some k ∧ s.imageOf k.img = some i ∧ s.nextOp k = some w
  ∧ s.seqDue t k w = true ∧ s.slotHolds t c k w = false ∧ s.turn t c = true ∧ s.slotRefuses t c k w = false ∧ opOk i k w = true
  ∧ sendOutside i k w = false
  ∧ (k.radio = true → (s.lastEffectOf t i k w).any (fun v => decide (v < k.closes)) = true)

/-- The task has gone on by one operation, issued in this cycle. -/
def Advanced (k k' : TaskCtx) (now : W64) : Prop := k'.pc = k.pc + 1 ∧ k'.last = now ∧ k'.timer = 0

/-- A task of a context after its operation issued, with a property. -/
def State.went (s u : State) (t : LTile) (c : CtxNo) (k : TaskCtx) (p : TaskCtx → Prop) : Prop :=
  ∃ k', u.ctx t c = some k' ∧ Advanced k k' s.now ∧ p k'

/-- The command that issues an engine instruction `w`; `p` tells whether one of its bank reads meets a parity error. -/
def engineCmd (t : LTile) (p : Bool) (w : W64) : Option Instr :=
  match opOf w with
  | 0x00 => if p then none else some (.sgeNop t)
  | 0x01 => if p then none else some (.setxl t)
  | 0x02 => if p then none else some (.setxh t)
  | 0x03 => some (.xop t p)
  | 0x04 => if p then none else some (.rep t)
  | 0x05 => if p then none else some (.clracc t)
  | 0x06 => some (.ldtb t p)
  | 0x10 => some (.add t p)
  | 0x11 => some (.sub t p)
  | 0x12 => some (.mul t p)
  | 0x13 => some (.mla t p)
  | 0x14 => some (.mls t p)
  | 0x15 => some (.mac t p)
  | 0x16 => some (.macc t p)
  | 0x17 => some (.accout t p)
  | 0x18 => some (.min t p)
  | 0x19 => some (.max t p)
  | 0x1A => some (.abs t p)
  | 0x1B => some (.shr t p)
  | 0x1C => some (.and t p)
  | 0x1D => some (.or t p)
  | 0x1E => some (.xor t p)
  | 0x1F => some (.cmp t p)
  | 0x20 => some (.sel t p)
  | 0x30 => some (.bxd t p)
  | 0x31 => some (.norm t p)
  | 0x32 => some (.expx t p)
  | 0x33 => if immOf w / 16384 % 2 = 0 then some (.msstepForward t p) else some (.msstepBackward t p)
  | 0x34 => some (.rotz t p)
  | 0x35 => some (.zip t p)
  | 0x36 => some (.unzip t p)
  | 0x37 => some (.perm t p)
  | 0x38 => some (.bgath t p)
  | 0x39 => some (.luti t p)
  | 0x3A => some (.bfpd t p)
  | 0x3B => some (.bfpc t p)
  | 0x3C => some (.pkfl t p)
  | 0x3D => some (.cvt t p)
  | _ => none

/-- The message `m` of a slot comes to be executed: it is the slot's first taken one, has the opcode, the slot's previous
message is answered, and none taken before it names the same object (R444). `v` is the state without it. -/
def State.msg (s : State) (op : Nat) (i : SlotId) (m : Msg) (v : State) : Prop :=
  m.opcode = op ∧ m.slot = i ∧ ∃ before after, s.mbx.taken = before ++ m :: after ∧ (∀ x ∈ before, x.slot ≠ i) ∧ (∀ w ∈ s.mbx.waiting, w.1.slot ≠ i)
    ∧ (∀ x ∈ before, sameObject x.opcode x.payload m.opcode m.payload = false)
    ∧ v = { s with mbx := { s.mbx with taken := before ++ after } }

/-- A message of the staged-commit unit that it takes in this cycle, and the state without it (R30). -/
def State.unitMsg (s : State) (op : Nat) (i : SlotId) (m : Msg) (v : State) : Prop :=
  s.unitTurn i = true ∧ ∃ w, s.msg op i m w ∧ v = w.unitSeen i

/-- In `u` the message has been answered, after `s`, with a status, a DETAIL and a payload (R445). -/
def State.answered (s u : State) (m : Msg) (status : Nat) (detail : Nat := 0) (payload : Bytes := []) : Prop :=
  ∃ r new old, u.out = new ++ Emit.reply r :: (old ++ s.out) ∧ r.slot = m.slot ∧ r.raddr = m.raddr ∧ r.seq = m.seq ∧ r.opcode = m.opcode
    ∧ r.status = status ∧ r.detail = detail ∧ r.done = s.now ∧ r.payload = payload.take (m.rlen - 64)

/-- The command completes in a state `v` with a property, but for what then follows at once in the fabric: waiting requests
are sent, finished ones end (`State.pump`). -/
def Pumps (c : Instr) (s : State) (p : State → Prop) : Prop := ∃ v : State, exec c s = .next v.pump ∧ p v

/-- A frame of a Krovbem link that this chip takes: its link is up, its chips are members, and it is for this chip (R365, R366). -/
def State.takesFrame (s : State) (port : Fin 7) (type : Nat) (f : KFrame) : Bool :=
  !s.boot.dies && s.peerBit (s.chipAt port) 1 && s.member f.src && s.member f.dst && decide (f.addr % 64 = 0)
  && f.hasData == decide (type = 3 ∨ type = 4 ∨ type = 8) && f.ctlOk && f.dst == s.chip

/-- A request of another chip that its home may serve now: an address of the memory, a free entry, no scrub, access by a region
entry, a new tag, a line that is not busy and that no request waits for, and a channel that can move it (R252, R367, R370, R378, R380, R394). -/
def State.homeOpen (s : State) (q : HomeReq) : Bool :=
  decide (q.line < memLines ∧ s.entriesOf q.org < 128) && !s.scrubbed q.line && s.admits q
  && decide ((tget {} s.fab.tags (originKey q.org)).judge q.tag = 0) && !s.isBusy q.line && !(s.fab.waiting.any fun w => decide (w.line = q.line))
  && s.fabOpen q.line true && s.fabOpen q.line false

/-- The state after the MAC of GW0 has counted a packet's frame (R270, R288). -/
def State.gwCounted (s : State) (p : LPacket) : State := match s.lane 3 0 with | some l => (s.gwFrame l.val p).2 | none => s

/-- A packet from GW0 that the gateway takes: its port is up, the MAC gives it on, its peer is valid and its lines are all there
(R270, R390, R481). -/
def State.takesPacket (s : State) (p : LPacket) : Bool :=
  (s.lane 3 0).any (fun l => bit (s.rget ⟨.fhpStatus, l.val, 0⟩) 0 && (s.gwFrame l.val p).1) && !s.boot.dies && p.valid
  && (s.gwCounted p).gwValid p.peer && decide (p.lines.length = lineCount p.mask)

/-- M0 answers SPDM requests, and a connection has come as far as `phase`. -/
def State.spdmOpen (s : State) (tr : Transport) (phase : Nat) : Prop := s.cores.m0Up = true ∧ s.boot.recovery = false ∧ phase ≤ (s.conn tr).phase.val

/-- A response to an SPDM request: sent at once, or, when longer than 1,024 bytes, held for CHUNK_GET (R496). -/
def State.spdmGives (s u : State) (tr : Transport) (b : Bytes) : Prop :=
  if b.length ≤ 1024 then u.out = .spdm tr b :: s.out else u.out = .spdmError tr spdmLarge :: s.out ∧ (u.conn tr).chunkOut = b ∧ (u.conn tr).outNext = 0

/-- The external memory's tables are in canonical form: lines of data and check pairs by rising line number, none equal to
what an unlisted line reads as. -/
def Mem.wf (m : Mem) : Bool := twf (fun _ => (0 : Row)) m.lines && twf (fun _ => (0 : BitVec 16)) m.checks

/-- A pad's rows are in canonical form. -/
def Pad.wf (p : Pad) : Bool := twf (fun _ => ({} : PadRow)) p.rows

/-- Every memory of the part is in canonical form. -/
def State.memWf (s : State) : Bool := s.mem.wf && s.pads.toList.all Pad.wf

end Sys2Proof.Machine

namespace Sys2Proof
open Machine

/-! ## What a command may change -/

/-- The components of a state. -/
inductive Comp where
  | regs | time | tiles | pads | tileMap | mesh | mem | ten | ctl | mbx | cores | log | ports | radio | fab | boot | spdm | pci | pkg | tests | board | out | freeCount | pending
  deriving DecidableEq, Repr

/-- A component is the same in two states. -/
def Comp.same (s u : State) : Comp → Prop
  | .regs => u.regs = s.regs
  | .time => u.time = s.time
  | .tiles => u.tiles = s.tiles
  | .pads => u.pads = s.pads
  | .tileMap => u.tileMap = s.tileMap
  | .mesh => u.mesh = s.mesh
  | .mem => u.mem = s.mem
  | .ten => u.ten = s.ten
  | .ctl => u.ctl = s.ctl
  | .mbx => u.mbx = s.mbx
  | .cores => u.cores = s.cores
  | .log => u.log = s.log
  | .ports => u.ports = s.ports
  | .radio => u.radio = s.radio
  | .fab => u.fab = s.fab
  | .boot => u.boot = s.boot
  | .spdm => u.spdm = s.spdm
  | .pci => u.pci = s.pci
  | .pkg => u.pkg = s.pkg
  | .tests => u.tests = s.tests
  | .board => u.board = s.board
  | .out => u.out = s.out
  | .freeCount => u.freeCount = s.freeCount
  | .pending => u.pending = s.pending

/-- The groups of commands: a tile's own units and pads; time, links, memory and ports; tenancy and the fabric; control. -/
inductive Group where
  | tile | path | fabric | control
  deriving DecidableEq, Repr

/-- The group of a command. -/
def Instr.group : Instr → Group
  | .memoryFrameBoundary _ _ | .atbSnap _ _ | .ptpMessageReceive _ | .ptpMessageTransmit _ _ | .esmcReceive _ | .esmcInfoTransmit _ | .ppsInEdge _
  | .todFrameReceive _ | .radioFlitInject _ | .tenantFlitInject _ | .linkReplay _ | .d2dLinkRetrainComplete _ _ | .lateFrameDiscard _ | .taskContextRelease _ _
  | .postDelivery _ | .completionRecordDelivery _ | .eventRecordWrite _ _ | .contextReclaim _ _ | .schPark _ _ | .taskTimeout _ _ | .dramLineAccept _
  | .dramLineSlot _ _ _ | .checkLineWriteback _ _ _ | .dramRowRepair _ | .memRepairGo _ _ | .memScrubGo _ _ | .fhFrameReceive _ | .recordFlush _ _ _
  | .gainDecision _ _ | .egressMessagePlace _ _ _ _ | .egressFrameEnqueue _ _ _ | .egressFrameStart _ | .ttWindowOpen _ _ | .ttWindowClose _ _ | .portLinkUp _
  | .portLinkDown _ | .atbMirrorRead | .ptpSourceTimeout | .esmcTimeout | .synceLockLoss | .freqInputOutOfWindow | .ppsEdgeMissing | .ppsOutRise
  | .holdoverLimitExceeded | .scrubComplete | .ppsOutFall | .freqInputQualified => .path
  | .seqNop _ _ | .seqPass _ _ | .passStart _ _ | .preemptFreeze _ | .preemptRestore _ | .arrayParityError _ _ _ _ | .arrPark _ _ | .seqSge _ _ | .sgeNop _
  | .setxl _ | .setxh _ | .xop _ _ | .rep _ | .clracc _ | .ldtb _ _ | .add _ _ | .sub _ _ | .mul _ _ | .mla _ _ | .mls _ _ | .mac _ _ | .macc _ _ | .accout _ _
  | .min _ _ | .max _ _ | .abs _ _ | .shr _ _ | .and _ _ | .or _ _ | .xor _ _ | .cmp _ _ | .sel _ _ | .bxd _ _ | .norm _ _ | .expx _ _ | .msstepForward _ _
  | .msstepBackward _ _ | .rotz _ _ | .zip _ _ | .unzip _ _ | .perm _ _ | .bgath _ _ | .luti _ _ | .bfpd _ _ | .bfpc _ _ | .pkfl _ _ | .cvt _ _ | .sgePark _ _
  | .sgeFlagsClear _ _ _ | .cmpcnt _ | .cmpinc _ | .seqSendRadio _ _ | .seqSendTenant _ _ | .seqCret _ _ | .seqFlags _ _ | .seqPost _ _ | .postFabricRequest _ _
  | .seqKbnd _ _ | .fenceL _ _ | .fenceC _ _ | .fenceG _ _ | .fenceRelease _ _ | .seqEnd _ _ | .memxRead _ _ | .memxWrite _ _ | .memxAccumulateInt32 _ _
  | .memxAccumulateFp32 _ _ | .radioWindowOpen _ | .landingWrite _ _ _ _ _ _ _ | .landingNackReceive _ _ | .creditGrantReceive _ _ | .zoneRemoteRead _ _ _ _ _
  | .zoneEnable _ _ _ _ | .zoneRdWrite _ _ _ _ | .padSweep _ _ _ | .tagSweepComplete _ | .heldSweepStart _ | .patrolVisit _ _ _ | .regrow _ _ _ | .seqPadop _ _
  | .radioWindowClose _ | .atbTick => .tile
  | .runEntryDispatch _ | .fabricBulkBurst _ | .creditedRemoteWrite _ _ _ _ | .sealChunk _ _ | .unsealChunk _ | .thermalReading _ | .gatherJobEnqueue _ _
  | .gatherLookup _ | .gatherInstall _ | .gatherEvict _ | .gatherAccumulateInt32 _ | .gatherAccumulateFp32 _ | .gatherJobComplete _ | .krovbemRd _ _
  | .krovbemRdx _ _ | .krovbemWr _ _ | .krovbemWb _ _ | .krovbemEv _ _ | .krovbemFwd _ _ | .krovbemInv _ _ | .krovbemData _ _ | .krovbemAck _ _ | .krovbemNack _ _ _
  | .krovbemAccept _ _ | .krovbemTime _ _ _ _ _ | .krovbemHeart _ _ _ | .krovbemBar _ _ _ _ | .krovbemTwin _ _ _ _ _ _ | .twinRecordTimeout _ _
  | .twinMismatchClear _ _ | .busyLineRelease _ | .clutchRequestTimeout _ _ | .heartTimeout _ | .memberDead _ | .contextMirrorCopy _ _ | .gatewayResend _ _
  | .gatewayRequestExpire _ _ | .leapfrogRdreq _ | .leapfrogRddata _ | .leapfrogWrite _ | .leapfrogDone _ | .leapfrogNack _ | .leapfrogKeepalive _
  | .barrierDecide _ | .barrierGoDeadline _ | .barrierRelease _ | .legTimeout _ _ _ | .runEntryNoProgress _ | .epochEndReached | .preemptionTimeout
  | .epochCloseDrainEnd | .throttleInterval | .cellShedStep | .isolationMute | .regionRecallComplete | .gatherDirectoryClearComplete => .fabric
  | .heartbeatWrite _ | .heartbeatTimeout _ | .slotArm _ _ | .mailboxSlotWrite _ _ _ | .sysInfo _ | .sysTime _ | .sysMgrPasid _ | .eventRing _ | .sliceCreate _
  | .sliceAlloc _ | .sliceDelete _ | .sliceStatus _ | .cellStage _ | .cellState _ | .streamStage _ | .templateStage _ | .imageStage _ _ | .standbyStage _
  | .shedOrder _ | .fhSend _ _ | .cellStats _ | .stageCheck _ | .stageCommit _ | .stageCancel _ | .stageClear _ | .stageStatus _ | .deviceStageTileSwap _
  | .deviceStageFrameOffset _ | .epochOpen _ | .epochClose _ | .imageLoad _ _ | .runSubmit _ | .epochSuspend _ | .epochResume _ | .seal _ | .unseal _
  | .keyInstall _ | .keyCurrent _ | .keyRetire _ | .gtableSet _ | .gatherSubmit _ | .epochStatus _ | .regionSet _ | .okeySet _ | .lpeerSet _ | .lmapSet _
  | .fabSet _ | .frtRegister _ _ | .barrierArm _ | .regRead _ | .regWrite _ | .memRead _ | .logRead _ | .imageVerify _ _ | .recoveryImage _ _ | .moultStart _
  | .moultStatus _ | .padRegrow _ | .dramRepair _ | .selftest _ | .selftestStart _ | .selftestComplete _ _ _ | .eyeMarginReport _ _ | .bootMilestoneMissed _
  | .railReading _ _ _ | .coolantReading _ _ | .bar4Read _ _ | .bar4Write _ _ _ | .debugWindowRead _ _ | .ideUnprotectedTlp _ | .pcieLinkRetrain _ _ _
  | .msixUnmask _ | .hostRequestError _ _ | .hostCompletionTimeout _ | .registerWrite _ _ _ | .registerReadClear _ _ | .bootStageComplete _ _ _
  | .tapInstructionLoad _ | .ideKmRequest _ _ _ | .atsInvalidateRequest _ _ | .spdmGetVersion _ | .spdmGetCapabilities _ | .spdmNegotiateAlgorithms _ _
  | .spdmGetDigests _ | .spdmGetCertificate _ _ _ _ | .spdmChallenge _ _ | .spdmGetMeasurements _ _ _ _ | .spdmKeyExchange _ _ | .spdmFinish _ _ _
  | .spdmHeartbeat _ _ | .spdmKeyUpdate _ _ | .spdmEndSession _ _ | .spdmChunkSend _ _ _ _ | .spdmChunkGet _ _ | .getPqDigest _ | .getPqCert _ _ _
  | .spdmUnsupportedRequest _ _ | .stageCommitApply | .tileSwapTenantSuspend | .handoverPrepare | .handoverConfirm | .m0Moult | .mailboxSweep | .m0WatchdogExpiry
  | .pllLockLoss | .porstRelease | .porstAssert | .mgmtPwrokLow | .mainPwrokDeassert | .thermtrip | .pf0Flr | .pf1Flr | .pcieLinkDown | .perstAssert
  | .busMasterDisable | .mainPwrokAssert | .m0RestartComplete | .spareImageLoaded | .tileSwapCopyComplete => .control

/-- The components of a state that a command may change. -/
def Instr.changes : Instr → List Comp
  | .memoryFrameBoundary _ _ => [.regs, .time, .tiles, .pads, .mesh, .mem, .ten, .mbx, .cores, .log, .radio, .fab, .pci, .out]
  | .atbSnap _ _ | .arrPark _ _ | .sgePark _ _ | .sgeFlagsClear _ _ _ | .schPark _ _ | .portLinkUp _ | .twinMismatchClear _ _ | .ideUnprotectedTlp _
  | .pcieLinkRetrain _ _ _ | .holdoverLimitExceeded => [.regs, .log]
  | .ptpMessageReceive _ | .ppsInEdge _ | .krovbemTime _ _ _ _ _ => [.regs, .time, .pads, .mesh, .mem, .ten, .ctl, .mbx, .cores, .log, .ports, .radio, .fab, .boot, .out]
  | .ptpMessageTransmit _ _ | .esmcInfoTransmit _ => [.out]
  | .esmcReceive _ | .todFrameReceive _ | .ptpSourceTimeout | .esmcTimeout | .synceLockLoss | .freqInputOutOfWindow | .ppsEdgeMissing | .freqInputQualified => [.regs, .time, .log, .out]
  | .seqNop _ _ | .seqPass _ _ | .passStart _ _ | .seqSge _ _ | .cmpcnt _ | .cmpinc _ | .seqCret _ _ | .seqFlags _ _ | .fenceL _ _ | .fenceC _ _ | .fenceG _ _
  | .seqEnd _ _ | .seqPadop _ _ | .radioWindowClose _ => [.regs, .tiles, .log]
  | .preemptFreeze _ | .tileSwapTenantSuspend => [.regs, .tiles, .ten]
  | .preemptRestore _ | .contextReclaim _ _ => [.tiles]
  | .arrayParityError _ _ _ _ => [.regs, .tiles, .pads, .log]
  | .sgeNop _ | .setxl _ | .setxh _ | .xop _ _ | .rep _ | .clracc _ | .ldtb _ _ | .add _ _ | .sub _ _ | .mul _ _ | .mla _ _ | .mls _ _ | .mac _ _ | .macc _ _
  | .accout _ _ | .min _ _ | .max _ _ | .abs _ _ | .shr _ _ | .and _ _ | .or _ _ | .xor _ _ | .cmp _ _ | .sel _ _ | .bxd _ _ | .norm _ _ | .expx _ _
  | .msstepForward _ _ | .msstepBackward _ _ | .rotz _ _ | .zip _ _ | .unzip _ _ | .perm _ _ | .bgath _ _ | .luti _ _ | .bfpd _ _ | .bfpc _ _ | .pkfl _ _ | .cvt _ _
    => [.regs, .tiles, .ten, .log, .freeCount]
  | .seqSendRadio _ _ | .seqSendTenant _ _ | .seqPost _ _ => [.regs, .tiles, .mesh, .log]
  | .postFabricRequest _ _ => [.regs, .tiles, .mesh, .ten, .log]
  | .seqKbnd _ _ | .krovbemTwin _ _ _ _ _ _ | .twinRecordTimeout _ _ => [.regs, .tiles, .ten, .log, .fab]
  | .fenceRelease _ _ => [.regs, .tiles, .mem, .ten, .log, .ports, .fab, .freeCount]
  | .memxRead _ _ | .memxWrite _ _ | .memxAccumulateInt32 _ _ | .memxAccumulateFp32 _ _ => [.regs, .tiles, .mesh, .mem, .log]
  | .radioWindowOpen _ | .taskContextRelease _ _ => [.tiles, .mesh, .mem, .ten, .fab]
  | .radioFlitInject _ | .landingWrite _ _ _ _ _ _ _ | .zoneRemoteRead _ _ _ _ _ | .creditedRemoteWrite _ _ _ _ => [.regs, .pads, .mesh, .log]
  | .tenantFlitInject _ => [.regs, .pads, .mesh, .ten, .log]
  | .landingNackReceive _ _ => [.tiles, .mesh]
  | .creditGrantReceive _ _ | .d2dLinkRetrainComplete _ _ => [.mesh]
  | .zoneEnable _ _ _ _ | .zoneRdWrite _ _ _ _ => [.regs, .mesh, .log]
  | .padSweep _ _ _ => [.pads, .log]
  | .tagSweepComplete _ | .heldSweepStart _ => [.pads]
  | .patrolVisit _ _ _ | .regrow _ _ _ => [.regs, .pads, .log]
  | .linkReplay _ => [.regs, .time, .tiles, .mesh, .mem, .ten, .mbx, .cores, .log, .fab, .pci, .out]
  | .lateFrameDiscard _ => [.regs, .mesh, .mem, .log]
  | .postDelivery _ => [.regs, .mesh, .mem, .ten, .mbx, .log, .ports, .fab, .freeCount]
  | .completionRecordDelivery _ => [.tiles, .mesh, .ten, .mbx]
  | .eventRecordWrite _ _ | .sysInfo _ | .sysTime _ | .sysMgrPasid _ | .eventRing _ | .sliceStatus _ | .epochStatus _ | .moultStatus _ => [.mbx, .pci, .out]
  | .taskTimeout _ _ => [.regs, .tiles]
  | .dramLineAccept _ => [.regs, .tiles, .mesh, .mem]
  | .dramLineSlot _ _ _ => [.regs, .mesh, .mem, .ten, .log]
  | .checkLineWriteback _ _ _ => [.mem]
  | .dramRowRepair _ | .memRepairGo _ _ | .memScrubGo _ _ | .bar4Write _ _ _ => [.regs, .mem, .log]
  | .fhFrameReceive _ => [.regs, .ctl, .log, .ports, .radio]
  | .recordFlush _ _ _ => [.radio]
  | .gainDecision _ _ => [.regs, .ctl, .radio]
  | .egressMessagePlace _ _ _ _ => [.regs, .ctl, .ports, .radio]
  | .egressFrameEnqueue _ _ _ | .ttWindowClose _ _ => [.regs, .ports]
  | .egressFrameStart _ => [.regs, .ports, .out]
  | .ttWindowOpen _ _ => [.ports]
  | .portLinkDown _ | .heartTimeout _ => [.regs, .time, .log, .fab, .out]
  | .runEntryDispatch _ => [.regs, .tiles, .ten, .fab, .freeCount]
  | .fabricBulkBurst _ | .krovbemRd _ _ | .krovbemRdx _ _ | .krovbemWr _ _ | .krovbemWb _ _ | .krovbemEv _ _ | .krovbemFwd _ _ | .krovbemInv _ _ | .krovbemData _ _
  | .krovbemAck _ _ | .krovbemNack _ _ _ | .krovbemAccept _ _ | .krovbemHeart _ _ _ | .busyLineRelease _ | .leapfrogRdreq _ | .leapfrogRddata _ | .leapfrogWrite _
  | .leapfrogDone _ | .leapfrogNack _ | .leapfrogKeepalive _ => [.regs, .mem, .ten, .log, .ports, .fab, .freeCount]
  | .sealChunk _ _ => [.regs, .pads, .mem, .ten, .mbx, .log, .pci, .out]
  | .unsealChunk _ => [.regs, .tiles, .pads, .mem, .ten, .mbx, .pci, .out]
  | .thermalReading _ | .pllLockLoss => [.regs, .tiles, .ten, .mbx, .cores, .log, .pci, .out]
  | .gatherJobEnqueue _ _ => [.regs, .ten, .log]
  | .gatherLookup _ | .gatherInstall _ | .gatherEvict _ | .gatherAccumulateInt32 _ | .gatherAccumulateFp32 _ => [.regs, .pads, .mesh, .mem, .ten, .log]
  | .gatherJobComplete _ => [.ten, .mbx]
  | .krovbemBar _ _ _ _ => [.regs, .log, .fab]
  | .clutchRequestTimeout _ _ | .gatewayRequestExpire _ _ | .barrierDecide _ => [.regs, .fab]
  | .memberDead _ => [.regs, .pads, .mesh, .mem, .ten, .ctl, .log, .ports, .fab, .freeCount]
  | .contextMirrorCopy _ _ => [.regs, .mem, .ten, .ctl, .log, .ports, .fab, .freeCount]
  | .gatewayResend _ _ => [.regs, .ports, .fab]
  | .barrierGoDeadline _ | .barrierRelease _ => [.regs, .tiles, .ten, .mbx]
  | .heartbeatWrite _ => [.regs, .cores]
  | .heartbeatTimeout _ => [.tiles, .pads, .mesh, .ten, .ctl, .mbx, .cores, .log, .pci, .out]
  | .slotArm _ _ | .mailboxSlotWrite _ _ _ => [.regs, .mbx]
  | .sliceCreate _ | .sliceAlloc _ | .sliceDelete _ | .cellStage _ | .cellState _ | .streamStage _ | .templateStage _ | .imageStage _ _ | .standbyStage _
  | .shedOrder _ | .stageCheck _ | .stageClear _ | .stageStatus _ | .deviceStageTileSwap _ | .deviceStageFrameOffset _ => [.ctl, .mbx, .pci, .out]
  | .fhSend _ _ => [.regs, .mbx, .ports, .pci, .out]
  | .cellStats _ => [.ctl, .mbx, .pci, .out, .freeCount]
  | .stageCommit _ => [.pads, .mesh, .ctl, .mbx, .pci, .out]
  | .stageCancel _ => [.mesh, .ctl, .mbx, .pci, .out]
  | .epochOpen _ | .epochEndReached | .preemptionTimeout => [.regs, .tiles, .ten, .mbx, .pci, .out]
  | .epochClose _ | .imageLoad _ _ | .epochSuspend _ | .seal _ => [.tiles, .ten, .mbx, .pci, .out]
  | .runSubmit _ | .epochResume _ | .unseal _ | .keyInstall _ | .keyRetire _ | .frtRegister _ _ => [.ten, .mbx, .pci, .out]
  | .keyCurrent _ | .gtableSet _ | .regRead _ => [.regs, .mbx, .pci, .out]
  | .gatherSubmit _ | .hostRequestError _ _ | .hostCompletionTimeout _ => [.regs, .ten, .mbx, .log, .pci, .out]
  | .regionSet _ => [.regs, .mbx, .fab, .pci, .out]
  | .okeySet _ | .lpeerSet _ | .lmapSet _ | .fabSet _ => [.regs, .time, .ten, .mbx, .log, .fab, .pci, .out]
  | .barrierArm _ => [.regs, .ten, .mbx, .fab, .pci, .out]
  | .regWrite _ => [.regs, .time, .pads, .mesh, .mem, .ten, .mbx, .log, .fab, .pci, .out]
  | .memRead _ | .dramRepair _ => [.regs, .mem, .mbx, .log, .pci, .out]
  | .logRead _ => [.mbx, .log, .pci, .out]
  | .imageVerify _ _ | .moultStart _ => [.mbx, .cores, .pci, .out]
  | .recoveryImage _ _ => [.regs, .mbx, .cores, .boot, .pci, .out]
  | .padRegrow _ => [.regs, .pads, .mbx, .log, .pci, .out]
  | .selftest _ => [.mbx, .pci, .tests, .out]
  | .selftestStart _ => [.tests]
  | .selftestComplete _ _ _ => [.pads, .log, .tests]
  | .eyeMarginReport _ _ => [.log]
  | .legTimeout _ _ _ => [.tiles, .pads, .mesh, .mem]
  | .runEntryNoProgress _ => [.tiles, .log]
  | .bootMilestoneMissed _ | .porstRelease | .mainPwrokAssert => [.regs, .boot]
  | .railReading _ _ _ | .coolantReading _ _ => [.regs, .log, .pkg]
  | .bar4Read _ _ | .debugWindowRead _ _ | .tapInstructionLoad _ => [.regs, .mem, .log, .out]
  | .msixUnmask _ | .atsInvalidateRequest _ _ => [.pci, .out]
  | .registerWrite _ _ _ => [.regs, .time, .pads, .mesh, .mem, .ten, .log, .fab, .out]
  | .registerReadClear _ _ => [.regs]
  | .bootStageComplete _ _ _ => [.regs, .time, .pads, .tileMap, .cores, .log, .ports, .boot, .spdm, .board, .out]
  | .ideKmRequest _ _ _ => [.regs, .spdm, .pci, .out]
  | .spdmGetVersion _ | .spdmGetCapabilities _ | .spdmNegotiateAlgorithms _ _ | .spdmGetDigests _ | .spdmGetCertificate _ _ _ _ | .spdmKeyExchange _ _
  | .spdmFinish _ _ _ | .spdmHeartbeat _ _ | .spdmKeyUpdate _ _ | .spdmEndSession _ _ | .spdmChunkSend _ _ _ _ | .spdmChunkGet _ _ | .getPqDigest _
  | .getPqCert _ _ _ => [.regs, .spdm, .out]
  | .spdmChallenge _ _ | .spdmGetMeasurements _ _ _ _ => [.regs, .spdm, .out, .freeCount]
  | .spdmUnsupportedRequest _ _ | .atbMirrorRead => [.regs, .out]
  | .atbTick => [.regs, .time, .tiles, .pads, .mesh, .mem, .ten, .ctl, .mbx, .log, .radio, .fab, .pci, .out, .freeCount]
  | .ppsOutRise | .ppsOutFall => [.time, .out]
  | .scrubComplete => [.regs, .tiles, .mem, .ten, .mbx, .log, .pci, .out]
  | .epochCloseDrainEnd => [.regs, .tiles, .pads, .mesh, .mem, .ten, .fab]
  | .throttleInterval => [.regs, .ten]
  | .cellShedStep => [.pads, .mesh, .ten, .ctl, .log]
  | .isolationMute => [.pads, .mesh, .ctl, .log, .fab]
  | .regionRecallComplete => [.regs, .mem, .ten, .mbx, .log, .ports, .fab, .pci, .out, .freeCount]
  | .stageCommitApply => [.regs, .tiles, .pads, .tileMap, .mesh, .ctl, .mbx, .cores, .log, .ports, .radio, .spdm]
  | .handoverPrepare | .handoverConfirm => [.cores]
  | .m0Moult | .m0WatchdogExpiry => [.regs, .time, .cores, .spdm]
  | .mailboxSweep => [.regs, .mbx, .log, .pci, .out]
  | .porstAssert | .mgmtPwrokLow => [.regs, .time, .tiles, .pads, .tileMap, .mesh, .mem, .ten, .ctl, .mbx, .cores, .log, .ports, .radio, .fab, .boot, .spdm, .pci, .pkg, .tests, .board]
  | .mainPwrokDeassert | .thermtrip => [.regs, .tiles, .pads, .tileMap, .mesh, .mem, .ten, .ctl, .mbx, .cores, .log, .ports, .radio, .fab, .boot, .pci, .tests, .out]
  | .pf0Flr => [.mbx, .pci]
  | .pf1Flr => [.spdm, .pci]
  | .pcieLinkDown | .perstAssert => [.regs, .mbx, .spdm, .pci]
  | .busMasterDisable => [.mbx]
  | .m0RestartComplete => [.regs, .time, .cores, .log, .boot, .out]
  | .spareImageLoaded => [.regs, .pads, .mesh, .ctl, .cores, .log, .boot]
  | .tileSwapCopyComplete => [.ctl]
  | .gatherDirectoryClearComplete => [.ten]

/-- The registers that a command may write, by name; `none` where the command or its operands name any register. -/
def Instr.writes : Instr → Option (List RegName)
  | .memoryFrameBoundary _ _ => some [.memCh, .memEcc]
  | .atbSnap _ _ | .atbMirrorRead => some [.atbSnapF0, .atbSnapF1, .atbSnapMf, .atbSnapNow]
  | .ptpMessageReceive _ => some [.atbFreq, .atbOffset, .atbStat, .atbState, .atbTod]
  | .ptpMessageTransmit _ _ | .esmcInfoTransmit _ | .preemptRestore _ | .radioWindowOpen _ | .landingNackReceive _ _ | .creditGrantReceive _ _ | .padSweep _ _ _
  | .tagSweepComplete _ | .heldSweepStart _ | .d2dLinkRetrainComplete _ _ | .taskContextRelease _ _ | .completionRecordDelivery _ | .eventRecordWrite _ _
  | .contextReclaim _ _ | .checkLineWriteback _ _ _ | .recordFlush _ _ _ | .ttWindowOpen _ _ | .gatherJobComplete _ | .heartbeatTimeout _ | .sysInfo _ | .sysTime _
  | .sysMgrPasid _ | .eventRing _ | .sliceCreate _ | .sliceAlloc _ | .sliceDelete _ | .sliceStatus _ | .cellStage _ | .cellState _ | .streamStage _
  | .templateStage _ | .imageStage _ _ | .standbyStage _ | .shedOrder _ | .cellStats _ | .stageCheck _ | .stageCommit _ | .stageCancel _ | .stageClear _
  | .stageStatus _ | .deviceStageTileSwap _ | .deviceStageFrameOffset _ | .epochClose _ | .imageLoad _ _ | .runSubmit _ | .epochSuspend _ | .epochResume _ | .seal _
  | .unseal _ | .keyInstall _ | .keyRetire _ | .epochStatus _ | .frtRegister _ _ | .logRead _ | .imageVerify _ _ | .moultStart _ | .moultStatus _ | .selftest _
  | .selftestStart _ | .selftestComplete _ _ _ | .eyeMarginReport _ _ | .legTimeout _ _ _ | .runEntryNoProgress _ | .msixUnmask _ | .atsInvalidateRequest _ _
  | .ppsOutRise | .cellShedStep | .isolationMute | .handoverPrepare | .handoverConfirm | .pf0Flr | .pf1Flr | .busMasterDisable | .tileSwapCopyComplete
  | .gatherDirectoryClearComplete | .ppsOutFall => some []
  | .esmcReceive _ | .ptpSourceTimeout | .esmcTimeout | .synceLockLoss | .freqInputOutOfWindow | .ppsEdgeMissing | .m0RestartComplete => some [.atbFreq, .atbStat, .atbState]
  | .ppsInEdge _ | .krovbemTime _ _ _ _ _ => some [.atbFreq, .atbOffset, .atbStat, .atbState]
  | .todFrameReceive _ => some [.atbStat, .atbTod]
  | .seqNop _ _ | .seqSge _ _ | .seqSendRadio _ _ | .seqSendTenant _ _ | .seqCret _ _ | .seqFlags _ _ | .seqPost _ _ | .postFabricRequest _ _ | .fenceL _ _
  | .fenceC _ _ | .fenceG _ _ | .seqEnd _ _ | .memxRead _ _ | .memxWrite _ _ | .memxAccumulateInt32 _ _ | .memxAccumulateFp32 _ _ | .taskTimeout _ _ | .seqPadop _ _
  | .radioWindowClose _ => some [.schFault, .schStat]
  | .seqPass _ _ => some [.arrFault, .schFault, .schStat]
  | .passStart _ _ => some [.arrFault, .schStat, .tenStat]
  | .preemptFreeze _ | .tileSwapTenantSuspend => some [.arrPreempt, .tenMeter]
  | .arrayParityError _ _ _ _ => some [.arrFault]
  | .arrPark _ _ => some [.arrCtrl]
  | .sgeNop _ | .setxl _ | .setxh _ | .xop _ _ | .rep _ | .clracc _ | .ldtb _ _ | .add _ _ | .sub _ _ | .mul _ _ | .mla _ _ | .mls _ _ | .mac _ _ | .macc _ _
  | .accout _ _ | .min _ _ | .max _ _ | .abs _ _ | .shr _ _ | .and _ _ | .or _ _ | .xor _ _ | .cmp _ _ | .sel _ _ | .bxd _ _ | .norm _ _ | .expx _ _
  | .msstepForward _ _ | .msstepBackward _ _ | .rotz _ _ | .zip _ _ | .unzip _ _ | .perm _ _ | .bgath _ _ | .luti _ _ | .bfpd _ _ | .bfpc _ _ | .pkfl _ _ | .cvt _ _
    => some [.sgeFault, .sgeIcount]
  | .sgePark _ _ => some [.sgeCtrl]
  | .sgeFlagsClear _ _ _ => some [.sgeFlags]
  | .cmpcnt _ | .cmpinc _ => some [.padOpfault]
  | .seqKbnd _ _ => some [.arrHash, .fabTwin, .schFault, .schStat]
  | .fenceRelease _ _ | .postDelivery _ | .fabricBulkBurst _ | .krovbemRd _ _ | .krovbemRdx _ _ | .krovbemWr _ _ | .krovbemWb _ _ | .krovbemEv _ _ | .krovbemFwd _ _
  | .krovbemInv _ _ | .krovbemData _ _ | .krovbemAck _ _ | .krovbemNack _ _ _ | .krovbemAccept _ _ | .busyLineRelease _ | .contextMirrorCopy _ _
    => some [.fabStat, .fabStat2, .fhpTxstat, .memCh, .memChk, .memEcc]
  | .radioFlitInject _ | .tenantFlitInject _ | .zoneRemoteRead _ _ _ _ _ | .patrolVisit _ _ _ | .regrow _ _ _ | .padRegrow _ => some [.padEcc]
  | .landingWrite _ _ _ _ _ _ _ | .zoneEnable _ _ _ _ | .zoneRdWrite _ _ _ _ | .runEntryDispatch _ | .creditedRemoteWrite _ _ _ _ | .gatherLookup _
  | .gatherInstall _ | .gatherEvict _ | .gatherAccumulateInt32 _ | .gatherAccumulateFp32 _ | .krovbemBar _ _ _ _ | .gatewayRequestExpire _ _ | .leapfrogRddata _
  | .leapfrogDone _ | .leapfrogNack _ | .barrierDecide _ | .barrierGoDeadline _ | .barrierRelease _ | .barrierArm _ | .regRead _ | .regWrite _
  | .debugWindowRead _ _ | .registerWrite _ _ _ | .registerReadClear _ _ | .tapInstructionLoad _ | .atbTick | .porstAssert | .mgmtPwrokLow | .mainPwrokDeassert
  | .thermtrip => none
  | .linkReplay _ | .heartTimeout _ => some [.atbFreq, .atbStat, .atbState, .fabPeer]
  | .lateFrameDiscard _ => some [.schStat]
  | .schPark _ _ => some [.schCtrl]
  | .dramLineAccept _ => some [.memStat]
  | .dramLineSlot _ _ _ | .dramRowRepair _ => some [.memCh, .memChk, .memEcc]
  | .memRepairGo _ _ | .dramRepair _ => some [.memCh]
  | .memScrubGo _ _ => some [.memScrub]
  | .fhFrameReceive _ => some [.fhpMisc, .fhpRxstat, .fhpStatus, .fhpTxstat, .radStat, .radStat2]
  | .gainDecision _ _ => some [.radFgain]
  | .egressMessagePlace _ _ _ _ => some [.fhpTxstat, .radStat2]
  | .egressFrameEnqueue _ _ _ | .egressFrameStart _ | .ttWindowClose _ _ | .fhSend _ _ => some [.fhpTxstat]
  | .portLinkUp _ => some [.fhpMisc, .fhpStatus, .pkgClk]
  | .portLinkDown _ => some [.atbFreq, .atbStat, .atbState, .fabPeer, .fhpMisc, .fhpStatus]
  | .sealChunk _ _ => some [.memCh, .memChk, .memEcc, .padEcc, .tenStat]
  | .unsealChunk _ => some [.memEcc, .tenGtab]
  | .thermalReading _ => some [.pkgTemp, .tenPwr, .tenTherm]
  | .gatherJobEnqueue _ _ | .gatherSubmit _ => some [.tenGstat]
  | .krovbemHeart _ _ _ | .memberDead _ => some [.fabPeer, .fabStat, .fabStat2, .fhpTxstat, .memCh, .memChk, .memEcc]
  | .krovbemTwin _ _ _ _ _ _ | .twinRecordTimeout _ _ | .twinMismatchClear _ _ => some [.fabTwin]
  | .clutchRequestTimeout _ _ => some [.fabPeer, .fabStat2]
  | .gatewayResend _ _ => some [.fabStat2, .fhpTxstat]
  | .leapfrogRdreq _ | .leapfrogWrite _ | .leapfrogKeepalive _ => some [.fabStat, .fabStat2, .fhpMisc, .fhpRxstat, .fhpStatus, .fhpTxstat, .memCh, .memChk, .memEcc]
  | .heartbeatWrite _ | .spareImageLoaded => some [.ctlHb]
  | .slotArm _ _ | .mailboxSlotWrite _ _ _ | .mailboxSweep => some [.mbxStat]
  | .epochOpen _ => some [.arrSave, .tenEnd]
  | .keyCurrent _ => some [.tenKeys]
  | .gtableSet _ => some [.tenGtab]
  | .regionSet _ => some [.fabReg, .fabStat2]
  | .okeySet _ => some [.atbCtrl, .atbFreq, .atbStat, .atbState, .fabCtrl, .fabOkey, .fabReg, .fabStat2, .tenEnd]
  | .lpeerSet _ => some [.atbCtrl, .atbFreq, .atbStat, .atbState, .fabCtrl, .fabLpeerA, .fabLpeerB, .fabLpeerC, .fabReg, .fabStat2, .tenEnd]
  | .lmapSet _ => some [.atbCtrl, .atbFreq, .atbStat, .atbState, .fabCtrl, .fabLmap, .fabReg, .fabStat2, .tenEnd]
  | .fabSet _ => some [.atbCtrl, .atbFreq, .atbStat, .atbState, .fabCtrl, .fabGw, .fabReg, .fabStat2, .tenEnd]
  | .memRead _ => some [.memCh, .memChk, .memEcc, .memStat]
  | .recoveryImage _ _ | .bootMilestoneMissed _ => some [.secStatus]
  | .railReading _ _ _ => some [.pkgRail, .pkgStat, .pkgStatus]
  | .coolantReading _ _ => some [.pkgCool, .pkgStat, .tenTherm]
  | .bar4Read _ _ | .bar4Write _ _ _ => some [.memCh, .memChk, .memEcc, .memStat, .pciStat]
  | .ideUnprotectedTlp _ => some [.pciStat]
  | .pcieLinkRetrain _ _ _ => some [.pciStat, .pciStatus, .pkgClk]
  | .hostRequestError _ _ | .hostCompletionTimeout _ => some [.mbxStat, .pciStat]
  | .bootStageComplete _ _ _ => some [.atbTscorr, .fabClink, .fabPeer, .fhpCfg, .fhpQ, .fhpTxstat, .pciStatus, .pkgClk, .pkgCool, .pkgRail, .pkgStat, .pkgStatus, .secStatus, .tenTherm]
  | .ideKmRequest _ _ _ | .spdmGetVersion _ | .spdmGetCapabilities _ | .spdmNegotiateAlgorithms _ _ | .spdmGetDigests _ | .spdmGetCertificate _ _ _ _
  | .spdmChallenge _ _ | .spdmGetMeasurements _ _ _ _ | .spdmKeyExchange _ _ | .spdmFinish _ _ _ | .spdmHeartbeat _ _ | .spdmKeyUpdate _ _ | .spdmEndSession _ _
  | .spdmChunkSend _ _ _ _ | .spdmChunkGet _ _ | .getPqDigest _ | .getPqCert _ _ _ | .spdmUnsupportedRequest _ _ => some [.secSpdm]
  | .holdoverLimitExceeded => some [.atbState]
  | .scrubComplete => some [.tenEnd]
  | .epochEndReached | .preemptionTimeout => some [.tenStat]
  | .epochCloseDrainEnd => some [.memScrub, .tenGtab, .tenKeys]
  | .throttleInterval => some [.tenPwr]
  | .regionRecallComplete => some [.fabReg, .fabStat, .fabStat2, .fhpTxstat, .memCh, .memChk, .memEcc]
  | .stageCommitApply => some [.atbFrameOffset, .ctlHb, .ctlLast, .ctlLastset, .ctlRole, .fhpQ, .fhpTtw, .fhpTxstat, .padLzCfg, .radAsm, .radFact, .radFgain, .radFkey, .radFtime, .tenPwr]
  | .m0Moult | .m0WatchdogExpiry => some [.atbFreq]
  | .pllLockLoss => some [.pkgClk]
  | .porstRelease => some [.pkgClk, .pkgStatus]
  | .pcieLinkDown | .perstAssert => some [.pciStatus]
  | .mainPwrokAssert => some [.pkgStatus]
  | .freqInputQualified => some [.atbStat]

/-- A command's frame: the components that it may not change are as before, and so is every register that it may not write. -/
def Instr.frame (c : Instr) (s u : State) : Prop :=
  (∀ k, k ∉ c.changes → k.same s u) ∧ ∀ l, c.writes = some l → ∀ r : Reg, r.name ∉ l → u.rget r = s.rget r

/-- The tile whose units a command of a sequencer, an array or an engine drives. -/
def Instr.tile : Instr → Option LTile
  | .seqNop t _ | .seqPass t _ | .arrayParityError t _ _ _ | .arrPark t _ | .seqSge t _ | .sgeNop t | .setxl t | .setxh t | .xop t _ | .rep t | .clracc t
  | .ldtb t _ | .add t _ | .sub t _ | .mul t _ | .mla t _ | .mls t _ | .mac t _ | .macc t _ | .accout t _ | .min t _ | .max t _ | .abs t _ | .shr t _ | .and t _
  | .or t _ | .xor t _ | .cmp t _ | .sel t _ | .bxd t _ | .norm t _ | .expx t _ | .msstepForward t _ | .msstepBackward t _ | .rotz t _ | .zip t _ | .unzip t _
  | .perm t _ | .bgath t _ | .luti t _ | .bfpd t _ | .bfpc t _ | .pkfl t _ | .cvt t _ | .sgePark t _ | .sgeFlagsClear t _ _ | .cmpcnt t | .cmpinc t
  | .seqSendRadio t _ | .seqSendTenant t _ | .seqCret t _ | .seqFlags t _ | .seqPost t _ | .postFabricRequest t _ | .fenceL t _ | .fenceC t _ | .fenceG t _
  | .seqEnd t _ | .memxRead t _ | .memxWrite t _ | .memxAccumulateInt32 t _ | .memxAccumulateFp32 t _ | .schPark t _ | .seqPadop t _ => some t
  | _ => none

/-- The commands that may write lines of the external memory. -/
def Instr.stores : Instr → Bool
  | .memoryFrameBoundary _ _ | .fenceRelease _ _ | .postDelivery _ | .dramLineSlot _ _ _ | .fabricBulkBurst _ | .unsealChunk _ | .krovbemRd _ _ | .krovbemRdx _ _
  | .krovbemWr _ _ | .krovbemWb _ _ | .krovbemEv _ _ | .krovbemFwd _ _ | .krovbemInv _ _ | .krovbemData _ _ | .krovbemAck _ _ | .krovbemNack _ _ _
  | .krovbemAccept _ _ | .krovbemHeart _ _ _ | .busyLineRelease _ | .memberDead _ | .contextMirrorCopy _ _ | .leapfrogRdreq _ | .leapfrogRddata _ | .leapfrogWrite _
  | .leapfrogDone _ | .leapfrogNack _ | .leapfrogKeepalive _ | .bar4Write _ _ _ | .atbTick | .regionRecallComplete | .porstAssert | .mgmtPwrokLow
  | .mainPwrokDeassert | .thermtrip => true
  | _ => false

end Sys2Proof
end

