-- ==== Sys2Proof/Certificates/Slice0/Obligations.lean ====
section
/-!
DEFINITION. The statements for the provers. `Ends c s p` says that the command completes in a next state with property p.
-/
open Sys2Proof Sys2Proof.Machine

/-! ## The queue -/

/-- A step takes the command at the front of the queue and is `exec` of it with the queue's rest; an empty queue idles
(log entry 34). -/
def Obligations.StepRunsFront : Prop :=
  (∀ (c : Instr) (rest : List Instr) (s : State), step { s with pending := c :: rest } = exec c { s with pending := rest })
  ∧ ∀ s : State, s.pending = [] → step s = .next s

/-! ## The time base -/

/-- What each time command does, where it applies. -/
def Obligations.TimeCompletes : Prop :=
  (∀ s bad retrain, s.mfStart s.now = true → s.boot.dies = false →
    Ends (.memoryFrameBoundary bad retrain) s fun u => ∀ k : Fin 160, u.fget (creg .memCh k.val) 12 12 = if k ∈ retrain then 1 else 0)
  ∧ (∀ s value, bit value 0 = true → Ends (.atbSnap .m0 value) s fun u =>
      u.rget (creg .atbSnapNow) = s.now ∧ u.rget (creg .atbSnapF0) = snapFields true (s.off s.now)
      ∧ u.rget (creg .atbSnapF1) = snapFields false (s.off s.now) ∧ u.rget (creg .atbSnapMf) = snapMf (s.off s.now))
  ∧ (∀ s, Ends .atbMirrorRead s fun u => u.rget (creg .atbSnapNow) = s.now ∧ u.out = .hostData (toBytes s.now 8) :: s.out)
  ∧ (∀ s port k, ptpMaySend port k s = true →
      Ends (.ptpMessageTransmit port k) s fun u => u.out = .ptp port k s.mcast (ptpStamp port k s) :: s.out)
  ∧ (∀ s port, s.board.synce.getLsbD port.val = true → s.time.src.paused = false →
      Ends (.esmcInfoTransmit port) s fun u => u.out = .esmc port (s.portQl port) false :: s.out)
  ∧ (∀ s, ppsDue s = true → Ends .ppsOutRise s fun u => u.time.ppsOut = true ∧ u.time.ppsRose = s.now ∧ u.out = .ppsOut true :: s.out)
  ∧ (∀ s, s.time.ppsOut = true → (s.now - s.time.ppsRose).toNat = 196608000 →
      Ends .ppsOutFall s fun u => u.time.ppsOut = false ∧ u.out = .ppsOut false :: s.out)
  ∧ (∀ s, limitExceeded s = true → Ends .holdoverLimitExceeded s fun u => u.fget (creg .atbState) 9 9 = 1)

/-- What the time and frequency sources do (R43-R46, R52). -/
def Obligations.SourcesComplete : Prop :=
  (∀ s m cls utc l61 l59 tt ft d, s.time.src.paused = false → m.domain.toNat = s.fget (creg .atbCtrl) 39 32 → s.tsrc = 1 →
    m.port.val = s.slavePort → m.body = .announce cls utc l61 l59 tt ft d → acceptable cls = true →
    let known := (s.time.src.masters.find? fun x => decide (x.port = m.port ∧ x.sender = m.sender)).filter s.fresh
    let n := (known.map Master.count).getD 0
    Ends (.ptpMessageReceive m) s fun u =>
      (∃ x ∈ u.time.src.masters, x.port = m.port ∧ x.sender = m.sender ∧ x.dataSet = d ∧ x.last = s.now ∧ x.count = Nat.min 3 (n + 1))
      ∧ (2 ≤ n → u.time.src.timeOk = true)
      ∧ ((∀ y ∈ s.time.src.masters, y.port = m.port → y.sender = m.sender) → (s.time.src.selected = none ∨ s.time.src.selected = some m.sender) →
          u.rget (creg .atbTod) = (s.setTod utc l61 l59 tt ft cls).rget (creg .atbTod)
          ∧ (2 ≤ n → u.time.src.selected = some m.sender ∧ u.time.src.lastAnnounce = s.now)))
  ∧ (∀ s x, ptpTimedOut s = true → s.altMaster = some x → Ends .ptpSourceTimeout s fun u => u.time.src.selected = some x.sender
      ∧ u.time.src.lastAnnounce = x.last ∧ u.fget (creg .atbState) 7 7 = (if bit (s.rget (creg .atbState)) 7 then 0 else 1))
  ∧ (∀ s, ptpTimedOut s = true → s.altMaster = none → Ends .ptpSourceTimeout s fun u => u.time.src.timeOk = false ∧ u.fget (creg .atbState) 6 4 = 0)
  ∧ (∀ s ql, s.time.src.paused = false → Ends (.esmcReceive (some ql)) s fun u =>
      u.time.src.rxQl = ql ∧ u.time.src.lastEsmc = s.now ∧ u.time.src.synceOk = decide (ql ≠ .dnu))
  ∧ (∀ s, esmcTimedOut s = true → Ends .esmcTimeout s fun u => u.time.src.synceOk = false)
  ∧ (∀ s, s.time.src.synceOk = true → s.time.src.paused = false → Ends .synceLockLoss s fun u => u.time.src.synceOk = false)
  ∧ (∀ s, s.time.src.tenMhzOk = true → s.time.src.paused = false → Ends .freqInputOutOfWindow s fun u => u.time.src.tenMhzOk = false)
  ∧ (∀ s, s.time.src.tenMhzOk = false → s.time.src.paused = false → Ends .freqInputQualified s fun u => u.time.src.tenMhzOk = true)
  ∧ (∀ s ts16 sec, s.tsrc = 2 → s.time.src.paused = false → s.ppsExpected = true → s.time.src.todSeconds = some sec →
      Ends (.ppsInEdge ts16) s fun u => u.time.src.todSeconds = some (sec + 1) ∧ u.time.src.todFresh = false
        ∧ (s.time.src.todFresh = true → u.time.src.ppsBad = 0))
  ∧ (∀ s, s.tsrc = 2 → s.time.src.paused = false → s.ppsOverdue = true →
      Ends .ppsEdgeMissing s fun u => u.time.src.todSeconds = s.time.src.todSeconds.map (· + 1) ∧ u.time.src.todFresh = false)
  ∧ (∀ s frame, s.time.src.paused = false → Ends (.todFrameReceive frame) s fun u =>
      if todGood frame ∧ s.todInTime then u.time.src.todSeconds = some (beNat (slice frame 4 6)) ∧ u.time.src.todFresh = true
      else u.rget (creg .atbStat) = satAdd (s.rget (creg .atbStat)) 63 48 1)

/-! ## The sequencer -/

/-- The unit operations of the sequencer: each leaves for its unit, to start no earlier than two cycles on (R209). -/
def Obligations.UnitOpsIssue : Prop :=
  ∀ s t c k i w, s.issues t c k i w →
    (seqOp w = 0x00 → Ends (.seqNop t c) s fun u => s.went u t c k fun _ => (u.tiles.get t).issued = true)
    ∧ (seqOp w = 0x01 → ∀ d a, s.passDesc k (seqArg w % 65536) = some (d, a) → dPart d < 7 →
        Ends (.seqPass t c) s fun u => (s.went u t c k fun _ => True)
          ∧ ∃ q ∈ (u.arr t).pend, q.ctx = c ∧ q.part.val = dPart d ∧ q.radio = k.radio ∧ q.idx = seqArg w % 65536 ∧ q.earliest = s.now + 2)
    ∧ (seqOp w = 0x02 → Ends (.seqSge t c) s fun u => (s.went u t c k fun _ => True)
          ∧ ∃ b ∈ (u.eng t).pend, b.ctx = c ∧ b.radio = k.radio ∧ b.todo = sgeWords i w ∧ b.earliest = s.now + 2)
    ∧ (seqOp w = 0x03 → ∀ d, i.padops[seqArg w % 65536]? = some d → Ends (.seqPadop t c) s fun u => (s.went u t c k fun _ => True)
          ∧ ∃ o ∈ (u.cmp t).pend, o.ctx = c ∧ o.owner = k.owner ∧ o.desc = d ∧ o.earliest = s.now + 2)

/-- The other operations of the sequencer (R209-R212, R382, R385). -/
def Obligations.ControlOpsIssue : Prop :=
  ∀ s t c k i w, s.issues t c k i w →
    (seqOp w = 0x05 → Ends (.seqCret t c) s fun u => (s.went u t c k fun _ => True)
      ∧ (s.now + 1, Later.cret (fin 16 (seqArg w)) (seqArg w / 16)) ∈ (u.tiles.get t).later)
    ∧ (seqOp w = 0x06 → Ends (.seqFlags t c) s fun u => (s.went u t c k fun _ => True)
      ∧ (s.now + 1, Later.flags c (rowOf (k.base + seqArg w))) ∈ (u.tiles.get t).later)
    ∧ (seqOp w = 0x08 → isFabricPost k w = false → Ends (.seqPost t c) s fun u => (s.went u t c k fun _ => True)
      ∧ ∃ f ∈ u.mesh.flits, f.due = s.now + 65 ∧ f.payload = .post t c k.owner k.entry k.recIdx k.kernel (BitVec.ofNat 16 (seqArg w))
          (k.sat.toNat + 2 * k.nan.toNat + 4 * k.poison.toNat))
    ∧ (seqOp w = 0x08 → isFabricPost k w = true → Ends (.postFabricRequest t c) s fun u => (s.went u t c k fun _ => True)
      ∧ (∃ f ∈ u.mesh.flits, f.due = s.now + 65 ∧ f.payload = .post t c k.owner k.entry k.recIdx k.kernel (BitVec.ofNat 16 (seqArg w))
          (k.sat.toNat + 2 * k.nan.toNat + 4 * k.poison.toNat))
      ∧ tget 0 u.ten.frtBusy (8 * t.val + c.val) = tget 0 s.ten.frtBusy (8 * t.val + c.val) + 1)
    ∧ (seqOp w = 0x09 → Ends (.seqKbnd t c) s fun u => (s.went u t c k fun k' =>
        k'.kernel = BitVec.ofNat 32 (seqArg w) ∧ k'.hashes = (List.range 4).map (fun q => s.rget (treg .arrHash t q)))
      ∧ ∀ q < 4, u.rget (treg .arrHash t q) = 0)
    ∧ (seqOp w = 0x0A → seqArg w = 0 → Ends (.fenceL t c) s fun u => s.went u t c k fun k' => k'.fence = some 0)
    ∧ (seqOp w = 0x0A → seqArg w = 1 → Ends (.fenceC t c) s fun u => s.went u t c k fun k' => k'.fence = some 1)
    ∧ (seqOp w = 0x0A → seqArg w = 2 → Ends (.fenceG t c) s fun u => s.went u t c k fun k' => k'.fence = some 2)
    ∧ (seqOp w = 0x0F → Ends (.seqEnd t c) s fun u => s.went u t c k fun k' => k'.ended = some 0 ∧ k'.endedAt = s.now)

/-- Sends and memory transfers (R194, R207, R221, R243-R247). -/
def Obligations.TransfersIssue : Prop :=
  ∀ s t c k i w, s.issues t c k i w →
    (∀ d a, i.sends[seqArg w % 65536]? = some d → k.span (sdAddr d) (256 * sdUnits d) = some a →
      (sendIs s false k w = true → k.failed = false → Ends (.seqSendRadio t c) s fun u => (s.went u t c k fun _ => True)
        ∧ ∃ q, u.mesh.radioQ = enq s.mesh.radioQ q ∧ q.flow = .declared (fin 64 k.owner) (sdFlow d) ∧ q.addr = a ∧ q.left = sdUnits d
          ∧ q.unit = BitVec.ofNat 32 (tget 0 (s.tiles.get t).units (unitKey c (sdDest d) (sdZone d))) ∧ q.earliest = s.now + 1)
      ∧ (sendIs s true k w = true → Ends (.seqSendTenant t c) s fun u => (s.went u t c k fun _ => True)
        ∧ u.mesh.xfers.length = s.mesh.xfers.length + ceilDiv (sdUnits d) 16
        ∧ ∀ j < ceilDiv (sdUnits d) 16, ∃ x ∈ u.mesh.xfers, x.tile = t ∧ x.ctx = c ∧ x.addr = a + 4096 * j ∧ x.left = Nat.min 16 (sdUnits d - 16 * j)))
    ∧ ∀ d a p, i.memxs[seqArg w % 65536]? = some d → memxAddr k d = some a → k.span (mxPad d) (64 * mxLines d) = some p →
      (k.radio = true → (s.planMemx k (seqArg w % 65536) d).isSome = true) →
      let here (u : State) : Prop := (s.went u t c k fun _ => True) ∧ ∃ m ∈ u.mem.memx, m.tile = t ∧ m.ctx = c ∧ m.addr = a ∧ m.pad = p ∧ m.lines = mxLines d
        ∧ m.op = fin 4 (mxOp d) ∧ m.radio = k.radio ∧ m.done = 0
      (memxIs s 0 k w = true → Ends (.memxRead t c) s here) ∧ (memxIs s 1 k w = true → Ends (.memxWrite t c) s here)
      ∧ (memxIs s 2 k w = true → Ends (.memxAccumulateInt32 t c) s here) ∧ (memxIs s 3 k w = true → Ends (.memxAccumulateFp32 t c) s here)

/-- Windows, contexts and their ends (R200, R201, R212, R217, R225, R472, R475, R545). -/
def Obligations.ContextsComplete : Prop :=
  (∀ s t w close i r k, s.opening t = some (w, close) → s.imageAt s.now w.slice = some i → i.recs[winTask w.entry]? = some r →
    bit (s.rget (treg .schCtrl t)) 0 = false →
    startTask r (winTask w.entry) (.slice w.slice) w.slice.val (tget (0, 0) (s.tiles.get t).alloc w.slice.val).1
      (tget (0, 0) (s.tiles.get t).alloc w.slice.val).2 (s.ctl.slices.get w.slice).win0 (s.ctl.slices.get w.slice).win1 s.now = some k →
    Ends (.radioWindowOpen t) s fun u => u.ctx t (fin 8 (recCtx r)) = some { k with opens := s.now, closes := close } ∧ (u.eng t).owner = some w.slice.val)
  ∧ (∀ s t c k w, s.ctx t c = some k → s.nextOp k = some w → k.radio = true → k.ended = none → s.now + 1 = k.closes →
      k.closes ≤ k.last + BitVec.ofNat 64 (seqDelta w) →
      Ends (.radioWindowClose t) s fun u => ∃ k', u.ctx t c = some k' ∧ k'.ended = some 12 ∧ k'.endedAt = s.now)
  ∧ (∀ s t c k, s.ctx t c = some k → k.radio = false → k.ended = none → k.dropped = false → k.timeout ≤ k.timer →
      Ends (.taskTimeout t c) s fun u => ∃ k', u.ctx t c = some k' ∧ k'.ended = some 5 ∧ k'.dropped = true)
  ∧ (∀ s t c k, s.ctx t c = some k → k.dropped = false → s.reclaimDue t c = true →
      Ends (.contextReclaim t c) s fun u => ∃ k', u.ctx t c = some k' ∧ k'.ended = some 11 ∧ k'.dropped = true)
  ∧ (∀ s t c k n, s.ctx t c = some k → k.ended = some n → s.releasable t c = true →
      Ends (.taskContextRelease t c) s fun u => u.ctx t c = none ∧ ∃ f ∈ u.mesh.flits, f.due = s.now + 65 ∧ f.payload =
        .done t k.owner k.entry k.recIdx (k.sat.toNat + 2 * k.nan.toNat + 4 * k.poison.toNat) k.kernel n k.started k.endedAt)
  ∧ (∀ s t a, mayTile a t = true → Ends (.schPark t a) s fun u => u.fget (treg .schCtrl t) 0 0 = 1)
  ∧ (∀ s t a, mayTile a t = true → Ends (.arrPark t a) s fun u => u.fget (treg .arrCtrl t) 1 1 = 1)

/-! ## The matrix arrays -/

/-- A pass that nothing holds starts in this cycle; freezes and restores begin as R80-R82 and R338 have them; a parity
error is counted for its quarter and poisons its pass (R62, R68, R71, R79, R85, R86). -/
def Obligations.ArrayCompletes : Prop :=
  (∀ s t part q k d ptr, ((s.arr t).pend.find? fun p => decide (p.part = part)) = some q → s.ctx t q.ctx = some k →
    s.passDesc k q.idx = some (d, ptr) → s.now = (s.arr t).readyAt q (dChain d) → s.fget (treg .arrCtrl t) 1 1 = 0 → (s.arr t).free part.val (dChain d) = true →
    (k.radio = true ∨ (s.tenantStopped t = false ∧ s.passHeld t d = false ∧ s.passThrottled t part.val = false)) →
    dFault k q.ctx (tfind (lastKey q.radio part.val) (s.arr t).last) d = none →
    Ends (.passStart t part) s fun u => ∃ p ∈ (u.arr t).run, p.part = part ∧ p.ctx = q.ctx ∧ p.owner = k.owner ∧ p.radio = k.radio ∧ p.desc = d
      ∧ p.descPtr = ptr ∧ p.start = s.now ∧ p.kc = dKc d ∧ p.cyc = 0 ∧ p.poison = false)
  ∧ (∀ s t closes, (s.arr t).freeze = none → (s.arr t).run.any Pass.freezable = true →
    (s.ten.suspendAt = some s.now ∧ closes = none
      ∨ s.ten.suspendAt ≠ some s.now ∧ ∃ o c, s.nextSpan t s.now = some (o, c) ∧ o - s.now = 160 ∧ closes = some c) →
    Ends (.preemptFreeze t) s fun u => (∃ f, (u.arr t).freeze = some f ∧ f.start = s.now ∧ f.closes = closes ∧ f.restore = none)
      ∧ (u.arr t).run.any Pass.freezable = false ∧ u.ten.freezes = s.ten.freezes + 1)
  ∧ (∀ s t f, (s.arr t).freeze = some f → f.restore = none → 129 ≤ (s.now - f.start).toNat →
    (f.closes = some s.now ∨ f.closes = none ∧ s.resumeDue t = true) →
    Ends (.preemptRestore t) s fun u => (u.arr t).freeze = some { f with restore := some s.now })
  ∧ ∀ s t kind (row col : Fin 128), let q := quarterOf row.val col.val
    let i := interval s.now 1
    let old := tget (i, 0) (s.arr t).parity q
    Ends (.arrayParityError t kind row col) s fun u =>
      tfind q (u.arr t).parity = some (i, if old.1 = i then old.2 + 1 else 1)
      ∧ ∀ p, let on := (s.arr t).run.filter fun p => coversQ p.part.val q
          (if kind = .cell then on.head? else on.getLast?) = some p →
          ∃ p' ∈ (u.arr t).run, p'.part = p.part ∧ p'.start = p.start ∧ p'.desc = p.desc ∧ p'.poison = true

/-! ## The Signal Engine and the compare unit -/

/-- Every engine command issues the instruction at the head of the engine's block where it is that command's, its cycle has
come, its fields and bank rows hold and no write port is taken: the instruction is on its way with the operands of its issue
cycle, its results due in cycle c + L - 1, and the next may issue after its interval (R112-R120, R125, R140-R143). -/
def Obligations.EngineIssues : Prop :=
  ∀ s t p w c b started idx inRep rest k, engineCmd t p w = some c → (s.eng t).head = some (b, started) → b.todo = (idx, w, inRep) :: rest →
    s.ctx t b.ctx = some k → s.now = later b.earliest (s.eng t).next → s.engBlocked t b started = false →
    wordOk w = true → ¬ (opOf w = 4 ∧ inRep = true) →
    let plan := engPlan (s.eng t) b.ctx w (if opOf w = 0x34 then s.freeCount else 0)
    plan.inWindow k = true → (s.eng t).clash w (s.engDue w) = false →
    Ends c s fun u => (∃ f ∈ (u.eng t).flight, f.ctx = b.ctx ∧ f.owner = k.owner ∧ f.radio = k.radio ∧ f.word = w ∧ f.index = idx
        ∧ f.due = s.now + BitVec.ofNat 64 (latOf w - 1) ∧ f.poison = p ∧ f.ins = plan.ins ∧ f.stage = plan.stage ∧ f.mss = (s.eng t).mss ∧ f.bankD = (if plan.wr then bankAt k plan.ops.d else none))
      ∧ (u.eng t).next = s.now + BitVec.ofNat 64 (issOf w) ∧ u.rget (treg .sgeIcount t) = satAdd (s.rget (treg .sgeIcount t)) 47 0 1

/-- PARK of the engine, and a write of SGE_FLAGS (R143). -/
def Obligations.EngineControlCompletes : Prop :=
  (∀ s t a, mayTile a t = true → Ends (.sgePark t a) s fun u => u.rget (treg .sgeCtrl t) = putBits (s.rget (treg .sgeCtrl t)) 0 0 1)
  ∧ (∀ s t a value, mayTile a t = true → Ends (.sgeFlagsClear t a value) s fun u =>
      u.fget (treg .sgeFlags t) 0 0 = (if bit value 0 then 0 else s.fget (treg .sgeFlags t) 0 0))

/-- What the lane-wise integer operations give in each lane of INT8 and INT16 mode (R122, R125): ADD and SUB saturate, or
wrap with IMM[15] = 1; MIN, MAX, ABS, AND, OR and XOR. -/
def Obligations.EngineLanes : Prop :=
  ∀ (w : W64) (i : EngIn) (n : Nat), let m := partW (modeOf w)
    modeOf w < 2 → n < 4096 / m →
    let x := (lane i.s1 m n).toInt
    let y := (lane i.s2 m n).toInt
    let h : Int := 2 ^ (m - 1)
    ∀ v, (engCompute w i).vec = some v →
      (opOf w = 0x10 → (lane v m n).toInt = if immOf w / 32768 % 2 = 1 then (BitVec.ofInt m (x + y)).toInt else sat (x + y) (-h) (h - 1))
      ∧ (opOf w = 0x11 → (lane v m n).toInt = if immOf w / 32768 % 2 = 1 then (BitVec.ofInt m (x - y)).toInt else sat (x - y) (-h) (h - 1))
      ∧ (opOf w = 0x18 → (lane v m n).toInt = if x < y then x else y)
      ∧ (opOf w = 0x19 → (lane v m n).toInt = if x < y then y else x)
      ∧ (opOf w = 0x1A → (lane v m n).toInt = sat (x.natAbs : Int) (-h) (h - 1))
      ∧ (opOf w = 0x1B → (lane v m n).toInt = x / (2 : Int) ^ (immOf w % 16))
      ∧ (opOf w = 0x1C → lane v m n = lane i.s1 m n &&& lane i.s2 m n)
      ∧ (opOf w = 0x1D → lane v m n = lane i.s1 m n ||| lane i.s2 m n)
      ∧ (opOf w = 0x1E → lane v m n = lane i.s1 m n ^^^ lane i.s2 m n)

/-- An instruction's result is written in its cycle: the vector to register D, and nothing else of the vector registers
where the instruction writes no S3 (R115, R119); what BFPC and PKFL leave in the pack stage as they stood at issue (R115, R139). -/
def Obligations.EngineWritesBack : Prop :=
  (∀ (s : State) t (f : Flight) v, f.poison = false → (∀ op ∈ [0x33, 0x38, 0x3A, 0x3B, 0x3C], opOf f.word ≠ op) → (engCompute f.word f.ins).vec = some v →
    (engCompute f.word f.ins).s3 = none → ∀ n : Fin 32,
      ((s.engResult t f).eng t).v.get n = if dOf f.word = n.val then v else (s.eng t).v.get n)
  ∧ (∀ (s : State) t (f : Flight), f.poison = false → opOf f.word = 0x3B →
      let r := bfpcStage f.stage (bfpcBytes (bfpW f.ins (immOf f.word)) (bfpP (immOf f.word)) f.ins.s1)
      ((s.engResult t f).eng t).pack = r.1 ∧ ((s.engResult t f).eng t).packOf = some f.ctx
      ∧ ∀ n : Fin 32, ((s.engResult t f).eng t).v.get n = if dOf f.word = n.val then r.2.getD ((s.eng t).v.get n) else (s.eng t).v.get n)
  ∧ ∀ (s : State) t (f : Flight), f.poison = false → opOf f.word = 0x3C → ((s.engResult t f).eng t).pack = []
      ∧ ∀ n : Fin 32, ((s.engResult t f).eng t).v.get n = if dOf f.word = n.val then vecOf f.stage else (s.eng t).v.get n

/-- The free operation of the compare unit starts: a radio one first (R170-R176). -/
def Obligations.CompareStarts : Prop :=
  ∀ s t o k, (s.cmp t).head = some o → s.ctx t o.ctx = some k → s.now = o.earliest → (s.cmp t).run = none → poFault k o.desc = none →
    (o.radio = true ∨ s.poHeld t (poT k.base o.desc) = false) →
    (poOp o.desc = 1 → Ends (.cmpcnt t) s fun u => (u.cmp t).run = some o ∧ o ∉ (u.cmp t).pend)
    ∧ (poOp o.desc = 2 → Ends (.cmpinc t) s fun u => (u.cmp t).run = some o ∧ o ∉ (u.cmp t).pend)

/-! ## Pads and landing zones -/

/-- Sweeps, patrol and regrow (R160, R161, R179-R182, R185). -/
def Obligations.PadsComplete : Prop :=
  (∀ s t a value, mayTile a t = true → bit value 8 = true → (s.pad t).sweep = none → bits value 6 0 ≠ 0x7F →
    Ends (.padSweep t a value) s fun u => (u.pad t).sweep = some (bits value 6 0, s.now) ∧ (u.pad t).lastSweep = bits value 6 0)
  ∧ (∀ s p tag start, (s.pads.get p).sweep = some (tag, start) → s.now = start + 3072 →
      Ends (.tagSweepComplete p) s fun u => (u.pads.get p).sweep = none)
  ∧ (∀ s p tag rest, (s.pads.get p).sweep = none → (s.pads.get p).held = tag :: rest → s.now = (s.pads.get p).sweepFree →
      Ends (.heldSweepStart p) s fun u => (u.pads.get p).sweep = some (tag, s.now) ∧ (u.pads.get p).held = rest)
  ∧ (∀ s t x m, patrolDue t s = true → Ends (.patrolVisit t x m) s fun u =>
      (u.pad t).patrol = ((s.pad t).patrol + 1) % 196608 ∧ (u.pad t).patrolAt = some s.now
      ∧ ∀ d, let r := ((s.pad t).row (s.pad t).patrol).upset x m
          r.metaBad ≠ 2 → rsDecode r.code = .corrected d →
          (u.pad t).row (s.pad t).patrol = { r with code := rsEncode d, flips := 0, ce := r.ce + 1 })
  ∧ (∀ s t bank row, regrowDue t bank row s = true → (s.pad t).bankSpares bank < 32 →
      Ends (.regrow t bank row) s fun u => let n := rowOfBank bank row
        (u.pad t).regrow = some (n, s.now, ((s.pad t).row n).regrown) ∧ (u.pad t).failing.contains n = false ∧ (u.pad t).repair = (s.pad t).repair
        ∧ u.rget (treg .padEcc t) = satAdd (s.rget (treg .padEcc t)) 63 48 1)
  ∧ ∀ (p : Pad) r c x now, p.regrow = some (r, c, x) → p.writes = [] →
      if now = c then (p.endCycle now).regrow = some (r, c, x)
      else (p.endCycle now).row r = x ∧ (p.endCycle now).repair = enq p.repair r ∧ (p.endCycle now).regrow = none

/-- Landing writes, their refusals, grants, remote reads and the zones' registers (R162-R169, R185). -/
def Obligations.ZonesComplete : Prop :=
  (∀ s t z unit mask owner src data, z < 16 → (owner.toNat < 64 ∨ s.landRows t ≤ 4) → let c := s.rget (zcfg t z)
    nackReason c (BitVec.ofNat 32 (s.fget (zrd t z) 31 0)) unit owner.toNat src.toNat = none →
    Ends (.landingWrite t z unit mask owner src data) s fun u => u.rget (zcnt t z) = satAdd (s.rget (zcnt t z)) 31 0 1
      ∧ ∀ k < 4, mask.getLsbD k = true → ∃ w ∈ (u.pad t).writes, w.row = rowOf (zBase c + unit.toNat % zUnits c * 256 + 64 * k)
        ∧ w.tag = zOwner c ∧ w.data = lane data 512 k ∧ w.mask = fullMask ∧ w.poison = false)
  ∧ (∀ s t z unit mask owner src data reason, z < 16 → (owner.toNat < 64 ∨ s.landRows t ≤ 4) → let c := s.rget (zcfg t z)
      nackReason c (BitVec.ofNat 32 (s.fget (zrd t z) 31 0)) unit owner.toNat src.toNat = some reason →
      Ends (.landingWrite t z unit mask owner src data) s fun u => u.rget (zcnt t z) = satAdd (s.rget (zcnt t z)) 47 32 1 ∧ u.pads = s.pads
        ∧ ∃ f ∈ u.mesh.flits, f.payload = .nack src.toNat none reason
          ∧ f.due = if owner.toNat < 64 then s.now + 64 else (s.transit (stopOf (s.ptile t)) (srcStop src.toNat) (s.now + 1)).1)
  ∧ (∀ s t c f a r, f ∈ s.mesh.flits → f.due ≤ s.now → f.payload = .nack a (some (t, c)) r →
      Ends (.landingNackReceive t c) s fun u => ∃ g a' r' before after, s.mesh.flits = before ++ g :: after ∧ u.mesh.flits = before ++ after
        ∧ g.due ≤ s.now ∧ g.payload = .nack a' (some (t, c)) r' ∧ ∀ k, s.ctx t c = some k → u.ctx t c = some { k with nacked := some r' })
  ∧ (∀ s t z f a lim, f ∈ s.mesh.flits → f.due ≤ s.now → f.payload = .grant a t z lim →
      Ends (.creditGrantReceive t z) s fun u => ∃ g a' lim' before after, s.mesh.flits = before ++ g :: after ∧ u.mesh.flits = before ++ after
        ∧ g.due ≤ s.now ∧ g.payload = .grant a' t z lim' ∧ tget 0 u.mesh.grants (grantKey (s.srcCode a') t.val z.val) = lim'.toNat)
  ∧ (∀ s t z unit src owner, (zTenant (s.rget (zcfg t z)) = false ∨ s.open_ (outPort (stopOf (s.ptile t))) s.now = true) →
      Ends (.zoneRemoteRead t z unit src owner) s fun u => ∃ f ∈ u.mesh.flits, ∃ rows, rows.length = 4
      ∧ f.payload = .zoneData src.toNat t z unit rows
      ∧ (¬ (zRead (s.rget (zcfg t z)) = true ∧ src.toNat = zSrc (s.rget (zcfg t z))) → rows = List.replicate 4 (0, false)))
  ∧ (∀ s t (z : Fin 16) a value, s.mayZone a t (zOwner (s.rget (zcfg t z))) (zOwner value) = true →
      s.ctl.moved.any (fun m => m.1 == s.now && m.2.contains (16 * t.val + z.val)) = false → zEn (s.rget (zcfg t z)) = false →
      let v := (zcfg t z).store (s.rget (zcfg t z)) value
      zEn v = true → zUnits v ≠ 0 → zBase v + 256 * zUnits v ≤ 0xC00000 →
      Ends (.zoneEnable t z a value) s fun u => u.rget (zcfg t z) = v ∧ u.fget (zrd t z) 31 0 = 0 ∧ u.fget (zstate t z) 31 0 = zUnits v
        ∧ u.fget (zstate t z) 63 32 = zUnits v ∧ ∃ f ∈ u.mesh.flits, f.payload = .grant (zSrc v) t z (BitVec.ofNat 32 (zUnits v)))
  ∧ ∀ s t (z : Fin 16) a value, mayTile a t = true →
      let old := BitVec.ofNat 32 (s.fget (zrd t z) 31 0)
      let new := value.setWidth 32
      (new - old).toNat ≠ 0 → (new - old).toNat ≤ zUnits (s.rget (zcfg t z)) →
      Ends (.zoneRdWrite t z a value) s fun u => u.fget (zrd t z) 31 0 = new.toNat
        ∧ u.fget (zstate t z) 31 0 = (new + BitVec.ofNat 32 (zUnits (s.rget (zcfg t z)))).toNat

/-! ## Flits and links -/

/-- Flits leave in their order, in the first owned phase of their flow from their earliest cycle on, or, of the tenant class, as soon as
their port is open and they have credit; a rim die hands a frame to its link 24 cycles ahead of its phase (R164, R189, R194, R196, R197,
R207, R246, R247, R300). -/
def Obligations.FlitsLeave : Prop :=
  (∀ s f fl before q after, s.mesh.crossings.any (·.of f) = false → s.flowOf f = some fl → s.mesh.radioQ = before ++ q :: after →
    (∀ x ∈ before, x.flow ≠ f) → q.flow = f → fl.phases ≠ [] → s.now = s.firstOwned fl.phases (later q.earliest (s.freeAt f)) → s.readLeg q = false →
    (q.memx = none → 0 < q.left → s.hasCredit q.tile.val q.dest q.zone q.unit = true →
      Ends (.radioFlitInject f) s fun u => u.mesh.nextId = s.mesh.nextId + 1 ∧ u.freeAt f = s.now + 1 ∧ ∃ x ∈ u.mesh.flits, x.id = s.mesh.nextId
        ∧ if 64 ≤ q.dest ∧ q.dest < 68 then x.due = (s.handTo (fin 4 (q.dest - 64)) false (s.now + 64)).1 + 24 ∧ x.deadline = some (s.now + 152)
          else x.due = s.now + 64 ∧ x.deadline = none)
    ∧ (∀ id n m o j r, q.memx = some (id, n) → (s.mem.memx.find? fun m => decide (m.id = id)) = some m → f = .leg o j r →
      Ends (.radioFlitInject f) s fun u => ∃ x ∈ u.mesh.flits, x.id = s.mesh.nextId
        ∧ x.due = (s.handTo r false (s.now + 64)).1 + 24 ∧ x.deadline = some (s.now + 152) ∧ ∃ ls, x.payload = .memxW m.id ls))
  ∧ (∀ s f before x after fl, s.mesh.crossings = before ++ x :: after → (∀ y ∈ before, y.of f = false ∧ y.flow ≠ x.flow) → x.of f = true →
      s.flowOf x.flow = some fl → s.now = s.firstOwned fl.phases (later (x.sent + 24) (s.freeAt x.flow)) → ¬ x.nominal + 64 < s.now →
      Ends (.radioFlitInject f) s fun u => u.mesh.crossings = before ++ after ∧ u.freeAt x.flow = s.now + 1
        ∧ ∃ y ∈ u.mesh.flits, y.id = s.mesh.nextId ∧ y.due = s.now + 64 ∧ y.deadline = some (x.nominal + 128) ∧ y.payload = x.payload)
  ∧ (∀ (s : State) fl q rest i d more, s.nextRecord fl = some (q, rest) → ¬ s.now + 24 < q.earliest → q.units = (i, d) :: more →
      s.hasCredit (64 + q.rim.val) q.tile.val q.zone.val i = true →
      ∃ x, (s.handRecord fl).mesh.crossings = enq s.mesh.crossings x ∧ x.rim = q.rim ∧ x.flow = fl.flow ∧ x.zone = some (q.tile, q.zone)
        ∧ x.nominal = s.now + 24 ∧ x.sent = (s.handTo q.rim true s.now).1
        ∧ ∃ ws, x.payload = .landing ws ∧ (ws.length = 1 ∨ ws.length = 2)
          ∧ ∀ w ∈ ws, w.tile = q.tile ∧ w.zone = q.zone.val ∧ w.mask = 0xF ∧ w.src = BitVec.ofNat 7 (72 + q.rim.val))
  ∧ ∀ s id before x after, s.mesh.xfers = before ++ x :: after → (∀ y ∈ before, y.id ≠ id) → x.id = id → s.xferTurn id = true →
      0 < x.left → (x.next = s.now ∨ x.held = true ∧ x.next ≤ s.now) →
      let a := stopOf (s.ptile x.tile)
      let b := s.destStop x.dest
      let due := x.by_ ((s.take (outPort a) s.now).transit a b s.now).1 (s.now + BitVec.ofNat 64 (4 + 3 * hops a b))
      (x.rim = none → s.open_ (outPort a) s.now = true → (x.memx = none → s.hasCredit x.tile.val x.dest x.zone x.unit = true) →
        Ends (.tenantFlitInject id) s fun u => u.ten.activity.flits = s.ten.activity.flits + 1 ∧ ∃ f ∈ u.mesh.flits, f.id = s.mesh.nextId
          ∧ f.start = x.issued ∧ f.due = if 64 ≤ x.dest ∧ x.dest < 68 then (s.handTo (fin 4 (x.dest - 64)) false due).1 + 24 else due)
      ∧ ∀ r, x.rim = some r → Ends (.tenantFlitInject id) s fun u => u.ten.activity.flits = s.ten.activity.flits + 1
          ∧ ∃ f ∈ u.mesh.flits, f.id = s.mesh.nextId ∧ f.cross = some (r, (s.handTo r true s.now).1)
            ∧ f.payload = .lines (x.memx.getD 0) x.tile x.owner x.lines

/-- Links replay and retrain; late frames are discarded (R196, R197, R474). -/
def Obligations.LinksComplete : Prop :=
  (∀ s r stop, s.boot.dies = false → let k := linkKey r stop.val
    let n := if s.now = (s.link k).replayAt + 64 then (s.link k).replays + 1 else 1
    (s.link k).retrain = none →
    (n ≤ 3 → Ends (.linkReplay (.d2d r stop)) s fun u => (u.link k).replays = n ∧ (u.link k).replayAt = s.now
      ∧ (stop.val = rimStop r → s.now.toNat + 200 < 2 ^ 64 →
          (∀ f ∈ s.mesh.flits, ∀ v, f.sentOn r false = some v → s.crossing v = true →
            { f with due := v + 88, cross := some (r, v + 64) } ∈ u.mesh.flits)
          ∧ ∀ c ∈ s.mesh.crossings, c.rim = r → s.crossing c.sent = true → { c with sent := c.sent + 64 } ∈ u.mesh.crossings))
    ∧ (3 < n → Ends (.linkReplay (.d2d r stop)) s fun u => (u.link k).retrain = some (s.now + 16384) ∧ (u.link k).replays = 0))
  ∧ (∀ s port, s.boot.dies = false → s.peerBit (s.chipAt port) 1 = true →
      let l := s.link (288 + port.val)
      let n := if s.now = l.replayAt + 64 then l.replays + 1 else 1
      n ≤ 3 → Ends (.linkReplay (.krovbem port)) s fun u => (u.link (288 + port.val)).replays = n)
  ∧ (∀ s r stop, (s.link (linkKey r stop.val)).retrain = some s.now →
      Ends (.d2dLinkRetrainComplete r stop) s fun u => (u.link (linkKey r stop.val)).retrain = none ∧ (u.link (linkKey r stop.val)).replays = 0)
  ∧ (∀ s f before x after t, s.mesh.flits = before ++ x :: after → (∀ y ∈ before, s.lateAt f y = none) → s.lateAt f x = some t →
      Ends (.lateFrameDiscard f) s fun u => u.mesh.flits = before ++ after
        ∧ u.rget (treg .schStat t) = satAdd (s.rget (treg .schStat t)) 31 16 1)
  ∧ ∀ s f before c after, (∀ y ∈ s.mesh.flits, s.lateAt f y = none) → s.mesh.crossings = before ++ c :: after →
      (∀ y ∈ before, y.of f = false) → c.of f = true → s.now = c.nominal + 65 →
      Ends (.lateFrameDiscard f) s fun u => u.mesh.crossings = before ++ after
        ∧ u.rget (treg .schStat c.tile) = satAdd (s.rget (treg .schStat c.tile)) 31 16 1

/-! ## Fences, events and records -/

/-- Fences end when what they wait for is over (R385); a posted event and a completion record reach their core (R209,
R212, R462, R476); an event is written to its owner's ring (R462, R464). -/
def Obligations.EventsComplete : Prop :=
  (∀ s t c k, s.ctx t c = some k → k.fence = some 0 → s.busy t c = false →
    Ends (.fenceRelease t c) s fun u => u.ctx t c = some { k with fence := none, notBefore := s.now + 1 })
  ∧ (∀ s t c k, s.ctx t c = some k → k.fence = some 1 → s.busy t c = false → s.frtAny t c true = false →
      Ends (.fenceRelease t c) s fun u => u.ctx t c = some { k with fence := none, notBefore := s.now + 1 })
  ∧ (∀ s id before f after (t : LTile) c owner entry recIdx kernel code flags, s.mesh.flits = before ++ f :: after → (∀ g ∈ before, g.id ≠ id) → f.id = id →
      f.due ≤ s.now → f.payload = .post t c owner entry recIdx kernel code flags → (bit code 15 = false ∨ owner < 64) →
      Ends (.postDelivery id) s fun u => u.mesh.flits = before ++ after ∧ ∃ e, u.mbx.events = enq s.mbx.events e ∧ e.owner = ringOf owner ∧ e.kind = 1
        ∧ e.ltile = t ∧ e.code = code.toNat ∧ e.atb = s.now ∧ e.kernel = kernel.toNat ∧ (bit code 14 = false → e.flags = flags % 8 ∧ e.unit = none))
  ∧ (∀ s id before f after (t : LTile) owner entry recIdx flags kernel code a b, s.mesh.flits = before ++ f :: after → (∀ g ∈ before, g.id ≠ id) → f.id = id →
      f.due ≤ s.now → f.payload = .done t owner entry recIdx flags kernel code a b → (64 ≤ owner → owner = s.ten.tag ∧ s.ten.state ≠ .closed) →
      Ends (.completionRecordDelivery id) s fun u => u.mesh.flits = before ++ after
        ∧ (∃ e, u.mbx.events = enq s.mbx.events e ∧ e.owner = ringOf owner ∧ e.kind = 2 ∧ e.ltile = t ∧ e.code = code ∧ e.kernel = kernel.toNat)
        ∧ (64 ≤ owner → ∀ e ∈ u.ten.runList, some e.entry = entry → e.code = some code ∧ e.kernel = kernel))
  ∧ ∀ s o consumer before e after r, s.mbx.events = before ++ e :: after → (∀ x ∈ before, x.owner ≠ o) → e.owner = o → tfind o.val s.mbx.rings = some r →
      r.entries ≠ 0 → (e.kind = 2 → r.compl = true) → r.full = false →
      Ends (.eventRecordWrite o consumer) s fun u => u.mbx.events = before ++ after
        ∧ (∃ r', tfind o.val u.mbx.rings = some r' ∧ r'.index = r.index + 1 ∧ r'.lost = 0)
        ∧ (r.irq = false → u.out = .event (r.base + 512 * (r.index % r.entries)) r.index r.lost e r.prod :: s.out)

/-- A fabric transfer's burst (R339, R341, R383): a read's lines are written to the window, a write's lines are read and its requests leave. -/
def Obligations.FabricBurstCompletes : Prop :=
  ∀ s id r, (s.fab.frts.find? fun r => decide (r.id = id)) = some r → s.ten.state ≠ .closing → s.ten.state ≠ .closed →
    (frWrite r.entry = false → frLines r.entry ≤ r.got.length → r.dead = false → s.frBase r.entry + frLines r.entry ≤ memLines →
      s.canMove (span (s.frBase r.entry) (frLines r.entry) true) = true →
      Pumps (.fabricBulkBurst id) s fun v => (∀ x ∈ v.fab.frts, x.id ≠ id) ∧ v.ten.activity.dram = s.ten.activity.dram + frLines r.entry
        ∧ (∀ i < frLines r.entry, ∀ d, tfind i r.got = some (d, false) → tget 0 v.mem.lines (s.frBase r.entry + i) = d)
        ∧ ∀ line, line < s.frBase r.entry ∨ s.frBase r.entry + frLines r.entry ≤ line → tfind line v.mem.lines = tfind line s.mem.lines)
    ∧ (frWrite r.entry = true → r.stage = 1 → s.canMove (span (s.frBase r.entry) (frLines r.entry) false) = true →
      Pumps (.fabricBulkBurst id) s fun v => (∃ x ∈ v.fab.frts, x.id = id ∧ x.stage = 2 ∧ x.entry = r.entry)
        ∧ v.ten.activity.dram = s.ten.activity.dram + frLines r.entry)

/-! ## External memory -/

/-- Channels accept and serve operations, write check lines back and repair rows; the scrub clears its windows (R233-R236,
R242, R252-R263). -/
def Obligations.MemoryCompletes : Prop :=
  (∀ s ch n before q after, s.mem.want = before ++ q :: after → chanOf q.line = ch.val → srcNum q.src = n →
    (∀ x ∈ before, ¬ (chanOf x.line = ch.val ∧ srcNum x.src = n)) →
    nextSource (s.chan ch.val).rr ((s.mem.want.filter fun x => decide (chanOf x.line = ch.val)).map fun x => srcNum x.src) = some n →
    (s.chan ch.val).accepted.length < 52 → ((∀ d, q.op ≠ .accFp d) ∨ s.orderedMode = false) →
    Ends (.dramLineAccept ch) s fun u => u.mem.want = before ++ after ∧ (u.chan ch.val).rr = n
      ∧ (u.chan ch.val).accepted = enq (s.chan ch.val).accepted { q with issued := s.now })
  ∧ (∀ s ch line upset q, let v := (s.strike ch.val line upset).inGroup ch.val
      let g := s.groupStart s.now
      (v.chan ch.val).used < s.openSlots s.now → s.mem.scrub = none → v.mem.hasRoom q.line = true →
      pickOp g (tenantGroup (s.groupOf s.now)) [] (v.chan ch.val).accepted = some q →
      Ends (.dramLineSlot ch line upset) s fun u => (u.chan ch.val).used = (v.chan ch.val).used + v.opSlots q
        ∧ (∀ d p, q.second = none → q.op = .write d p → tget 0 u.mem.lines q.line = d)
        ∧ (∀ d p h, q.second = some (d, p, h) → tget 0 u.mem.lines q.line = d)
        ∧ ∀ d, (rsDecode (v.mem.word q.line) = .clean d ∨ rsDecode (v.mem.word q.line) = .corrected d) → q.second = none →
          (∀ half i, q.op = .read → q.dest = .gather half i → (q.dest, d, false) ∈ u.mem.replies)
          ∧ (∀ e, q.op = .accInt e → ∃ y ∈ (u.chan ch.val).accepted, y.id = q.id ∧ y.line = q.line ∧ y.second = some (accSum false d e, false, g))
          ∧ (∀ e, q.op = .accFp e → ∃ y ∈ (u.chan ch.val).accepted, y.id = q.id ∧ y.line = q.line ∧ y.second = some (accSum true d e, false, g)))
  ∧ (∀ s rim ch block e, let key := 2 ^ 20 * ch.val + block
      let n := if e.valid = 0xFFFFFFFF then 1 else 2
      tfind key s.mem.cache = some e → ch.val / 40 = rim.val → e.dirty = true → ((s.inGroup ch.val).chan ch.val).wb + n ≤ s.wbSlots →
      Ends (.checkLineWriteback rim ch block) s fun u =>
        (∀ i < 32, e.valid.getLsbD i = true → tget 0 u.mem.checks (chkFirst key + 160 * i) = lane e.pairs 16 i)
        ∧ (∃ e', tfind key u.mem.cache = some e' ∧ e'.dirty = false ∧ e'.valid = 0xFFFFFFFF)
        ∧ (u.chan ch.val).wb = ((s.inGroup ch.val).chan ch.val).wb + n)
  ∧ (∀ s ch r line, let v := s.inGroup ch.val
      let n := if (v.mem.pair line).2 then 1 else 2
      (v.chan ch.val).repair = some r → r.step < 32 → rowLine ch.val r.row r.step = some line → tenantGroup (s.groupOf s.now) = true →
      s.mem.scrub = none → (v.chan ch.val).used + n ≤ s.openSlots s.now →
      Ends (.dramRowRepair ch) s fun u => (u.chan ch.val).used = (v.chan ch.val).used + n
        ∧ ∃ r', (u.chan ch.val).repair = some r' ∧ r'.row = r.row ∧ r'.spare = r.spare ∧ r'.step = r.step + 1
          ∧ ∀ d, rsDecode (v.mem.word line) = .clean d → tfind r.step r'.copy = some (d, false, false))
  ∧ (∀ s ch r, let v := s.inGroup ch.val
      (v.chan ch.val).repair = some r → 32 ≤ r.step → r.step < 64 → tenantGroup (s.groupOf s.now) = true → s.mem.scrub = none →
      (v.chan ch.val).used + 1 ≤ s.openSlots s.now →
      Ends (.dramRowRepair ch) s fun u => (u.chan ch.val).used = (v.chan ch.val).used + 1
        ∧ (u.chan ch.val).repair = some { r with step := r.step + 1, last := s.groupStart s.now })
  ∧ (∀ (s : State) (ch : Fin 160) r, (s.chan ch.val).repair = some r →
      if r.step < 64 then s.repairSwitch ch.val = s
      else ((s.repairSwitch ch.val).chan ch.val).repaired = enq (s.chan ch.val).repaired (r.row, r.spare))
  ∧ (∀ s ch row rest, (s.chan ch.val).repair = none → (s.chan ch.val).failing = row :: rest →
      Ends (.dramRowRepair ch) s fun u => (u.chan ch.val).failing = rest ∧
        if (s.chan ch.val).sparesUsed < 1675 then (u.chan ch.val).repair = some { row := row, spare := 486606 + (s.chan ch.val).sparesUsed }
        else u.fget (creg .memCh ch.val) 11 11 = 1)
  ∧ (∀ s a value, mayMem a = true → bit value 32 = true → bits value 7 0 < 160 → bits value 26 8 < 486606 →
      Ends (.memRepairGo a value) s fun u => let c := u.chan (bits value 7 0)
        bits value 26 8 ∈ c.failing ∨ (∃ r, c.repair = some r ∧ r.row = bits value 26 8) ∨ u.fget (creg .memCh (bits value 7 0)) 11 11 = 1)
  ∧ (∀ s a value, mayMem a = true → bit value 0 = true → s.mem.scrub = none →
      Ends (.memScrubGo a value) s fun u => u.mem.scrub = some (([dwinOf (s.rget (creg .memScrubWin 0)), dwinOf (s.rget (creg .memScrubWin 1))].filter (·.valid)).map (·.lines), 0)
        ∧ u.fget (creg .memScrub) 63 16 = 0)
  ∧ ∀ (s : State) ws p, s.mem.scrub = some (ws, p) →
      let g := s.groupOf s.now
      let n := (radioGroup g).elim (if tenantGroup g then 13 else 0) fun r => 13 - (s.claimedSlots s.now r).length
      let q := Nat.min (33 * scrubUnits ws) (p + n)
      s.scrubStep.mem.scrub = some (ws, q) ∧ s.scrubStep.fget (creg .memScrub) 63 16 = q / 33 % 2 ^ 48
      ∧ (∀ line k, scrubPos ws line = some k → p ≤ k → k < q → tget 0 s.scrubStep.mem.lines line = 0)
      ∧ ∀ line, (∀ k, scrubPos ws line = some k → k < p ∨ q ≤ k) → tfind line s.scrubStep.mem.lines = tfind line s.mem.lines

/-! ## Fronthaul, the egress builder and the ports -/

/-- A received frame is counted; a U-plane frame of a stream is placed or counted as early or late; a record is flushed and
the gain decided in their cycles (R271, R289-R300, R313, R314, R481). -/
def Obligations.FronthaulCompletes : Prop :=
  (∀ s f, (s.lane 1 f.port.val).isSome = true → bit (s.rget ⟨.fhpStatus, s.fhLane f.port.val, 0⟩) 0 = true → s.parsedNow f = true →
    let l := s.fhLane f.port.val
    let rim := s.rimOfFh f.port.val
    let ts := f.ts16 - s.fget ⟨.atbTscorr, 0, f.port.val⟩ 15 0
    Ends (.fhFrameReceive f) s fun u =>
      let full : Prop := 512 ≤ (s.radio.rims.get rim).clsWaiting s.now
      let fits : Prop := 64 ≤ f.len ∧ f.len ≤ s.maxFrame l
      let misc := satAdd (s.rget ⟨.fhpMisc, l, 0⟩) 31 16 f.fecUc
      let radio : Prop := f.fcsOk = true ∧ fits ∧ f.etherType = 0xAEFE
      (f.fcsOk = false → u.rget ⟨.fhpRxstat, l, 0⟩ = satAdd (s.rget ⟨.fhpRxstat, l, 0⟩) 47 32 1)
      ∧ (f.fcsOk = true → ¬ fits → u.rget ⟨.fhpRxstat, l, 0⟩ = satAdd (satAdd (s.rget ⟨.fhpRxstat, l, 0⟩) 31 0 1) 63 48 1)
      ∧ (f.fcsOk = true → fits → u.rget ⟨.fhpRxstat, l, 0⟩ = satAdd (s.rget ⟨.fhpRxstat, l, 0⟩) 31 0 1)
      ∧ (f.fcsOk = true → fits → f.etherType = 0x8808 → u.rget ⟨.fhpMisc, l, 0⟩ = satAdd misc 15 0 1)
      ∧ (radio → full ∨ f.stacked = true ∨ (headFault f).isSome = true → u.rget ⟨.radStat, rim.val, 0⟩ = satAdd (s.rget ⟨.radStat, rim.val, 0⟩) 63 48 1
        ∧ (u.radio.rims.get rim).asm = (s.radio.rims.get rim).asm)
      ∧ (radio → ¬ full → f.stacked = false → headFault f = none → f.msgType = 0 →
        (s.classify rim f ts = none → u.rget ⟨.radStat, rim.val, 0⟩ = satAdd (s.rget ⟨.radStat, rim.val, 0⟩) 47 32 1)
        ∧ ∀ i g v, s.classify rim f ts = some (i, g, some v) → f.downlink = false → f.payloadVersion = 1 → sectionsFault g (appOffset f + 4) f.sections = none →
          (tget {} (u.radio.rims.get rim).streams i).seq = some f.seqId.toNat
          ∧ (ts < 16 * (v.toNat + bits g.ftime 20 0) →
              u.rget ⟨.radStat, rim.val, 0⟩ = satAdd (s.rget ⟨.radStat, rim.val, 0⟩) 31 16 1 ∧ (tget {} (u.radio.rims.get rim).streams i).lateSeen = true)
          ∧ (16 * (v.toNat + bits g.ftime 20 0) ≤ ts → 16 * (v.toNat + bits g.ftime 41 21) < ts →
              u.rget ⟨.radStat, rim.val, 0⟩ = satAdd (s.rget ⟨.radStat, rim.val, 0⟩) 15 0 1 ∧ (tget {} (u.radio.rims.get rim).streams i).lateSeen = true)
          ∧ (16 * (v.toNat + bits g.ftime 20 0) ≤ ts → ts ≤ 16 * (v.toNat + bits g.ftime 41 21) →
              (tget {} (s.radio.rims.get rim).streams i).seq = none →
              (u.radio.rims.get rim).buf i v = f.sections.foldl (fun a sec => (a.place g (tget {} (s.radio.rims.get rim).streams i) sec).1) ((s.radio.rims.get rim).buf i v))))
  ∧ (∀ s rim f v, flushDue rim f.val v s = true → let g := s.entryAt rim f.val v
      Ends (.recordFlush rim f v) s fun u => (tget {} (u.radio.rims.get rim).streams f.val).flushed = some v
        ∧ (∀ a ∈ (u.radio.rims.get rim).asm, ¬ (a.stream = f.val ∧ a.sym = v))
        ∧ ∃ z, u.radio.zoneQ = enq s.radio.zoneQ z ∧ z.tile.val = bits g.fact 5 0 ∧ z.zone.val = bits g.fact 9 6 ∧ z.rim = rim
          ∧ z.earliest = s.now + 24 ∧ z.units.length = unitsPerRecord g.fact)
  ∧ ∀ s rim f, gainDue rim f.val s = true → let g := s.streamRegs rim.val f.val
      let st := tget {} (s.radio.rims.get rim).streams f.val
      Ends (.gainDecision rim f) s fun u => u.rget ⟨.radFgain, rim.val, f.val⟩ = (if bit g.fgain 8 then (gainStep g.fgain st.gsum st.gn).1 else g.fgain)
        ∧ (tget {} (u.radio.rims.get rim).streams f.val).gsum = 0 ∧ (tget {} (u.radio.rims.get rim).streams f.val).gn = 0

/-- A message whose units have arrived leaves its ring; in time its frame joins its queue with the next sequence number, too
late or while its cell is muted it is counted (R303-R306). -/
def Obligations.EgressMessageCompletes : Prop :=
  ∀ s rim tile header body key sl tm c, s.ringWith rim tile header body = some key →
    tfind (fld header 0 2) (s.radio.rims.get rim).templates = some (sl, tm) → tfind (tmplCell tm) (s.ctl.slices.get (fin 64 sl)).cells = some c →
    let cplane : Bool := decide (fld header 2 1 = 1)
    let l := s.fhLane (tmplPort tm)
    let air := BitVec.ofNat 64 (fld header 8 8)
    let seqKey := 2 * fld tm 6 2 + cplane.toNat
    let seq := tget 0 (s.radio.rims.get rim).seq seqKey
    let b := State.egressFrame tm cplane (cellMu0 c.payload) (s.off air) seq body
    let k := ((if cplane then (s.portSt l).cells else (s.portSt l).ucells).findIdx? fun x => decide (x = (fin 64 sl, fin 512 (tmplCell tm)))).getD 64
    let q := if cplane then k else 64 + k
    let limit := s.now + BitVec.ofNat 64 (fld c.payload (if cplane then 28 else 20) 4 + s.occupancy l (s.cost l b))
    fld tm 3 1 % 2 = cplane.toNat → fld header 2 1 ≤ 1 → body.length + 42 ≤ s.maxFrame l →
    Ends (.egressMessagePlace rim tile header body) s fun u =>
      tget [] (u.radio.rims.get rim).rings key = (tget [] (s.radio.rims.get rim).rings key).drop (ceilDiv (64 + body.length) 256)
      ∧ (c.st = 2 → u.rget ⟨.radStat2, rim.val, 0⟩ = satAdd (s.rget ⟨.radStat2, rim.val, 0⟩) 63 48 1)
      ∧ (c.st ≠ 2 → air ≤ limit → u.rget ⟨.radStat2, rim.val, 0⟩ = satAdd (s.rget ⟨.radStat2, rim.val, 0⟩) 47 32 1)
      ∧ (c.st ≠ 2 → ¬ air ≤ limit → air < c.since + BitVec.ofNat 64 (fld c.payload 24 4) →
        (u.radio.rims.get rim).seq = (s.radio.rims.get rim).seq ∧ u.ports = s.ports)
      ∧ (c.st ≠ 2 → ¬ air ≤ limit → c.since + BitVec.ofNat 64 (fld c.payload 24 4) ≤ air → tget 0 (u.radio.rims.get rim).seq seqKey = (seq + 1) % 256
        ∧ (s.isEthernet l = true → bit (s.qReg l q) 21 = true →
            heldBytes (tget [] (s.portAll l).queues q) + wireLen b ≤ 1024 * Nat.max 1 (bits (s.qReg l q) 34 24) →
            sumNat ((s.portAll l).queues.map fun x => heldBytes x.2) + wireLen b ≤ 2097152 →
            tget [] (u.portAll l).queues q = enq (tget [] (s.portAll l).queues q) b))

/-- Frames join their queues, windows open and close, frames start, links go up and down (R273-R287). -/
def Obligations.PortsComplete : Prop :=
  (∀ s (p : Fin 24) (q : Fin 256) b, let v := s.qReg p.val q.val
    let held := tget [] (s.portAll p.val).queues q.val
    s.isEthernet p.val = true → bit v 21 = true → wireLen b ≤ s.maxFrame p.val →
    Ends (.egressFrameEnqueue p q b) s fun u =>
      if 1024 * Nat.max 1 (bits v 34 24) < heldBytes held + wireLen b ∨ 2097152 < sumNat ((s.portAll p.val).queues.map fun x => heldBytes x.2) + wireLen b then
        u.ports = s.ports ∧ u.rget ⟨.fhpTxstat, p.val, 0⟩ = satAdd (s.rget ⟨.fhpTxstat, p.val, 0⟩) 47 32 1
      else tget [] (u.portAll p.val).queues q.val = enq held b ∧ (bit v 20 = false → held = [] → q.val ∈ (u.portAll p.val).cur))
  ∧ (∀ s (p : Fin 24) (w : Fin 64) c, s.ttwAt p.val w.val s.now = some (s.now, c) → Ends (.ttWindowOpen p w) s fun u => w.val ∈ (u.portSt p.val).opened)
  ∧ (∀ s (p : Fin 24) (w : Fin 64) o, s.ttwAt p.val w.val (s.now - 1) = some (o, s.now) →
      Ends (.ttWindowClose p w) s fun u => w.val ∉ (u.portSt p.val).opened ∧ ∀ q, bits (s.rget ⟨.fhpTtw, p.val, w.val⟩) 55 48 ≤ q →
        q ≤ bits (s.rget ⟨.fhpTtw, p.val, w.val⟩) 63 56 → tget [] (u.portSt p.val).queues q = [])
  ∧ (∀ s (p : Fin 24), let l := p.val
      let t := s.now + 128
      let sent (q : Nat) (b : Bytes) : Emit :=
        let b := if q = 192 ∧ bits (s.rget ⟨.fhpCfg, l, 0⟩) 2 0 = 1 then Config.delayStamp b (s.mdi16 l t) else b
        .frame p (b ++ fcsOf b) t (s.mdi16 l t)
      s.isEthernet l = true → bit (s.rget ⟨.fhpStatus, l, 0⟩) 0 = true → ¬ (bits (s.rget ⟨.fhpCfg, l, 0⟩) 2 0 = 1 ∧ s.txIdle t = true) → (s.portSt l).freeAt ≤ t →
      (∀ e c q b rest, s.ttwOpen l t = some (e, c) →
        ((s.portSt l).queues.find? fun x => decide (bits e 55 48 ≤ x.1 ∧ x.1 ≤ bits e 63 56)) = some (q, b :: rest) →
        t + BitVec.ofNat 64 (s.occupancy l (s.cost l b)) ≤ c →
        Ends (.egressFrameStart p) s fun u => u.out = sent q b :: s.out ∧ tget [] (u.portSt l).queues q = rest)
      ∧ (∀ q b v, s.ttwOpen l t = none → s.drrPick l 2400000 = (some (q, b), v) →
        (∀ o, s.ttwNext l t = some o → t + BitVec.ofNat 64 (s.occupancy l (s.cost l b)) ≤ o) →
        Ends (.egressFrameStart p) s fun u => u.out = sent q b :: s.out
          ∧ (u.portSt l).freeAt = t + BitVec.ofNat 64 (s.occupancy l (s.cost l b))))
  ∧ (∀ s (p : Fin 24), s.isPort p.val = true → bit (s.rget ⟨.fhpStatus, p.val, 0⟩) 0 = false →
      Ends (.portLinkUp p) s fun u => bit (u.rget (creg .pkgClk)) (4 + p.val / 6) = true
        ∧ ∀ k < 24, s.rget ⟨.fhpCfg, k, 0⟩ = s.rget ⟨.fhpCfg, p.val, 0⟩ → u.rget ⟨.fhpStatus, k, 0⟩ = 3)
  ∧ ∀ s (p : Fin 24), s.isPort p.val = true → bit (s.rget ⟨.fhpStatus, p.val, 0⟩) 0 = true →
      Ends (.portLinkDown p) s fun u => ∀ k < 24, s.rget ⟨.fhpCfg, k, 0⟩ = s.rget ⟨.fhpCfg, p.val, 0⟩ → u.rget ⟨.fhpStatus, k, 0⟩ = 0

/-! ## The tenant's epoch -/

/-- Opening, loading and submitting (R153, R327-R332, R188). -/
def Obligations.EpochMessagesComplete : Prop :=
  (∀ s v i m, s.msg 0x0501 i m v → v.ten.state = .closed → v.mem.scrub = none → v.sweeping v.nextTag = false → v.offsetPending = false →
    let p := m.payload
    let e : EpochCfg := { pasid := BitVec.ofNat 20 (fld p 0 4), slot0 := fld p 4 2, nslot := fld p 6 2, vec0 := fld p 8 2, nvec := fld p 10 2,
                          a64k := fld p 12 2, win0 := winOf p 16, win1 := winOf p 24 }
    v.openBad e = [] →
    Ends (.epochOpen i) s fun u => u.ten.state = .opened ∧ u.ten.tag = s.nextTag ∧ u.ten.lastTag = s.nextTag ∧ u.ten.cfg = e ∧ u.ten.image = none
      ∧ u.ten.openedAt = s.now ∧ u.rget (creg .tenEnd) = ofBytes 64 (slice p 32 8)
      ∧ ∃ elig, s.answered u m stOk 0 (leBytes 8 s.nextTag ++ leBytes 8 elig))
  ∧ (∀ s v i m buffer, s.msg 0x0503 i m v → s.ten.state = .opened → s.ten.unsealFailed = false → s.ten.unsealing = none →
      let b := imageBytes buffer (fld m.payload 8 4)
      imageBad b true s.ten.ordered = [] → overBound s.ten.cfg.a64k (imageOfBytes b) = [] →
      Ends (.imageLoad i buffer) s fun u => u.ten.image = some (imageOfBytes b) ∧ u.ten.state = .loaded ∧ s.answered u m stOk)
  ∧ (∀ s v i m img, s.msg 0x0504 i m v → s.ten.image = some img → (s.ten.state = .loaded ∨ s.ten.state = .suspended) →
      let entry (k : Nat) : BitVec 32 := BitVec.ofNat 32 (fld m.payload (8 + 16 * k) 4)
      (∀ k < fld m.payload 0 2, (img.recs[fld m.payload (12 + 16 * k) 4]?).any recTenant = true ∧ (∀ e ∈ s.ten.runList, e.entry ≠ entry k)
        ∧ ∀ j < k, entry j ≠ entry k) →
      Ends (.runSubmit i) s fun u => u.ten.runList.length = s.ten.runList.length + fld m.payload 0 2
        ∧ (∀ k < fld m.payload 0 2, ∃ e ∈ u.ten.runList, e.entry = entry k ∧ e.recIdx = fld m.payload (12 + 16 * k) 4 ∧ e.running = none ∧ e.code = none)
        ∧ s.answered u m stOk 0 (leBytes 4 (fld m.payload 0 2) ++ leBytes 4 0))
  ∧ (∀ s v i m, s.msg 0x0505 i m v → s.ten.state = .loaded → s.ten.suspendAt = none →
      Ends (.epochSuspend i) s fun u => u.ten.suspendAt = some s.now ∧ (m, .suspend) ∈ u.mbx.waiting)
  ∧ (∀ s v i m, s.msg 0x0505 i m v → s.ten.state = .suspended → Ends (.epochSuspend i) s fun u => s.answered u m stOk)
  ∧ (∀ s v i m, s.msg 0x0506 i m v → s.mayResume = true → Ends (.epochResume i) s fun u => u.ten.state = .loaded ∧ s.answered u m stOk)
  ∧ (∀ s v i m, s.msg 0x0502 i m v → s.ten.state ≠ .closed → Ends (.epochClose i) s fun u => u.ten.state = .closing ∧ (m, .close) ∈ u.mbx.waiting)
  ∧ ∀ s v i m b, s.msg 0x0502 i m v → s.ten.state = .closed → m.sender = .manager → s.ten.report = some b → i ∉ s.mbx.lostReports →
      Ends (.epochClose i) s fun u => Emit.hostWrite (fld m.payload 0 8) b m.wpasid ∈ u.out ∧ s.answered u m stOk 0 (leBytes 4 b.length ++ leBytes 4 0)

/-- Dispatch, its failures, the end of a suspend and the close (R217, R328, R332, R337, R341, R360, R473, R474). -/
def Obligations.EpochEventsComplete : Prop :=
  (∀ s n e img r t w c st sz k, (s.ten.runList.find? fun e => decide (e.entry = n)) = some e → s.ten.image = some img → s.ten.state = .loaded →
    s.ten.suspendAt = none → e.running = none → e.code = none → s.level ≠ 15 → s.inputDone e.in1 = true → s.inputDone e.in2 = true →
    img.recs[e.recIdx]? = some r → s.place e r = (some t, w) → s.freeCtx t = some c → (s.tiles.get t).tenAlloc = some (st, sz) →
    (s.tiles.get t).swapHold = false → bit (s.rget (treg .schCtrl t)) 0 = false →
    startTask r e.recIdx .epoch s.ten.tag st sz s.ten.cfg.win0 s.ten.cfg.win1 s.now = some k → e.barrier = none →
    Ends (.runEntryDispatch n) s fun u => u.ctx t c = some { k with entry := some n, fence := none }
      ∧ ∀ x ∈ u.ten.runList, x.entry = n → x.running = some (t, c))
  ∧ (∀ s n t, noProgress n s = some t → Ends (.runEntryNoProgress n) s fun u => (u.tiles.get t).ineligible = true
      ∧ ∀ c k, s.ctx t c = some k → k.radio = false → ∃ k', u.ctx t c = some k' ∧ k'.ended.isSome = true ∧ k'.dropped = true)
  ∧ (∀ s t c id before x after k, s.mesh.xfers = before ++ x :: after → (∀ y ∈ before, y.id ≠ id) → x.id = id → x.tile = t → x.ctx = c →
      2048 ≤ (s.now - x.issued).toNat → x.dead = false → s.ctx t c = some k → k.radio = false → k.dropped = false →
      Ends (.legTimeout t c id) s fun u => (∀ y ∈ u.mesh.xfers, y.id ≠ id) ∧ ∃ k', u.ctx t c = some k' ∧ k'.ended = some 4 ∧ k'.dropped = true)
  ∧ (∀ s x, s.ten.suspendAt = some x → 196608 ≤ (s.now - x).toNat →
      Ends .preemptionTimeout s fun u => u.ten.state = .suspended ∧ u.ten.suspendAt = none
        ∧ u.ten.kills = s.ten.kills + (s.tenantTasks.filter fun (t, c, _) => s.inFlight t c).length)
  ∧ (∀ s, s.ten.endArmed = true → s.rget (creg .tenEnd) ≤ s.now → s.ten.state ≠ .closed → s.ten.state ≠ .closing →
      Ends .epochEndReached s fun u => u.ten.state = .closing ∧ u.ten.closeAt = some s.now ∧ u.ten.endArmed = false
        ∧ u.ten.overruns = s.ten.overruns + (if s.rget (creg .tenEnd) = s.now then 0 else 1))
  ∧ (∀ s, drainOver s = true → Ends .epochCloseDrainEnd s fun u => u.ten.drainedAt = some s.now ∧ u.ten.clearing = some (s.now + 2047)
      ∧ u.ten.keys = Vector.replicate 4 none ∧ u.mem.scrub.isSome = true ∧ u.mem.scrubEpoch = true)
  ∧ (∀ s, (s.ten.clearing.any fun v => decide (v ≤ s.now)) = true → Ends .gatherDirectoryClearComplete s fun u => u.ten.dir = [] ∧ u.ten.clearing = none)
  ∧ (∀ s ws n, s.mem.scrub = some (ws, n) → if n < 33 * scrubUnits ws then exec .scrubComplete s = .next s
      else Ends .scrubComplete s fun u => u.mem.scrub = none ∧ u.mem.lines = s.mem.lines
      ∧ (s.mem.scrubEpoch = true → s.ten.state = .closing → u.ten.state = .closed ∧ u.ten.tag = 0x7F))
  ∧ ∀ s t z first data, 1 ≤ data.length → data.length ≤ 16 → (s.ten.state = .opened ∨ s.ten.state = .loaded ∨ s.ten.state = .suspended) →
      s.ten.suspendAt = none → s.commandHeld t = false → zTenant (s.rget (zcfg t z)) = true →
      (∀ j < data.length, s.hasCredit 68 t.val z.val (first + BitVec.ofNat 32 j) = true) →
      exec (.creditedRemoteWrite t z first data) s = .next (((List.range data.length).zip data).foldl (fun (s : State) x =>
        s.land { tile := t, zone := z.val, unit := first + BitVec.ofNat 32 x.1, mask := 0xF, owner := BitVec.ofNat 7 s.ten.tag,
                 src := BitVec.ofNat 7 controlStop, data := x.2, tenant := true }) s)

/-- Power and temperature (R342-R347). -/
def Obligations.PowerCompletes : Prop :=
  (∀ s, s.cores.m0Up = true → 1966080 ≤ (s.now - s.ten.powerAt).toNat →
    Ends .throttleInterval s fun u => u.ten.powerAt = s.now ∧ u.ten.activity = {} ∧ u.level =
      if 1 ≤ s.ten.therm.val then 15
      else if s.fget (creg .tenPwr) 9 0 * 1000000 < s.energy then Nat.min 15 (s.level + 1)
      else if 16 * s.energy < 15 * (s.fget (creg .tenPwr) 9 0 * 1000000) then s.level - 1 else s.level)
  ∧ (∀ s (x : Temps), s.cores.m0Up = true → let r := s.rget (creg .tenTherm)
      let tj := x.tj.toNat
      let hot := if bits r 15 8 ≤ tj then s.ten.hot + 1 else 0
      let cool := if tj + 5 < bits r 15 8 then s.ten.cool + 1 else 0
      Ends (.thermalReading x) s fun u => u.fget (creg .tenTherm) 31 24 = tj
        ∧ u.rget (creg .pkgTemp) = fields [(0, tj), (8, x.sensor.val), (16, x.case.toNat), (24, x.device.val)] ∧ u.ten.hot = hot ∧ u.ten.cool = cool
        ∧ u.ten.therm = nextStage s.ten.therm tj (bits r 7 0) (bits r 23 16) hot cool (bit r 32)
        ∧ (1 ≤ u.ten.therm.val → u.level = 15))
  ∧ ∀ s, s.ten.therm = 3 → s.cores.m0Up = true → (∀ x, s.ten.shedAt = some x → 19660800 ≤ (s.now - x).toNat) →
      Ends .cellShedStep s fun u => u.ten.shedAt = some s.now
        ∧ (s.shedNext ≠ [] → ∃ r, u.log.mgmt.recs.head? = some r ∧ r.code = .rule 346 0 ∧ r.unit = 13)

/-! ## The gather unit -/

/-- Jobs are queued, step and end (R349-R352). -/
def Obligations.GatherCompletes : Prop :=
  (∀ s a value, mayTen a = true → let d := (List.range 3).flatMap (fun i => toBytes (s.rget (creg .tenGjq i)) 8) ++ toBytes value 8
    Ends (.gatherJobEnqueue a value) s fun u =>
      if s.jobOk d = true ∧ s.jobFull d = false then (u.ten.halves.get (gjHalf d)).jobs = enq (s.ten.halves.get (gjHalf d)).jobs { desc := d }
      else u.ten = s.ten ∧ u.rget (creg .tenGstat) = satAdd (s.rget (creg .tenGstat)) 63 56 1)
  ∧ (∀ s v i m, s.msg 0x050D i m v → let d := padTo 32 m.payload
      s.jobOk d = true → s.jobFull d = false →
      Ends (.gatherSubmit i) s fun u => (u.ten.halves.get (gjHalf d)).jobs = enq (s.ten.halves.get (gjHalf d)).jobs { desc := d } ∧ s.answered u m stOk)
  ∧ (∀ s h j i line, s.runningJob h = some j → j.next < gjCount j.desc → j.asked = 0 → (s.jobIndex h j.desc j.next).1 = i →
      let v := s.rget (creg .tenGtab (gjTable j.desc).val)
      let n := gjTable j.desc
      s.gtLine v i = some line →
      let credit := s.rowCredit h j.desc ((gjDst j.desc).2.2 + j.next * gtUnits v) (gtUnits v)
      let done (u : State) : Prop := ∃ j' rest, (u.ten.halves.get h).jobs = j' :: rest ∧ j'.desc = j.desc ∧ j'.next = j.next + 1 ∧ j'.asked = 0
      let asks (ok : LineOp → Prop) (u : State) : Prop := (∃ j' rest, (u.ten.halves.get h).jobs = j' :: rest ∧ j'.desc = j.desc ∧ j'.next = j.next
          ∧ j'.asked = 4 * gtUnits v ∧ j'.since = s.now)
        ∧ ∀ r < 4 * gtUnits v, ∃ q ∈ u.mem.want, q.line = line + r ∧ q.src = .gather h ∧ q.dest = .gather h r ∧ ok q.op
      (gjKind j.desc = 1 → credit = true →
        Ends (.gatherLookup h) s fun u => if (s.dirFind n i).isSome then done u ∧ u.rget (creg .tenGstat) = satAdd (s.rget (creg .tenGstat)) 23 0 1
          else asks (· = .read) u ∧ u.rget (creg .tenGstat) = satAdd (s.rget (creg .tenGstat)) 47 24 1)
      ∧ (gjKind j.desc = 2 → credit = true → s.dirFind n i = none → (s.dirWays (dirSet n i)).all (·.isSome) = false →
        Ends (.gatherInstall h) s (asks (· = .read)))
      ∧ (gjKind j.desc = 3 → Ends (.gatherEvict h) s fun u => done u ∧ u.dirFind n i = none)
      ∧ (gjKind j.desc = 4 → Ends (.gatherAccumulateInt32 h) s fun u => asks (fun o => ∃ d, o = .accInt d) u ∧ u.dirFind n i = none)
      ∧ (gjKind j.desc = 5 → Ends (.gatherAccumulateFp32 h) s fun u => asks (fun o => ∃ d, o = .accFp d) u ∧ u.dirFind n i = none))
  ∧ ∀ s h j, s.runningJob h = some j → gjCount j.desc ≤ j.next →
      Ends (.gatherJobComplete h) s fun u => (u.ten.halves.get h).jobs = (s.ten.halves.get h).jobs.tail
        ∧ ∃ e, u.mbx.events = enq s.mbx.events e ∧ e.owner = 64 ∧ e.kind = 1 ∧ e.code = gjEvent j.desc

/-! ## Seals and keys -/

/-- SEAL, UNSEAL and their chunks (R353-R358). -/
def Obligations.SealsComplete : Prop :=
  (∀ s v i m k img, s.msg 0x0507 i m v → s.gen s.curGen = some k → s.ten.image = some img → (s.ten.state = .loaded ∨ s.ten.state = .suspended) →
    s.ten.sealing = none → s.ten.unsealing = none →
    Ends (.seal i) s fun u => if 2 ^ 32 < k.sealed + (v.sealParts img).length then s.answered u m stGenExhausted
      else (∃ r, u.ten.sealing = some r ∧ r.slot = i ∧ r.gen = s.curGen ∧ r.id = s.now ∧ r.addr = fld m.payload 0 8 ∧ r.len = fld m.payload 8 4 ∧ r.todo = none)
        ∧ (m, .seal) ∈ u.mbx.waiting ∧ (s.ten.state = .loaded → u.ten.suspendAt.isSome = true))
  ∧ (∀ s iv slow r p rest k, s.ten.sealing = some r → s.ten.state = .suspended → s.saving = false → s.sealTodo r = p :: rest → s.gen r.gen = some k →
      p.home.any s.commandHeld = false → s.partOpen p = true →
      let d := s.partBytes p
      let head := sealHead r.gen k r rest.isEmpty p iv
      let c := Config.gcmSeal k.key iv head d.1
      let b := head ++ c.1 ++ toBytes c.2 16
      Ends (.sealChunk iv slow) s fun u =>
        if r.len < r.done + b.length then u.ten.sealing = none
        else Emit.hostWrite (r.addr + r.done) b (some s.ten.cfg.pasid.toNat) ∈ u.out ∧ u.ten.keys.get r.gen = some { k with sealed := k.sealed + 1 }
          ∧ u.ten.overruns = s.ten.overruns + slow.toNat
          ∧ if rest = [] then u.ten.sealing = none else ∃ n, u.ten.sealing = some n ∧ n.seq = r.seq + 1 ∧ n.todo = some rest ∧ n.done = r.done + b.length)
  ∧ (∀ s v i m, s.msg 0x0508 i m v → s.ten.state = .opened → s.ten.sealing = none → s.ten.unsealing = none →
      Ends (.unseal i) s fun u => (m, .unseal) ∈ u.mbx.waiting
        ∧ u.ten.unsealing = some { slot := i, addr := fld m.payload 0 8, len := fld m.payload 8 4 })
  ∧ (∀ s b r, s.ten.unsealing = some r → (chunkHome b).any s.commandHeld = false →
      Ends (.unsealChunk b) s fun u =>
        (r.len < r.done + b.length ∨ s.openChunk r b = none → u.ten.unsealing = none ∧ u.ten.unsealFailed = true)
        ∧ ∀ d, r.done + b.length ≤ r.len → s.openChunk r b = some d → fld b 7 1 = 2 → fld b 24 8 < 65536 →
          ∃ n, u.ten.unsealing = some n ∧ n.head = r.head ++ d ∧ n.seq = r.seq + 1 ∧ n.done = r.done + b.length)

/-- Key generations (R359, R501). -/
def Obligations.KeysComplete : Prop :=
  (∀ s v i m n, s.msg 0x0509 i m v → s.ten.wrap = some n → s.ten.state ≠ .closing → let p := m.payload
    let g : Fin 4 := fin 4 (fld p 0 1)
    s.gen g = none →
    Ends (.keyInstall i) s fun u => let tail := slice p 0 1 ++ slice p 4 4
      let wrap (shared : Bytes) : Bytes := Config.hkdf [] shared ("LX9640-WRAP".toList.map (fun c => BitVec.ofNat 8 c.toNat) ++ leBytes 1 s.ten.tag ++ tail) 32
      let opened (shared : Bytes) : Option Bytes :=
        Config.gcmOpen (ofBytes 256 (wrap shared)) (ofBytes 96 (slice p 1136 12)) tail (slice p 1148 32) (ofBytes 128 (slice p 1180 16))
      (∀ shared key, Config.decapsulate n (slice p 16 32) (slice p 48 1088) = some shared → opened shared = some key →
        u.gen g = some { key := ofBytes 256 key, genNum := fld p 4 4 } ∧ s.answered u m stOk)
      ∧ ((Config.decapsulate n (slice p 16 32) (slice p 48 1088)).bind opened = none → u.ten.keys = s.ten.keys ∧ s.answered u m stVerifyFailed))
  ∧ (∀ s v i m, s.msg 0x050A i m v → let g : Fin 4 := fin 4 (fld m.payload 0 4)
      (s.gen g).isSome = true → Ends (.keyCurrent i) s fun u => u.curGen = g ∧ s.answered u m stOk)
  ∧ ∀ s v i m, s.msg 0x050B i m v → let g : Fin 4 := fin 4 (fld m.payload 0 4)
      (s.gen g).isSome = true → s.curGen ≠ g → s.genBusy g = false → Ends (.keyRetire i) s fun u => u.gen g = none ∧ s.answered u m stOk

/-! ## Settings, registers and the debug paths -/

/-- Messages that read or set the part's own settings (R181, R259, R348, R373, R382, R387, R415, R455, R464). -/
def Obligations.SettingsComplete : Prop :=
  (∀ s v i m, s.msg 0x0101 i m v → Ends (.sysInfo i) s fun u => s.answered u m stOk 0 (leBytes 1 0xB1 ++ leBytes 1 s.chip.val ++ leBytes 1 s.board.members.toNat
    ++ leBytes 1 (s.pads.toList.filter fun p => decide (p.stat = .spare)).length ++ leBytes 4 s.fenenVersion ++ leBytes 4 s.cores.m0.version ++ leBytes 4 s.boot.fwcnt ++ padTo 16 s.board.serial))
  ∧ (∀ s v i m, s.msg 0x0102 i m v → Ends (.sysTime i) s fun u => s.answered u m stOk 0 (v.views [creg .atbNow, creg .atbState, creg .atbOffset, creg .atbPstart]))
  ∧ (∀ s v i m, s.msg 0x0103 i m v → Ends (.sysMgrPasid i) s fun u => u.mbx.mgrPasid = some (BitVec.ofNat 20 (fld m.payload 0 4)) ∧ s.answered u m stOk)
  ∧ (∀ s v i m n, s.msg 0x0104 i m v → (m.sender = .slice n ∨ m.sender = .tenant) → fld m.payload 28 2 % 2048 < (s.vectors m.sender).2 →
      let p := m.payload
      Ends (.eventRing i) s fun u => s.answered u m stOk ∧ ∃ r, tfind (if m.sender = .tenant then 64 else n.val) u.mbx.rings = some r ∧ r.base = fld p 0 8
        ∧ r.cons = fld p 8 8 ∧ r.prod = fld p 16 8 ∧ r.entries = fld p 24 4 ∧ r.vec = (s.vectors m.sender).1 + fld p 28 2 % 2048 ∧ r.index = 0 ∧ r.lost = 0)
  ∧ (∀ s v i m, s.msg 0x050E i m v → Ends (.epochStatus i) s fun u =>
      s.answered u m stOk 0 (v.views [creg .tenStatus, creg .tenPwr, creg .tenKeys, creg .tenGdir]))
  ∧ (∀ s v i m, s.msg 0x050C i m v → s.ten.state ≠ .closing → s.ten.state ≠ .closed → Ends (.gtableSet i) s fun u =>
      u.rget (creg .tenGtab (fld m.payload 0 4)) = ofBytes 64 (slice m.payload 8 8) ∧ s.answered u m stOk)
  ∧ (∀ s v i m img buffer, s.msg 0x0606 i m v → s.ten.image = some img → (s.ten.state = .loaded ∨ s.ten.state = .suspended) →
      let n := fld m.payload 8 4 / 32
      n ≤ 32768 → (∀ k < n, s.frtBad img k (slice buffer (32 * k) 32) = []) →
      Ends (.frtRegister i buffer) s fun u => u.ten.frt = (List.range n).map (fun k => { bytes := slice buffer (32 * k) 32 }) ∧ s.answered u m stOk)
  ∧ (∀ s v i m, s.msg 0x0601 i m v → let r := creg .fabReg (rIndex m)
      let new := r.store (s.rget r) (rValue m)
      (regWidens (s.rget r) new = true → Ends (.regionSet i) s fun u => u.rget r = new ∧ s.answered u m stOk)
      ∧ (regWidens (s.rget r) new = false → s.fab.callBack = none → exec (.regionSet i) s = .next ((v.startRecall (rIndex m) new).await m .callBack)))
  ∧ (∀ s v i m, s.msg 0x0602 i m v → let r := creg .fabOkey (rIndex m)
      Ends (.okeySet i) s fun u => u.rget r = r.store (s.rget r) (rValue m) ∧ s.answered u m stOk)
  ∧ (∀ s v i m, s.msg 0x0603 i m v → Ends (.lpeerSet i) s fun u => s.answered u m stOk
      ∧ u.rget (creg .fabLpeerA (rIndex m)) = (creg .fabLpeerA (rIndex m)).store (s.rget (creg .fabLpeerA (rIndex m))) (ofBytes 64 (slice m.payload 8 8))
      ∧ u.rget (creg .fabLpeerB (rIndex m)) = (creg .fabLpeerB (rIndex m)).store (s.rget (creg .fabLpeerB (rIndex m))) (ofBytes 64 (slice m.payload 16 8))
      ∧ u.rget (creg .fabLpeerC (rIndex m)) = (creg .fabLpeerC (rIndex m)).store (s.rget (creg .fabLpeerC (rIndex m))) (ofBytes 64 (slice m.payload 24 8)))
  ∧ (∀ s v i m, s.msg 0x0604 i m v → let r := creg .fabLmap (rIndex m)
      Ends (.lmapSet i) s fun u => u.rget r = r.store (s.rget r) (rValue m) ∧ s.answered u m stOk)
  ∧ (∀ s v i m, s.msg 0x0605 i m v →
      (rIndex m = 0 → Ends (.fabSet i) s fun u => s.answered u m stOk ∧ let new := (creg .fabCtrl).store (s.rget (creg .fabCtrl)) (rValue m)
        u.rget (creg .fabCtrl) = if bit new 0 && !bit (s.rget (creg .fabCtrl)) 0 && !s.twinMay new then putBit new 0 false else new)
      ∧ (rIndex m ≠ 0 → Ends (.fabSet i) s fun u => s.answered u m stOk ∧ u.rget (creg .fabGw) = (creg .fabGw).store (s.rget (creg .fabGw)) (rValue m)))
  ∧ (∀ s v i m, s.msg 0x0903 i m v → let t : LTile := fin 64 (fld m.payload 0 1)
      let n := rowOfBank (fld m.payload 1 1) (fld m.payload 2 2)
      (s.pad t).bankSpares (fld m.payload 1 1) < 32 → (s.ctl.swap.any fun c => decide (c.1 = t)) = false →
      Ends (.padRegrow i) s fun u => s.answered u m stOk ∧ if (s.pad t).regrow.isSome then n ∈ (u.pad t).failing
        else (u.pad t).regrow = some (n, s.now, ((s.pad t).row n).regrown) ∧ n ∉ (u.pad t).failing)
  ∧ ∀ s v i m, s.msg 0x0904 i m v → let ch := fld m.payload 0 1
      (s.chan ch).sparesUsed < 1675 → Ends (.dramRepair i) s fun u => s.answered u m stOk
        ∧ (fld m.payload 4 4 ∈ (u.chan ch).failing ∨ ∃ r, (u.chan ch).repair = some r ∧ r.row = fld m.payload 4 4)

/-- Register accesses, memory reads by the debug path, BAR4 and the log (R10, R11, R455, R456, R477, R502, R503, R508-R510). -/
def Obligations.AccessesComplete : Prop :=
  (∀ s a addr value r, Reg.ofAddr addr = some r → mayWrite a r = true →
    r.name ∈ [.arrSave, .arrCtrl, .padCtrl, .schCtrl, .memCtrl, .memScrubWin, .fabGw, .fabOkey, .fabLmap, .atbServo, .atbHold, .tenTherm, .tenCtrl, .pciB4base, .pciDbgwin] →
    Ends (.registerWrite a addr value) s fun u => u.rget r = r.store (s.rget r) value)
  ∧ (∀ s a addr r, Reg.ofAddr addr = some r → r.name ≠ .atbStat → exec (.registerReadClear a addr) s = .next (s.readReg addr true).2)
  ∧ (∀ s v i m, s.msg 0x0701 i m v → Ends (.regRead i) s fun u =>
      s.answered u m stOk 0 (regReads (decide (m.sender = .mgmt)) (fld m.payload 0 8) (fld m.payload 8 4) v).1)
  ∧ (∀ s v i m r, s.msg 0x0702 i m v → Reg.ofAddr (fld m.payload 0 8) = some r → mgmtReg r.name = true →
      let w := writeReg .m0 (fld m.payload 0 8) (ofBytes 64 (slice m.payload 8 8)) v
      Ends (.regWrite i) s fun u => s.answered u m stOk 0 (toBytes (w.readReg (fld m.payload 0 8) false).1 8) ∧ ∀ q, u.rget q = w.rget q)
  ∧ (∀ s v i m, s.msg 0x0703 i m v → s.memReadOpen m = true →
      let x := debugLines (if m.sender = .mgmt then 1 else 0) (fld m.payload 0 8) (fld m.payload 8 4 / 64) (v.charge .host (dramSpan (fld m.payload 0 8) (fld m.payload 8 4)))
      let data := x.1.flatMap fun r => toBytes r.1 64
      Ends (.memRead i) s fun u => s.answered u m stOk 0 (if fld m.payload 12 1 % 2 = 1 then data ++ x.1.map (·.2) else data))
  ∧ (∀ s v i m, s.msg 0x0704 i m v → (isPf1 i = true ∨ s.log.mgmtAt ≠ some s.now) → let w := s.viewOf m.sender
      let oldest := w.next - w.recs.length
      let start := Nat.min w.next (Nat.max oldest (fld m.payload 0 8))
      let n := Nat.min (Nat.min (fld m.payload 8 4) (w.next - start)) ((m.rlen - 64 - 16) / 64)
      Ends (.logRead i) s fun u => s.answered u m stOk 0 (leBytes 8 (start + n) ++ leBytes 4 n ++ leBytes 4 0
        ++ ((w.recs.reverse.drop (start - oldest)).take n).flatMap (·.bytes)))
  ∧ (∀ s off len, off + len ≤ 0x1000000 → Ends (.debugWindowRead off len) s fun u =>
      let v := if off ≤ 0x1000 ∧ 0x1000 < off + len then snap s else s
      u.out = .hostData ((List.range len).map fun i => v.bar0 (off + i)) :: s.out)
  ∧ (∀ s off len, 0x1000000 ≤ off → off + len ≤ 0x2000000 → let w := s.rget (creg .pciDbgwin)
      let a := bits w 47 24 * 2 ^ 24 + off % 2 ^ 24
      let inside : Prop := bit w 48 = true ∧ (a < 0x2400000000 ∨ 0x4000000000 ≤ a ∧ a < 0x4040000000)
      (inside → s.canMove (dramSpan a len) = true) → Ends (.debugWindowRead off len) s fun u =>
        if bit w 48 = true ∧ (a < 0x2400000000 ∨ 0x4000000000 ≤ a ∧ a < 0x4040000000) then
          u.out = .hostData (debugBytes 2 a len (s.charge .host (dramSpan a len))).1 :: s.out
        else u.out = .hostData (List.replicate len 0) :: s.out)
  ∧ (∀ s, Ends (.tapInstructionLoad .idcode) s fun u => u.out = .tap (0xB * 2 ^ 28 + 0x9640 * 2 ^ 12 + Config.tapMaker % 2 ^ 12) :: s.out)
  ∧ (exec (.tapInstructionLoad .bypass) = fun s => .next s)
  ∧ (∀ s a, ((Reg.ofAddr a).isSome = true ∨ s.canMove (dramSpan a 8) = true) → Ends (.tapInstructionLoad (.read a)) s fun u => u.fget (creg .secStatus) 19 19 = 1)
  ∧ (∀ s, Ends (.tapInstructionLoad .pins) s fun u => s.boot.dies = true → u.fget (creg .secStatus) 19 19 = 1)
  ∧ (∀ s off len, let a := s.bar4Addr off
      let lines := span (a / 64) ((a % 64 + len + 63) / 64) false
      a + len ≤ 0x2400000000 → s.scrubRef a len = false → s.canMove lines = true →
      let x := (s.charge .host lines).readLines reqHost (a / 64) ((a % 64 + len + 63) / 64)
      Ends (.bar4Read off len) s fun u => u.out = (if x.1.any (·.poison) then Emit.hostPoison else .hostData (slice (x.1.flatMap fun r => toBytes r.data 64) (a % 64) len)) :: s.out)
  ∧ ∀ s off d, let a := s.bar4Addr off
      d.length = 64 → a % 64 = 0 → a + 64 ≤ 0x2400000000 → s.scrubRef a 64 = false → s.canMove (writeOps a d) = true →
      Ends (.bar4Write off d false) s fun u => tget 0 u.mem.lines (a / 64) = ofBytes 512 d

/-! ## The clutch -/

/-- Requests of other chips at their home (R370, R371, R376-R381): a read is answered with DATA and an owned write with
exclusive DATA after an ACCEPT, and the directory names the chip; a write and a write-back reach memory and are acknowledged. -/
def Obligations.HomeFramesComplete : Prop :=
  (∀ s port f, s.takesFrame port 1 f = true → s.homeOpen (requestOf f .rd) = true → f.src ≠ s.chip → s.peerBit f.src 1 = true → f.relay = false →
    let line := f.addr / 64
    let alone := decide ((s.dirOf line).holders &&& ~~~(BitVec.ofNat 8 (2 ^ f.src.val)) = 0)
    (s.dirOf line).owner = none → ((tfind line s.fab.dir).isSome = true ∨ (s.fab.dir.filter fun e => decide (e.1 % 65536 = line % 65536)).length < 16) →
    Pumps (.krovbemRd port f) s fun v => (v.dirOf line).holders.getLsbD f.src.val = true ∧ (v.dirOf line).owner = (if alone then some f.src else none)
      ∧ ∃ x y, v.linkQ (s.portOf f.src) = s.linkQ (s.portOf f.src) ++ [.line 11 y, .line 8 x] ∧ x.tag = f.tag ∧ x.addr = 64 * line ∧ x.dst = f.src
        ∧ x.data = (s.readLine line reqFabric).1.data ∧ x.poison = (s.readLine line reqFabric).1.poison ∧ x.excl = alone ∧ y.tag = f.tag ∧ y.dst = f.src)
  ∧ (∀ s port f, s.takesFrame port 2 f = true → s.homeOpen (requestOf f .rdx) = true → f.src ≠ s.chip → s.peerBit f.src 1 = true → f.relay = false →
      let line := f.addr / 64
      putBit (s.dirOf line).holders f.src.val false = 0 →
      ((tfind line s.fab.dir).isSome = true ∨ (s.fab.dir.filter fun e => decide (e.1 % 65536 = line % 65536)).length < 16) →
      Pumps (.krovbemRdx port f) s fun v => (v.dirOf line).holders = BitVec.ofNat 8 (2 ^ f.src.val) ∧ (v.dirOf line).owner = some f.src
        ∧ ∃ x y, v.linkQ (s.portOf f.src) = s.linkQ (s.portOf f.src) ++ [.line 11 y, .line 8 x] ∧ x.tag = f.tag ∧ x.addr = 64 * line ∧ x.excl = true)
  ∧ (∀ s port f, s.takesFrame port 3 f = true → s.homeOpen (requestOf f .wr) = true → f.src ≠ s.chip → s.peerBit f.src 1 = true → f.relay = false →
      let line := f.addr / 64
      (s.dirOf line).holders = 0 →
      Pumps (.krovbemWr port f) s fun v => tget 0 v.mem.lines line = f.data ∧ (v.dirOf line).holders = 0
        ∧ ∃ x y, v.linkQ (s.portOf f.src) = s.linkQ (s.portOf f.src) ++ [.line 11 y, .line 9 x] ∧ x.tag = f.tag)
  ∧ (∀ s port f, s.takesFrame port 4 f = true → s.peerBit f.src 1 = true → f.relay = false → f.addr / 64 < memLines → s.fabOpen (f.addr / 64) true = true →
      Pumps (.krovbemWb port f) s fun v => tget 0 v.mem.lines (f.addr / 64) = f.data ∧ (v.dirOf (f.addr / 64)).holders.getLsbD f.src.val = false
        ∧ ∃ x, v.linkQ (s.portOf f.src) = s.linkQ (s.portOf f.src) ++ [.line 9 x] ∧ x.tag = f.tag)
  ∧ ∀ s port f, s.takesFrame port 5 f = true → (∀ b ∈ s.fab.busy, b.line = f.addr / 64 → b.wait.getLsbD f.src.val = false) →
      Pumps (.krovbemEv port f) s fun v => (v.dirOf (f.addr / 64)).holders.getLsbD f.src.val = false ∧ (v.dirOf (f.addr / 64)).owner ≠ some f.src

/-- Frames of a home to a holder, and its answers to a requester (R371, R376, R377, R379-R381). -/
def Obligations.HolderFramesComplete : Prop :=
  (∀ s port f x, s.takesFrame port 6 f = true → let home := s.chipAt port
    let c := cline home (f.addr / 64)
    tfind c s.fab.cache = some x → x.st ≠ .s → f.src ≠ home → s.peerBit f.src 1 = true →
    Pumps (.krovbemFwd port f) s fun v => (∃ y, tfind c v.fab.cache = some y ∧ y.data = x.data ∧ y.st = (if x.st = .e then .s else .o))
      ∧ ∃ a b, KMsg.line 8 a ∈ v.linkQ (s.portOf f.src) ∧ KMsg.line 9 b ∈ v.linkQ (s.portOf home) ∧ a.dst = f.src ∧ a.tag = f.tag ∧ a.data = x.data
        ∧ a.poison = x.poison ∧ b.forHome = true ∧ b.excl = decide (x.st = .e))
  ∧ (∀ s port f, s.takesFrame port 7 f = true → let home := s.chipAt port
      let c := cline home (f.addr / 64)
      Pumps (.krovbemInv port f) s fun v => tfind c v.fab.cache = none ∧
        (∀ x, tfind c s.fab.cache = some x → (x.st = .m ∨ x.st = .o) → ∃ a, v.linkQ (s.portOf home) = s.linkQ (s.portOf home) ++ [.line 8 a] ∧ a.data = x.data ∧ a.forHome = true)
        ∧ ((∀ x, tfind c s.fab.cache = some x → x.st = .e ∨ x.st = .s) → ∃ a, v.linkQ (s.portOf home) = s.linkQ (s.portOf home) ++ [.line 9 a] ∧ a.forHome = true))
  ∧ (∀ s port f o id i, s.takesFrame port 8 f = true → f.forHome = false →
      (s.reqOf f.tag (f.addr / 64) fun o => o.dst ≠ s.chip && o.kind != .wr) = some o → o.kind = .rd → o.why = .frt id i →
      Pumps (.krovbemData port f) s fun v => o ∉ v.fab.outs ∧ (∀ r ∈ v.fab.frts, r.id = id → tfind i r.got = some (f.data, f.poison))
        ∧ (f.poison = false → ∃ x, tfind (cline o.dst o.line) v.fab.cache = some x ∧ x.data = f.data ∧ x.key = o.key ∧ x.st = (if f.excl then .e else .s)))
  ∧ (∀ s port f, s.takesFrame port 9 f = true → f.forHome = false →
      let q := s.reqOf f.tag (f.addr / 64) fun o => decide (o.dst = f.src) && o.kind == .wr
      Pumps (.krovbemAck port f) s fun v => (∀ o, q = some o → o ∉ v.fab.outs) ∧ (q = none → tfind (cline f.src (f.addr / 64)) v.fab.wb = none))
  ∧ (∀ s port f reason o, s.takesFrame port 10 f = true → 1 ≤ reason → reason ≤ 4 →
      (s.reqOf f.tag (f.addr / 64) fun o => decide (o.dst = f.src)) = some o → Pumps (.krovbemNack port f reason) s fun v => o ∉ v.fab.outs)
  ∧ (∀ s port f o, s.takesFrame port 11 f = true → (s.reqOf f.tag (f.addr / 64) fun o => decide (o.dst = f.src) && !o.accepted) = some o →
      Pumps (.krovbemAccept port f) s fun v => { o with accepted := true } ∈ v.fab.outs ∧ tget 0 v.fab.used f.src.val = tget 0 s.fab.used f.src.val - 1)

/-- Liveness and time of the clutch (R375, R378, R395-R400, R407, R409, R410). -/
def Obligations.ClutchEventsComplete : Prop :=
  (∀ (s : State) port t1 t2 t3 t4, s.follows port = true →
    let v := (s.linkGot port).queueK port (.time none false)
    let q := if s.time.src.timeOk then v else v.timeQualified
    exec (.krovbemTime port ⟨t1, true⟩ t2 t3 t4) s = .next (q.servoSample q.cellInForce (((t2 - t1) - (t4 - t3)) / 2 - sbits (s.rget (creg .fabClink port.val)) 15 0)).refreshQl
    ∧ (s.time.src.timeOk = true → Ends (.krovbemTime port ⟨t1, false⟩ t2 t3 t4) s fun u => u.time.src.timeOk = false ∧ u.fget (creg .atbState) 6 4 = 0))
  ∧ (∀ s port t1 t2 t3 t4, s.follows port = false → s.board.leader = s.chip →
      Ends (.krovbemTime port t1 t2 t3 t4) s fun u => tfind port.val u.fab.timeBack = some s.now)
  ∧ (∀ s port src vector, s.boot.dies = false → s.pcsUp port = true → s.chipAt port = src → s.member src = true →
      Pumps (.krovbemHeart port src vector) s fun v => v.peerBit src 1 = true ∧ v.peerBit src 2 = false ∧ v.peerBit src 3 = false
        ∧ tfind port.val v.fab.heartOn = some s.now ∧ tfind src.val v.fab.heartOf = some (s.now, vector) ∧ v.fab.isolated = false
        ∧ ∀ n : Fin 8, vector.getLsbD n.val = true → tfind n.val v.fab.shownAt = some s.now)
  ∧ (∀ s port, s.peerBit (s.chipAt port) 1 = true → s.heartless port = true → Ends (.heartTimeout port) s fun u => u.peerBit (s.chipAt port) 1 = false)
  ∧ (∀ s home tag o t at_, (s.fab.outs.find? fun o => decide (o.dst = home ∧ o.sent.map (·.1) = some tag) && !o.accepted && !o.held) = some o →
      o.sent = some (t, at_) → s.cto ≤ (s.now - at_).toNat →
      Ends (.clutchRequestTimeout home tag) s fun u =>
        if o.reissued = true ∨ s.peerBit home 2 = true then { o with held := true } ∈ u.fab.outs
        else { o with reissued := true, sent := some (t, s.now) } ∈ u.fab.outs ∧ u.rget (creg .fabStat2) = satAdd (s.rget (creg .fabStat2)) 47 32 1)
  ∧ (∀ s addr before q after, s.isBusy (addr / 64) = false → s.fab.waiting = before ++ q :: after → (∀ x ∈ before, x.line ≠ addr / 64) → q.line = addr / 64 →
      exec (.busyLineRelease addr) s = .next ((s.modFab fun f => { f with waiting := before ++ after }).serve q).pump)
  ∧ (∀ s n, deadDue n s = true → Pumps (.memberDead n) s fun v => v.peerBit n 2 = true ∧ (∀ e ∈ v.fab.cache, clineHome e.1 ≠ n)
      ∧ (∀ o ∈ v.fab.outs, o.dst = n → o.sent.isSome = true → o.held = true))
  ∧ (∀ s, isolationDue s = true → Ends .isolationMute s fun u => u.fab.isolated = true)
  ∧ ∀ s n c x sb, tfind c.val (s.ctl.slices.get n).cells = some x → x.standby = some sb → s.mirrorDue n x = true →
      let win := (s.ctl.slices.get n).win0
      ((s.fab.outs.any fun o => decide (o.why = .mirror n c)) = true →
        Ends (.contextMirrorCopy n c) s fun u => u.fab = s.fab ∧ u.rget (creg .fabStat2) = satAdd (s.rget (creg .fabStat2)) 63 48 1)
      ∧ ((s.fab.outs.any fun o => decide (o.why = .mirror n c)) = false → win.valid = true → win.lo + sb.ctxOff + sb.ctxLen ≤ win.hi →
        s.canMove (span ((win.lo + sb.ctxOff) / 64) (sb.ctxLen / 64) false) = true →
        Pumps (.contextMirrorCopy n c) s fun v => ∀ j < sb.ctxLen / 64, ∃ o ∈ v.fab.outs, o.dst = sb.peer ∧ o.kind = .wr
          ∧ o.line = Config.peerWindow sb.peer.val sb.pslice.val + sb.destOff / 64 + j ∧ o.why = .mirror n c)

/-- Barriers and twins (R401-R406, R411). -/
def Obligations.LockstepCompletes : Prop :=
  (∀ s v i m, s.msg 0x0607 i m v → let p := m.payload
    let b : Fin 16 := fin 16 (fld p 0 1)
    let mask : BitVec 8 := BitVec.ofNat 8 (fld p 1 1)
    let x : W64 := BitVec.ofNat 64 (fld p 8 8)
    s.now.toNat + 524288 ≤ x.toNat → s.servoState = stLocked → s.barState b ≠ 1 → s.barState b ≠ 2 → mask.getLsbD s.chip.val = true → mask &&& ~~~s.board.members = 0 →
    (∀ j < fld p 2 2, ∃ e ∈ s.ten.runList, e.entry = BitVec.ofNat 32 (fld p (16 + 4 * j) 4) ∧ e.running = none ∧ e.code = none ∧ (e.barrier = none ∨ e.barrier = some b)) →
    Ends (.barrierArm i) s fun u => u.barX b = x ∧ u.barState b = 1 ∧ u.barMask b = mask ∧ s.answered u m stOk
      ∧ ∀ j < fld p 2 2, ∀ e ∈ u.ten.runList, e.entry = BitVec.ofNat 32 (fld p (16 + 4 * j) 4) → e.barrier = some b)
  ∧ (∀ s port src b, s.boot.dies = false → s.peerBit (s.chipAt port) 1 = true → s.member src = true → s.barState b = 1 →
      (s.coordinator b = some s.chip → s.now ≤ s.barX b - 262144 → Ends (.krovbemBar port src b 0) s fun u => (u.barOf b).arrived.getLsbD src.val = true)
      ∧ (s.coordinator b = some src → s.now ≤ s.barX b - 16384 → Ends (.krovbemBar port src b 1) s fun u => u.barState b = 2)
      ∧ (exec (.krovbemBar port src b 2) s = .next (s.linkGot port)))
  ∧ (∀ s b, s.barState b = 1 → s.coordinator b = some s.chip → (s.barOf b).decided = false →
      (s.barMask b &&& ~~~(s.barOf b).arrived = 0 → s.now = s.barX b - 262144 → Ends (.barrierDecide b) s fun u => (u.barOf b).decided = true
        ∧ (s.now ≤ s.barX b - 16384 → u.barState b = 2)
        ∧ ∀ n : Fin 8, n ≠ s.chip → (s.barMask b).getLsbD n.val = true → s.peerBit n 1 = true → KMsg.bar b 1 ∈ u.linkQ (s.portOf n))
      ∧ (s.barMask b &&& ~~~(s.barOf b).arrived ≠ 0 → s.now = s.barX b - 262144 → Ends (.barrierDecide b) s fun u => (u.barOf b).decided = true
        ∧ ∀ n : Fin 8, n ≠ s.chip → (s.barMask b).getLsbD n.val = true → s.peerBit n 1 = true → KMsg.bar b 2 ∈ u.linkQ (s.portOf n)))
  ∧ (∀ s b, s.barState b = 1 → s.barX b - 16384 ≤ s.now → Ends (.barrierGoDeadline b) s fun u => u.barState b = 4 ∧ (∀ x ∈ s.heldFor b, u.ctx x.1 x.2 = none)
      ∧ ∀ e ∈ u.ten.runList, e.barrier = some b → e.running = none)
  ∧ (∀ s b, s.barState b = 2 → s.now = s.barX b → Ends (.barrierRelease b) s fun u => u.barState b = 3
      ∧ ∀ x ∈ s.heldFor b, ∀ k, s.ctx x.1 x.2 = some k → u.ctx x.1 x.2 =
          if bit (s.rget (treg .schCtrl x.1)) 0 then none else some { k with fence := none, started := s.now, last := s.now })
  ∧ (∀ s port kernel tile count record hashes, s.boot.dies = false → s.peerBit (s.chipAt port) 1 = true → s.twin = some (s.chipAt port) →
      let r : TwinRec := { kernel := kernel, tile := tile, count := count, record := record, hashes := hashes, at_ := s.now }
      (s.fab.twinMine.find? (sameKernel r) = none → Ends (.krovbemTwin port kernel tile count record hashes) s fun u => u.fab.twinTheirs = enq s.fab.twinTheirs r)
      ∧ ∀ q, s.fab.twinMine.find? (sameKernel r) = some q → Ends (.krovbemTwin port kernel tile count record hashes) s fun u => q ∉ u.fab.twinMine
        ∧ (¬ (q.count = count ∧ q.record = record ∧ q.hashes = hashes) → bit (u.rget (creg .fabTwin)) 0 = true))
  ∧ (∀ s kernel tile r, (s.fab.twinMine.find? fun r => decide (r.kernel = kernel ∧ r.tile = tile ∧ 19660800 ≤ (s.now - r.at_).toNat)) = some r →
      Ends (.twinRecordTimeout kernel tile) s fun u => r ∉ u.fab.twinMine ∧ bit (u.rget (creg .fabTwin)) 0 = true)
  ∧ ∀ s a value, mayMem a = true → bit value 0 = true → Ends (.twinMismatchClear a value) s fun u => bit (u.rget (creg .fabTwin)) 0 = false

/-! ## The gateway -/

/-- Packets, resends and the end of a region's recall (R373, R387-R394). -/
def Obligations.GatewayCompletes : Prop :=
  (∀ s p h l, s.takesPacket p = true → (tget {} s.fab.tags (8 + p.peer.val)).judge p.tag = 0 → s.gwHeld p.peer < tget 4 s.fab.offered p.peer.val →
    s.gwBlock p.addr = some (h, l) → h = s.chip → (∀ j < 64, s.scrubbed (l + j) = false) →
    (s.admits { kind := .rd, org := .gw p.peer, tag := p.tag, key := p.key, line := l } = true →
      Pumps (.leapfrogRdreq p) s fun v => (∃ g ∈ v.fab.gins, g.id = s.fab.nextId ∧ g.peer = p.peer ∧ g.tag = p.tag ∧ g.write = false ∧ g.left = 64)
        ∧ ∀ j < 64, ∃ o ∈ v.fab.outs, o.dst = s.chip ∧ o.kind = .rd ∧ o.line = l + j ∧ o.key = p.key ∧ o.why = .gwIn s.fab.nextId j)
    ∧ (s.admits { kind := .wr, org := .gw p.peer, tag := p.tag, key := p.key, line := l } = true →
      Pumps (.leapfrogWrite p) s fun v => (∃ g ∈ v.fab.gins, g.id = s.fab.nextId ∧ g.peer = p.peer ∧ g.tag = p.tag ∧ g.write = true ∧ g.left = lineCount p.mask)
        ∧ ∀ j < 64, p.mask.getLsbD j = true → ∃ o ∈ v.fab.outs, o.dst = s.chip ∧ o.kind = .wr ∧ o.line = l + j
          ∧ o.data = p.lines.getD (lineCount (p.mask &&& (BitVec.ofNat 64 (2 ^ j - 1)))) 0))
  ∧ (∀ s p g, s.takesPacket p = true →
      ((s.gwMatch p fun g => !g.write && decide (g.tag.isSome)) = some g → Pumps (.leapfrogRddata p) s fun v => g ∉ v.fab.gouts
        ∧ tfind p.peer.val v.fab.credit = some p.credit ∧ bit (v.rget (lpeerC p.peer)) 17 = false)
      ∧ ((s.gwMatch p fun g => g.write) = some g → Pumps (.leapfrogDone p) s fun v => g ∉ v.fab.gouts
        ∧ tfind p.peer.val v.fab.credit = some p.credit ∧ bit (v.rget (lpeerC p.peer)) 17 = false)
      ∧ ((s.gwMatch p fun _ => true) = some g → 1 ≤ p.status → p.status ≤ 5 → Pumps (.leapfrogNack p) s fun v => g ∉ v.fab.gouts
        ∧ tfind p.peer.val v.fab.credit = some p.credit))
  ∧ (∀ s p, s.takesPacket p = true → exec (.leapfrogKeepalive p) s = .next (s.gwCounted p).pump)
  ∧ (∀ s peer tag g, (s.fab.gouts.find? fun g => decide (g.peer = peer ∧ g.tag = some tag) && !g.held) = some g →
      (s.gwRto ≤ (s.now - g.last).toNat → (s.now - g.first).toNat < 19660800 →
        Ends (.gatewayResend peer tag) s fun u => { g with last := s.now } ∈ u.fab.gouts ∧ u.rget (creg .fabStat2) = satAdd (s.rget (creg .fabStat2)) 31 16 1)
      ∧ (19660800 ≤ (s.now - g.first).toNat →
        Ends (.gatewayRequestExpire peer tag) s fun u => { g with held := true } ∈ u.fab.gouts ∧ bit (u.rget (lpeerC peer)) 17 = true))
  ∧ ∀ s r, s.fab.callBack = some r → 65536 ≤ (s.now - r.at_).toNat → s.gibLines (s.fget (creg .fabReg r.reg) 7 0) = [] →
      Pumps .regionRecallComplete s fun v => v.rget (creg .fabReg r.reg) = r.value ∧ v.fab.callBack = none
        ∧ ∀ w ∈ v.mbx.waiting, w.2 ≠ .callBack

/-! ## Staging, commits and the control cores -/

/-- A slice's set takes a setting (R415-R418, R454, R455, R458-R460). -/
def Obligations.StagingCompletes : Prop :=
  let takes (c : Instr) (s v : State) (m : Msg) (n : Fin 64) (x : Setting) : Prop :=
    Ends c s fun u => s.answered u m stOk ∧ u.ctl.staged.get n = stageOne (v.ctl.staged.get n) x ∧ ∀ k : Fin 64, k ≠ n → u.ctl.staged.get k = v.ctl.staged.get k
  (∀ s v i m, s.unitMsg 0x0201 i m v → let p := m.payload
    let n : Fin 64 := fin 64 (fld p 0 1)
    ((s.ctl.slices.get n).st = .staged ∨ ((s.ctl.slices.get n).st = .free ∧ s.sweeping n.val = false)) → s.pendOf (.slice n) = none →
    takes (.sliceCreate i) s v m n (.create (BitVec.ofNat 20 (fld p 4 4)) (fld p 8 2) (fld p 10 2) (fld p 12 2) (fld p 14 2))
      ∧ Ends (.sliceCreate i) s fun u => (u.ctl.slices.get n).st = .staged)
  ∧ (∀ s v i m, s.unitMsg 0x0202 i m v → let p := m.payload
      let n : Fin 64 := fin 64 (fld p 0 1)
      (s.ctl.slices.get n).st ≠ .free → s.pendOf (.slice n) = none →
      Ends (.sliceAlloc i) s fun u => s.answered u m stOk ∧ ∃ tiles, .alloc (winOf p 8) (winOf p 16) tiles ∈ u.ctl.staged.get n
        ∧ ∀ k < fld p 1 1, (∀ j, k < j → j < fld p 1 1 → fld p (32 + 8 * j) 1 % 64 ≠ fld p (32 + 8 * k) 1 % 64) →
          (fin 64 (fld p (32 + 8 * k) 1), fld p (34 + 8 * k) 2, 0) ∈ tiles)
  ∧ (∀ s v i m, s.unitMsg 0x0203 i m v → let n : Fin 64 := fin 64 (fld m.payload 0 4)
      ((s.ctl.slices.get n).st = .serving ∨ (s.ctl.slices.get n).st = .deleting) → s.pendOf (.slice n) = none →
      takes (.sliceDelete i) s v m n .delete ∧ Ends (.sliceDelete i) s fun u => (u.ctl.slices.get n).st = .deleting)
  ∧ (∀ s v i m, s.msg 0x0204 i m v → let n : Fin 64 := fin 64 (fld m.payload 0 4)
      let y := s.ctl.slices.get n
      Ends (.sliceStatus i) s fun u => u.ctl = v.ctl ∧ ∃ b, s.answered u m stOk 0 b ∧ b.length = 32
        ∧ (y.st = .serving → fld b 0 1 = 2 ∧ fld b 8 8 = ((s.pendOf (.slice n)).elim 0 (·.x.toNat)) ∧ fld b 16 4 = y.pasid.toNat))
  ∧ (∀ s v i m, s.unitMsg 0x0301 i m v → let n : Fin 64 := fin 64 (fld m.payload 0 1)
      (s.ctl.slices.get n).st ≠ .free → s.pendOf (.slice n) = none → takes (.cellStage i) s v m n (.cell (fin 512 (fld m.payload 2 2)) m.payload))
  ∧ (∀ s v i m, s.msg 0x0302 i m v → let n : Fin 64 := fin 64 (fld m.payload 0 1)
      (s.ctl.slices.get n).st ≠ .free → s.pendOf (.slice n) = none →
      takes (.cellState i) s v m n (.cellState (fin 512 (fld m.payload 2 2)) (fin 3 (fld m.payload 1 1))))
  ∧ (∀ s v i m f, s.unitMsg 0x0303 i m v → let p := m.payload
      let n : Fin 64 := fin 64 (fld p 0 1)
      let g : StreamRegs := ⟨BitVec.ofNat 64 (fld p 8 8), BitVec.ofNat 64 (fld p 16 8), BitVec.ofNat 64 (fld p 24 8), BitVec.ofNat 64 (fld p 32 8)⟩
      let rim := s.rimOfFh (bits g.key 3 0)
      fld p 4 2 = 1 → (s.ctl.slices.get n).st ≠ .free → s.pendOf (.slice n) = none → v.streamIndex rim [] g = some f →
      takes (.streamStage i) s v m n (.stream (fin 512 (fld p 2 2)) rim f g))
  ∧ (∀ s v i m, s.unitMsg 0x0304 i m v → let p := m.payload
      let n : Fin 64 := fin 64 (fld p 0 1)
      let b := slice p 8 32
      fld p 2 2 = 1 → (s.ctl.slices.get n).st ≠ .free → s.pendOf (.slice n) = none →
      takes (.templateStage i) s v m n (.template (s.rimOfFh (tmplPort b)) (fld b 0 2) b))
  ∧ (∀ s v i m buffer, s.unitMsg 0x0305 i m v → let n : Fin 64 := fin 64 (fld m.payload 0 1)
      let b := imageBytes buffer (fld m.payload 16 4)
      (s.ctl.slices.get n).st ≠ .free → s.pendOf (.slice n) = none → (imageBad b false false).contains (1, 0, 12) = false →
      takes (.imageStage i buffer) s v m n (.image (imageOfBytes b) (imageBad b false false)))
  ∧ (∀ s v i m, s.unitMsg 0x0306 i m v → let p := m.payload
      let n : Fin 64 := fin 64 (fld p 0 1)
      (s.ctl.slices.get n).st ≠ .free → s.pendOf (.slice n) = none →
      takes (.standbyStage i) s v m n (.standby (fin 512 (fld p 2 2)) (if fld p 16 4 = 0 then none
        else some ⟨fin 8 (fld p 1 1), fin 64 (fld p 4 1), fld p 8 8, fld p 16 4, fld p 24 8⟩)))
  ∧ ∀ s v i m, s.unitMsg 0x0406 i m v → s.pendOf .device = none →
      (fld m.payload 0 1 = 1 → Ends (.deviceStageTileSwap i) s fun u => s.answered u m stOk
        ∧ u.ctl.device = stageOne s.ctl.device (.tileSwap (fin 64 (fld m.payload 1 1)) (fin 68 (fld m.payload 2 1))))
      ∧ (fld m.payload 0 1 = 2 → Ends (.deviceStageFrameOffset i) s fun u => s.answered u m stOk
        ∧ u.ctl.device = stageOne s.ctl.device (.frameOffset (sbits (BitVec.ofNat 64 (fld m.payload 8 5)) 39 0)))

/-- The other messages of a slice (R306, R346, R454, R455). -/
def Obligations.SliceMessagesComplete : Prop :=
  (∀ s v i m, s.unitMsg 0x0307 i m v → Ends (.shedOrder i) s fun u => s.answered u m stOk ∧ u.mbx.shedOrder.length = fld m.payload 0 2
    ∧ ∀ k < fld m.payload 0 2, u.mbx.shedOrder[k]? = some (fin 64 (fld m.payload (8 + 4 * k) 1), fin 512 (fld m.payload (10 + 4 * k) 2)))
  ∧ (∀ s v i m buffer l k, s.msg 0x0308 i m v → m.sender = .slice k → let p := m.payload
      s.lane 1 (fld p 0 1 % 16) = some l → fld p 2 2 ≤ s.maxFrame l.val - 4 →
      Ends (.fhSend i buffer) s fun u => s.answered u m stOk
        ∧ let b := if fld p 1 1 % 2 = 1 then padTo (fld p 2 2) buffer else slice p 8 (fld p 2 2)
          let held := tget [] (s.portAll l.val).queues (128 + k.val)
          (s.isEthernet l.val = true → bit (s.qReg l.val (128 + k.val)) 21 = true →
            heldBytes held + wireLen b ≤ 1024 * Nat.max 1 (bits (s.qReg l.val (128 + k.val)) 34 24) →
            sumNat ((s.portAll l.val).queues.map fun x => heldBytes x.2) + wireLen b ≤ 2097152 →
            tget [] (u.portAll l.val).queues (128 + k.val) = enq held b))
  ∧ ∀ s v i m c, s.msg 0x0309 i m v → let n : Fin 64 := fin 64 (fld m.payload 0 1)
      tfind (fld m.payload 2 2) (s.ctl.slices.get n).cells = some c →
      Ends (.cellStats i) s fun u => s.answered u m stOk 0 ((c.stats.set 6 (Config.freeBits 32 s.freeCount).toNat).toList.flatMap fun w => leBytes 4 w)
        ∧ ∃ d, tfind (fld m.payload 2 2) (u.ctl.slices.get n).cells = some d ∧ d.stats = Vector.replicate 8 0 ∧ d.st = c.st ∧ d.payload = c.payload

/-- Checks, commits and their withdrawal (R417-R420, R425). -/
def Obligations.CommitMessagesComplete : Prop :=
  (∀ s v i m, s.unitMsg 0x0401 i m v → let id := setOf (fld m.payload 0 4)
    let l := v.violations id (v.placed id (v.stagedOf id)) (v.cfgBut id) none
    Ends (.stageCheck i) s fun u => u.ctl = v.ctl ∧ s.answered u m (if l = [] then stOk else stCheckFailed) 0 (violBytes l))
  ∧ (∀ s v i m, s.unitMsg 0x0402 i m v → let id := setOf (fld m.payload 0 1)
      let x := BitVec.ofNat 64 (fld m.payload 8 8)
      let l := v.placed id (v.stagedOf id)
      s.pendOf id = none → s.stagedOf id ≠ [] → s.hostPend.length < 16 → v.judge id l x = none →
      Ends (.stageCommit i) s fun u => u.ctl.pend = enq s.ctl.pend ⟨id, x, s.now, l⟩ ∧ u.stagedOf id = s.stagedOf id
        ∧ s.answered u m stOk 0 (leBytes 8 s.now.toNat ++ leBytes 8 x.toNat))
  ∧ (∀ s v i m w, s.unitMsg 0x0403 i m v → s.pendOf (setOf (fld m.payload 0 4)) = some w → s.now + 1966080 < w.x → v.leansOn w = [] →
      Ends (.stageCancel i) s fun u => s.answered u m stOk ∧ w ∉ u.ctl.pend ∧ (∀ p ∈ s.ctl.pend, p ≠ w → p ∈ u.ctl.pend)
        ∧ u.ctl.staged = s.ctl.staged ∧ u.ctl.device = s.ctl.device)
  ∧ (∀ s v i m, s.unitMsg 0x0404 i m v → let id := setOf (fld m.payload 0 4)
      s.pendOf id = none →
      Ends (.stageClear i) s fun u => s.answered u m stOk ∧ u.stagedOf id = []
        ∧ ∀ n, id = .slice n → ((s.ctl.slices.get n).st = .staged → (u.ctl.slices.get n).st = .free)
          ∧ ((s.ctl.slices.get n).st = .deleting → (u.ctl.slices.get n).st = .serving))
  ∧ ∀ s v i m, s.unitMsg 0x0405 i m v → let id := setOf (fld m.payload 0 4)
      let p := s.pendOf id
      Ends (.stageStatus i) s fun u => u.ctl = v.ctl
        ∧ s.answered u m stOk 0 (leBytes 4 p.isSome.toNat ++ leBytes 4 (s.stagedOf id).length ++ leBytes 8 (p.elim 0 (·.x.toNat))
          ++ leBytes 8 (p.elim 0 (·.accepted.toNat)) ++ leBytes 8 (tget 0 s.ctl.lastX (if id = .device then 64 else id.num)).toNat)

/-- Commits taking effect and tile swaps (R423, R427, R428). -/
def Obligations.CommitEventsComplete : Prop :=
  (∀ s p, p ∈ s.ctl.pend → p.x = s.now →
    Ends .stageCommitApply s fun u => (∀ q, q ∈ u.ctl.pend ↔ q ∈ s.ctl.pend ∧ q.x ≠ s.now) ∧ u.rget (creg .ctlLast) = s.now
      ∧ u.stagedOf p.set = [] ∧ ∀ n : Fin 64, p.set = .slice n → bit (u.rget (creg .ctlLastset)) n.val = true)
  ∧ (∀ s p t q, p ∈ s.ctl.pend → p.x = s.now + 983040 → .tileSwap t q ∈ p.settings → Ends .tileSwapTenantSuspend s fun u => (u.tiles.get t).swapHold = true
      ∧ u.issueStopped t = true ∧ ((s.tiles.get t).swapHold = false → (s.arr t).freeze = none → (u.arr t).run.any Pass.freezable = false))
  ∧ ∀ s p t q c, s.ctl.swap = some c → p ∈ s.ctl.pend → .tileSwap t q ∈ p.settings → s.now = p.accepted + 196608 →
      exec .tileSwapCopyComplete s = .next { s with ctl := { s.ctl with swap := none } }

/-- Heartbeats, handovers and the moult (R32, R413, R430-R434, R436, R469). -/
def Obligations.CoresComplete : Prop :=
  (∀ s r, s.beats r = true →
    Ends (.heartbeatWrite r) s fun u => u.fget (creg .ctlHb (s.holder r).val) 31 0 = (s.fget (creg .ctlHb (s.holder r).val) 31 0 + 1) % 2 ^ 32
      ∧ u.cores.beatAt.get (s.holder r) = s.now)
  ∧ (∀ s r, beatMissed r s = true → Ends (.heartbeatTimeout r) s fun u => u.cores.failed.getLsbD (s.holder r).val = true
      ∧ ∀ m ∈ u.mbx.taken, isPf1 m.slot = false → servingRole m.opcode m.payload ≠ r)
  ∧ (∀ s p k pos, p ∈ s.ctl.pend → p.x = s.now + 983040 → .roleMove k pos ∈ p.settings → Ends .handoverPrepare s fun u => u.cores.away.getLsbD k.val = true)
  ∧ (∀ s h n k, s.cores.moult = some (.confirm h n, k) → 2000 ≤ n →
      Ends .handoverConfirm s fun u => u.cores.moult = some (if k.val < 6 then (.load, k + 1) else (.finish, k)) ∧ u.cores.spareLoaded = false)
  ∧ (∀ s k i, s.cores.moult = some (.load, k) → s.cores.heldFenen = some i →
      Ends .spareImageLoaded s fun u => u.cores.image.get (s.holder 7) = i ∧ u.cores.spareLoaded = true ∧ u.cores.moult = some (.moving, k))
  ∧ (∀ s k i j, s.cores.moult = some (.finish, k) → s.cores.heldFenen = some i → s.cores.heldM0 = some j →
      Ends .spareImageLoaded s fun u => u.cores.image.get (s.holder 7) = i ∧ u.cores.flashFenen = i ∧ u.cores.moult = some (.m0, k)
        ∧ u.boot.fwcnt = Nat.max s.boot.fwcnt (Nat.min i.rollback j.rollback))
  ∧ (∀ s k j, s.cores.moult = some (.m0, k) → s.cores.heldM0 = some j →
      Ends .m0Moult s fun u => u.cores.m0 = j ∧ u.cores.flashM0 = j ∧ u.cores.moult = none ∧ u.cores.m0Up = false ∧ u.cores.restart = some s.now)
  ∧ (∀ s, s.cores.restart.isSome = true → s.boot.held = false →
      Ends .m0RestartComplete s fun u => u.cores.m0Up = true ∧ u.cores.restart = none ∧ u.time.src.paused = false)
  ∧ (∀ s, s.cores.m0Up = true → Ends .m0WatchdogExpiry s fun u => u.cores.m0Up = false ∧ u.cores.restart = some s.now ∧ u.time.src.paused = true
      ∧ u.spdm.pcie = {} ∧ u.spdm.i3c = {})
  ∧ (∀ s v i m f j, s.msg 0x0901 i m v → s.cores.heldFenen = some f → s.cores.heldM0 = some j → s.cores.moult = none →
      s.boot.fwcnt ≤ f.rollback → s.boot.fwcnt ≤ j.rollback →
      Ends (.moultStart i) s fun u => if Config.formatAccepted (s.cores.image.get (s.holder 0)).format f.format = true then
          u.cores.moult = some (.load, 0) ∧ u.cores.aborted = false ∧ s.answered u m stOk
        else u.cores = s.cores ∧ s.answered u m stBadState)
  ∧ ∀ s v i m, s.msg 0x0902 i m v → s.cores.moult = none → Ends (.moultStatus i) s fun u => u.cores = s.cores
      ∧ s.answered u m stOk 0 (toBytes s.ctlStatus 8 ++ leBytes 1 0xFF ++ leBytes 7 0)

/-! ## Mailbox slots, boot and power -/

/-- Slots are written, armed and swept (R439, R441, R452). -/
def Obligations.SlotsComplete : Prop :=
  (∀ s i h, s.boot.held = false → Ends (.slotArm i h) s fun u =>
    if (s.slot i).armed.isSome then u.mbx = s.mbx ∧ u.rget (creg .mbxStat) = satAdd (s.rget (creg .mbxStat)) 31 16 1
    else (u.slot i).hdr = h ∧ (u.slot i).armed = (if bit h 32 then some s.now else none) ∧ (u.slot i).body = (s.slot i).body)
  ∧ (∀ s i off b, s.boot.held = false → (s.slot i).armed = none → off + b.length ≤ 4096 →
      Ends (.mailboxSlotWrite i off b) s fun u => (u.slot i).armed = (if off = 0 ∧ 64 ≤ b.length ∧ bit (u.slot i).hdr 32 then some s.now else none) ∧ ∀ k < b.length,
        if off + k < 64 then bits (u.slot i).hdr (8 * (off + k) + 7) (8 * (off + k)) = (b.getD k 0).toNat
        else tget 0 (u.slot i).body (off + k - 64) = b.getD k 0)
  ∧ ∀ s i a o, s.off s.now % 2048 = 0 → (s.slot i).armed = some a → a < s.now → s.served i = true → s.slotOwner i = some o →
      let h := (s.slot i).hdr
      let p := (List.range (Nat.min 4032 (bits h 79 64))).map fun k => tget 0 (s.slot i).body k
      (∀ j, j ≠ i → (s.slot j).armed = none) → (s.slot i).kept = none →
      bits h 191 128 % 64 = 0 → 64 ≤ bits h 223 192 → bits h 223 192 ≤ 4096 → bits h 223 192 % 64 = 0 →
      some (bits h 115 96) = (if o = .mgmt then some 0 else s.pasidOf o) → checkMsg s i o (bits h 63 48) (bits h 79 64) (bits h 90 80) h p = none →
      Ends .mailboxSweep s fun u => (u.slot i).armed = none ∧ bit (u.slot i).hdr 32 = false
        ∧ ∃ m, u.mbx.taken = enq s.mbx.taken m ∧ m.slot = i ∧ m.seq = bits h 31 0 ∧ m.opcode = bits h 63 48 ∧ m.raddr = bits h 191 128
          ∧ m.rlen = bits h 223 192 ∧ m.payload = p ∧ m.sender = o ∧ m.taken = s.now
          ∧ m.vec = (if bit h 40 then some ((s.vectors o).1 + bits h 90 80) else none)

/-- Signed objects (R430, R455, R485, R486, R489, R492). -/
def Obligations.ObjectsComplete : Prop :=
  (∀ s v i m buffer, s.msg 0x0801 i m v → let kind := fld m.payload 0 1
    let b := slice buffer 0 (fld m.payload 16 4)
    Ends (.imageVerify i buffer) s fun u =>
      if (objectBad kind b).isSome then u.cores = s.cores ∧ s.answered u m stVerifyFailed
      else if fld b 8 4 < s.counterOf kind then u.cores = s.cores ∧ s.answered u m stRollback
      else s.answered u m stOk 0 (verifyReply b) ∧ (kind = 1 → u.cores.heldFenen = some (objectImage b))
        ∧ (kind = 2 → u.cores.heldM0 = some (objectImage b)) ∧ (kind = 3 → u.cores.flashBoard = some (objectBoard b)))
  ∧ ∀ s v i m buffer, s.msg 0x0802 i m v → let kind := fld m.payload 0 1
      let b := slice buffer 0 (fld m.payload 16 4)
      s.boot.recovery = true → kindStage kind ≤ s.stage + 1 →
      Ends (.recoveryImage i buffer) s fun u =>
        if (objectBad kind b).isSome then u.boot = s.boot ∧ s.answered u m stVerifyFailed
        else if fld b 8 4 < s.counterOf kind then u.boot = s.boot ∧ s.answered u m stRollback
        else s.answered u m stOk 0 (verifyReply b) ∧ u.boot.recovery = false ∧ u.boot.running = true ∧ u.stage = kindStage kind - 1
          ∧ u.fget (creg .secStatus) 16 16 = 1 ∧ u.fget (creg .secStatus) 15 8 = 0

/-- Boot stages and their stops (R488-R492, R504, R535, R536). -/
def Obligations.BootCompletes : Prop :=
  (∀ s reason detail, s.boot.running = true → s.boot.held = false → s.stage < 13 → s.stageWaits (s.stage + 1) = false → s.stageBad (s.stage + 1) = none →
    Ends (.bootStageComplete true reason detail) s fun u => u.stage = s.stage + 1 ∧ u.boot.running = decide (s.stage + 1 < 13))
  ∧ (∀ s reason detail, s.boot.running = true → s.boot.held = false → s.stage < 13 → reason ∈ stageReasons (s.stage + 1) →
      Ends (.bootStageComplete false reason detail) s fun u => u.stage = s.stage ∧ u.fget (creg .secStatus) 15 8 = reason ∧ u.boot.running = false
        ∧ u.boot.recovery = decide (reason ≠ 3 ∧ reason ≠ 4) ∧ u.boot.detail = detail)
  ∧ ∀ s detail, s.boot.running = true → s.boot.held = false → s.stage < 12 → ¬ (s.stage = 7 ∧ bit (s.rget (creg .pkgStatus)) 1 = false) →
      Ends (.bootMilestoneMissed detail) s fun u => u.fget (creg .secStatus) 15 8 = (stageReasons (s.stage + 1)).headD 1
        ∧ u.boot.running = false ∧ u.boot.detail = detail ∧ u.stage = s.stage

/-- The reset and power pins, and the clock (R468, R525, R527, R532-R534). -/
def Obligations.PinsComplete : Prop :=
  (∀ s, Ends .porstAssert s fun u => u.boot.held = true ∧ u.regs = State.reset.regs ∧ u.tiles = State.reset.tiles ∧ u.ctl = State.reset.ctl
    ∧ u.ten = State.reset.ten ∧ u.mbx = State.reset.mbx ∧ u.log = State.reset.log ∧ u.boot.fwcnt = s.boot.fwcnt ∧ u.boot.bdcnt = s.boot.bdcnt
    ∧ u.cores.flashM0 = s.cores.flashM0 ∧ u.cores.flashFenen = s.cores.flashFenen ∧ u.cores.flashBoard = s.cores.flashBoard ∧ u.mem.lines = [] ∧ u.out = s.out)
  ∧ (∀ s, Ends .mgmtPwrokLow s fun u => u.boot.held = true ∧ bit (u.rget (creg .pkgStatus)) 0 = false ∧ u.ctl = State.reset.ctl)
  ∧ (∀ s, s.boot.held = true → Ends .porstRelease s fun u => u.boot.held = false ∧ u.boot.running = true ∧ bit (u.rget (creg .pkgStatus)) 0 = true
      ∧ bit (u.rget (creg .pkgClk)) 3 = true)
  ∧ (∀ s, bit (s.rget (creg .pkgStatus)) 2 = true → bit (s.rget (creg .pkgStatus)) 1 = false → s.boot.held = false →
      Ends .mainPwrokAssert s fun u => bit (u.rget (creg .pkgStatus)) 1 = true ∧ u.boot.dies = false)
  ∧ (∀ s, bit (s.rget (creg .pkgStatus)) 1 = true → Ends .mainPwrokDeassert s fun u => bit (u.rget (creg .pkgStatus)) 1 = false
      ∧ (bit (s.rget (creg .pkgStatus)) 2 = true → u.boot.dies = true ∧ bit (u.rget (creg .pkgStatus)) 2 = false ∧ u.tiles = State.reset.tiles
        ∧ u.mem.lines = [] ∧ u.ctl = State.reset.ctl ∧ u.ten.state = .closed))
  ∧ (∀ s, s.boot.held = false → Ends .thermtrip s fun u => bit (u.rget (creg .pkgStatus)) 3 = true
      ∧ (bit (s.rget (creg .pkgStatus)) 2 = true → u.boot.dies = true ∧ bit (u.rget (creg .pkgStatus)) 2 = false))
  ∧ ∀ s, bit (s.rget (creg .pkgClk)) 2 = true → Ends .pllLockLoss s fun u => bit (u.rget (creg .pkgClk)) 2 = false
      ∧ ∃ r, u.log.mgmt.recs.head? = some r ∧ r.code = .rule 468 0 ∧ r.unit = 8 ∧ r.cls = .uf

/-- Sensors and self-tests (R454, R482-R484, R526, R537, R538). -/
def Obligations.SensorsComplete : Prop :=
  (∀ s rail mv da, s.cores.m0Up = true → 8 ≤ s.stage → let set := s.fget (creg .pkgRail rail.val) 15 0
    let ok := decide (97 * set ≤ 100 * mv.toNat ∧ 100 * mv.toNat ≤ 103 * set)
    let n := if ok then 0 else tget 0 s.pkg.railBad rail.val + 1
    Ends (.railReading rail mv da) s fun u => u.fget (creg .pkgRail rail.val) 31 16 = mv.toNat ∧ u.fget (creg .pkgRail rail.val) 47 32 = da.toNat
      ∧ bit (u.rget (creg .pkgRail rail.val)) 48 = ok ∧ u.fget (creg .pkgRail rail.val) 15 0 = set ∧ tget 0 u.pkg.railBad rail.val = n
      ∧ (n = 3 → bit (u.rget (creg .pkgStatus)) 6 = true ∧ u.rget (creg .pkgStat) = satAdd (s.rget (creg .pkgStat)) 15 0 1))
  ∧ (∀ s inlet flow, s.cores.m0Up = true → 9 ≤ s.stage →
      Ends (.coolantReading (some inlet) (some flow)) s fun u => let i := decide (150 ≤ inlet.toNat ∧ inlet.toNat ≤ 400)
        let f := decide (200 ≤ flow.toNat)
        u.fget (creg .pkgCool) 11 0 = inlet.toNat ∧ u.fget (creg .pkgCool) 27 16 = flow.toNat ∧ bit (u.rget (creg .pkgCool)) 32 = i
        ∧ bit (u.rget (creg .pkgCool)) 33 = f ∧ bit (u.rget (creg .pkgCool)) 34 = false ∧ bit (u.rget (creg .tenTherm)) 32 = (i && f))
  ∧ (∀ s lane margin, s.cores.m0Up = true → Ends (.eyeMarginReport lane margin) s fun u => u.regs = s.regs
      ∧ (margin < s.board.eye → (∀ l ∈ s.log.limits, l.key ≠ ⟨.rule 482 0, 16, lane.val⟩) →
        ∃ r, u.log.mgmt.recs.head? = some r ∧ r.code = .rule 482 0 ∧ r.unit = 6 ∧ r.object = lane.val))
  ∧ (∀ s v i m, s.msg 0x0905 i m v → let kind := fld m.payload 0 1
      let target := fld m.payload 1 1
      (kind = 3 ∨ ((s.pads.get (fin 68 target)).stat ≠ .service ∧ s.swapTarget target = false)) → (∀ t ∈ s.tests, t.id ≠ testId kind target) →
      Ends (.selftest i) s fun u => ∃ start, s.answered u m stOk 0 (leBytes 8 start.toNat) ∧ s.off start % 8192 = 0
        ∧ (start - (m.taken + 16384)).toNat < 8192 ∧ u.tests = enq s.tests { id := testId kind target, kind := kind, target := target, start := start })
  ∧ (∀ s t, t ∈ s.tests → t.start = s.now → t.running = false → Ends (.selftestStart t.id) s fun u => { t with running := true } ∈ u.tests)
  ∧ ∀ s t pass detail, s.testOver t.id = some t →
      Ends (.selftestComplete t.id pass detail) s fun u => (∀ x ∈ u.tests, x.id ≠ t.id)
        ∧ (t.kind ≠ 3 → (u.pads.get (fin 68 t.target)).stat = (s.pads.get (fin 68 t.target)).stat.tested t.kind pass)

/-! ## PCIe and SPDM -/

/-- The PCIe attachment (R448, R505, R506, R512-R516). -/
def Obligations.PcieCompletes : Prop :=
  let flr (s u : State) : Prop := u.pci.masked = BitVec.allOnes 2048 ∧ u.pci.pend = 0 ∧ u.pci.ats = [] ∧ u.mbx.events = []
    ∧ (∀ n, (u.slot (.pf0 n)).armed = none ∧ (u.slot (.pf0 n)).kept = (s.slot (.pf0 n)).kept)
  (∀ s, s.boot.held = false → Ends .pf0Flr s (flr s))
  ∧ (∀ s, s.boot.held = false → Ends .pf1Flr s fun u => u.spdm.pcie = {} ∧ u.spdm.i3c = {} ∧ u.pci.msi = 1 ∧ u.cores = s.cores)
  ∧ (∀ s, s.boot.held = false → Ends .pcieLinkDown s fun u => flr s u ∧ u.spdm.pcie = {} ∧ u.spdm.i3c = {} ∧ bits (u.rget (creg .pciStatus)) 8 0 = 0)
  ∧ (∀ s, s.boot.held = false → Ends .perstAssert s fun u => flr s u ∧ u.spdm.pcie = {} ∧ u.spdm.i3c = {} ∧ bits (u.rget (creg .pciStatus)) 8 0 = 0)
  ∧ (∀ s, s.boot.held = false → Ends .busMasterDisable s fun u => u.mbx.events = [] ∧ u.mbx.taken = s.mbx.taken ∧ u.mbx.slots = s.mbx.slots ∧ u.pci = s.pci)
  ∧ (∀ s speed width flit, s.boot.held = false → speed ≠ 0 → (width.val = 1 ∨ width.val = 2 ∨ width.val = 4 ∨ width.val = 8 ∨ width.val = 16) →
      Ends (.pcieLinkRetrain speed width flit) s fun u => bits (u.rget (creg .pciStatus)) 2 0 = speed.val ∧ bits (u.rget (creg .pciStatus)) 7 3 = width.val
        ∧ bit (u.rget (creg .pciStatus)) 8 = flit ∧ u.rget (creg .pciStat) = satAdd (s.rget (creg .pciStat)) 47 32 1)
  ∧ (∀ s n, s.boot.held = false → Ends (.msixUnmask n) s fun u => bit u.pci.masked n.val = false ∧ bit u.pci.pend n.val = false
      ∧ u.out = (if bit s.pci.pend n.val then .msix n.val :: s.out else s.out))
  ∧ (∀ s e i, s.boot.held = false → Ends (.hostRequestError (.reply i) e) s fun u => u.rget (creg .pciStat) = satAdd (s.rget (creg .pciStat)) 63 48 1
      ∧ u.rget (creg .mbxStat) = satAdd (s.rget (creg .mbxStat)) 47 32 1)
  ∧ (∀ s e o, s.boot.held = false → Ends (.hostRequestError (.event o) e) s fun u => u.rget (creg .pciStat) = satAdd (s.rget (creg .pciStat)) 63 48 1
      ∧ u.rget (creg .mbxStat) = satAdd (s.rget (creg .mbxStat)) 47 32 1)
  ∧ (∀ s e i m, s.boot.held = false → s.msgOf i = some m →
      (m.opcode = 0x0305 ∨ m.opcode = 0x0503 ∨ m.opcode = 0x0606 ∨ m.opcode = 0x0801 ∨ m.opcode = 0x0802) →
      Ends (.hostRequestError (.message i) e) s fun u => s.answered u m stVerifyFailed ∧ m ∉ u.mbx.taken)
  ∧ (∀ s i m, s.msgOf i = some m → 9830400 ≤ (s.now - m.taken).toNat →
      (m.opcode = 0x0305 ∨ m.opcode = 0x0503 ∨ m.opcode = 0x0606 ∨ m.opcode = 0x0801 ∨ m.opcode = 0x0802) →
      Ends (.hostCompletionTimeout i) s fun u => s.answered u m stVerifyFailed ∧ m ∉ u.mbx.taken)
  ∧ (∀ s lo hi, s.boot.held = false → Ends (.atsInvalidateRequest lo hi) s fun u => u.out = .atsDone :: s.out ∧ ∀ x ∈ u.pci.ats, x.2 < lo ∨ hi < x.1)
  ∧ (∀ s n, (s.pci.ide.get n).on = true → Ends (.ideUnprotectedTlp n) s fun u => u.rget (creg .pciStat) = satAdd (s.rget (creg .pciStat)) 31 16 1)

/-- SPDM requests (R495-R500, R515). -/
def Obligations.SpdmCompletes : Prop :=
  (∀ s tr, s.spdmOpen tr 0 → Ends (.spdmGetVersion tr) s fun u => (u.conn tr).phase = 1 ∧ (u.conn tr).sessions = (s.conn tr).sessions
    ∧ (u.conn tr).transcript = spdmMsg 0 [] ++ spdmMsg 1 [0x13] ∧ s.spdmGives u tr (spdmMsg 1 [0x13]))
  ∧ (∀ s tr, s.spdmOpen tr 1 → Ends (.spdmGetCapabilities tr) s fun u => (u.conn tr).phase = 2 ∧ s.spdmGives u tr (spdmMsg 3 [1, 1, 2, 1, 1, 1, 1, 1, 1, 1, 1024]))
  ∧ (∀ s tr, s.spdmOpen tr 2 → (Ends (.spdmNegotiateAlgorithms tr true) s fun u => (u.conn tr).phase = 3 ∧ s.spdmGives u tr (spdmMsg 5 [1, 2, 3, 4]))
      ∧ Ends (.spdmNegotiateAlgorithms tr false) s fun u => u.conn tr = s.conn tr ∧ u.out = .spdmError tr spdmUnsupported :: s.out)
  ∧ (∀ s tr, s.spdmOpen tr 3 → Ends (.spdmGetDigests tr) s fun u => s.spdmGives u tr (spdmMsg 7 [] ++ hash48 (s.chain false)))
  ∧ (∀ s tr off len, s.spdmOpen tr 3 → Ends (.spdmGetCertificate tr 0 off len) s fun u => let b := s.chain false
      if b.length ≤ off then u.out = .spdmError tr spdmInvalid :: s.out
      else s.spdmGives u tr (spdmMsg 9 [Nat.min len (b.length - off), b.length - off - Nat.min len (b.length - off)] ++ slice b off (Nat.min len (b.length - off))))
  ∧ (∀ s tr nonce, s.spdmOpen tr 3 → Ends (.spdmChallenge tr nonce) s fun u => u.freeCount = s.freeCount + 1
      ∧ let resp := spdmMsg 11 [] ++ hash48 (s.chain false) ++ s.random.1
        s.spdmGives u tr (resp ++ dualSigned ((s.conn tr).transcript ++ spdmMsg 10 [nonce.toNat] ++ resp)))
  ∧ (∀ s tr nonce index signed, s.spdmOpen tr 3 → index ≤ 17 → Ends (.spdmGetMeasurements tr nonce index signed) s fun u =>
      let l := if index = 0 then [] else [index]
      let req := spdmMsg 12 [nonce.toNat, index, signed.toNat]
      let resp := spdmMsg 13 [17, l.length] ++ l.flatMap s.block ++ s.random.1
      if signed then s.spdmGives u tr (resp ++ dualSigned ((s.conn tr).transcript ++ req ++ resp)) else s.spdmGives u tr resp)
  ∧ (∀ s tr exchange n, s.spdmOpen tr 3 → s.session tr n = none → (∀ k, k < n → (s.session tr k).isSome = true) →
      Ends (.spdmKeyExchange tr exchange) s fun u => 
        let req := spdmMsg 14 [] ++ exchange
        let resp := spdmMsg 15 [n.val] ++ Config.exchangeData s.spdm.count
        let m := (s.conn tr).transcript ++ req ++ resp
        u.session tr n = some { key := Config.hkdf m (Config.ecdhe exchange) [] 48 } ∧ u.spdm.count = s.spdm.count + 1 ∧ s.spdmGives u tr (resp ++ dualSigned m))
  ∧ (∀ s tr n x verify, s.spdmOpen tr 3 → s.session tr n = some x → x.established = false → Ends (.spdmFinish tr n verify) s fun u =>
      if Config.hmac x.key (s.conn tr).transcript = verify then u.session tr n = some { x with established := true } ∧ s.spdmGives u tr (spdmMsg 17 [n.val])
      else u.session tr n = none ∧ u.out = .spdmError tr spdmDecrypt :: s.out)
  ∧ (∀ s tr n x, s.spdmOpen tr 3 → s.session tr n = some x → x.established = true →
      (Ends (.spdmHeartbeat tr n) s fun u => u.session tr n = some x ∧ s.spdmGives u tr (spdmMsg 19 [n.val]))
      ∧ (Ends (.spdmKeyUpdate tr n) s fun u => u.session tr n = some { x with key := Config.hkdf [] x.key (spdmMsg 20 []) 48 } ∧ s.spdmGives u tr (spdmMsg 21 [n.val]))
      ∧ (Ends (.spdmEndSession tr n) s fun u => u.session tr n = none ∧ s.spdmGives u tr (spdmMsg 23 [n.val]))
      ∧ ∀ k op, Ends (.ideKmRequest tr k op) s fun u => s.spdmGives u tr (spdmMsg 27 [k.val])
        ∧ (op = .start → (u.pci.ide.get k).on = true) ∧ (op = .stop → (u.pci.ide.get k).on = false)
        ∧ ∀ key base limit, op = .program key base limit → (u.pci.ide.get k).key = key ∧ (u.pci.ide.get k).base = base ∧ (u.pci.ide.get k).limit = limit)
  ∧ (∀ s tr b last, s.spdmOpen tr 2 → Ends (.spdmChunkSend tr (s.conn tr).inNext last b) s fun u =>
      s.spdmGives u tr (spdmMsg 25 [(s.conn tr).inNext, last.toNat]) ∧ (u.conn tr).inNext = (if last then 0 else (s.conn tr).inNext + 1)
      ∧ (u.conn tr).chunkIn = (if last then [] else (s.conn tr).chunkIn ++ b))
  ∧ (∀ s tr, s.spdmOpen tr 2 → (s.conn tr).chunkOut ≠ [] → Ends (.spdmChunkGet tr (s.conn tr).outNext) s fun u => let rest := (s.conn tr).chunkOut.drop 1000
      (u.conn tr).chunkOut = rest ∧ (u.conn tr).outNext = (if rest = [] then 0 else (s.conn tr).outNext + 1)
      ∧ u.out = .spdm tr (spdmMsg 24 [(s.conn tr).outNext, rest.length] ++ (s.conn tr).chunkOut.take 1000) :: s.out)
  ∧ (∀ s tr, s.spdmOpen tr 3 → Ends (.getPqDigest tr) s fun u => s.spdmGives u tr (spdmMsg 26 [1] ++ hash48 (s.chain true)))
  ∧ (∀ s tr off len, s.spdmOpen tr 3 → Ends (.getPqCert tr off len) s fun u => let b := s.chain true
      if 1000 < len ∨ b.length < off + len then u.out = .spdmError tr spdmInvalid :: s.out
      else s.spdmGives u tr (spdmMsg 26 [2] ++ slice b off len ++ leBytes 4 (b.length - off - len)))
  ∧ ∀ s tr code, s.spdmOpen tr 0 → Ends (.spdmUnsupportedRequest tr code) s fun u => u.conn tr = s.conn tr ∧ u.out = .spdmError tr spdmUnsupported :: s.out
      ∧ u.rget (creg .secSpdm) = satAdd (s.rget (creg .secSpdm)) 31 16 1


/-! ## What commands leave alone -/

/-- Units of a tile and its pads: nothing outside a command's components and registers changes; a command of one tile's
sequencer, array or engine leaves every other tile and every register of another tile's blocks as it was, and a
landing, a patrol visit or a sweep leaves every other pad. -/
def Obligations.TileFrames : Prop :=
  (∀ c s u, c.group = .tile → exec c s = .next u → c.frame s u)
  ∧ (∀ c s u t, c.tile = some t → exec c s = .next u →
      (∀ t' : LTile, t' ≠ t → u.tiles.get t' = s.tiles.get t') ∧ ∀ r : Reg, r.blk ≠ t.val → u.rget r = s.rget r)
  ∧ (∀ s u t zone unit mask owner src data (p : PTile), exec (.landingWrite t zone unit mask owner src data) s = .next u → p ≠ s.ptile t → u.pads.get p = s.pads.get p)
  ∧ (∀ s u t upset m (p : PTile), exec (.patrolVisit t upset m) s = .next u → p ≠ s.ptile t → u.pads.get p = s.pads.get p)
  ∧ ∀ s u t a value (p : PTile), exec (.padSweep t a value) s = .next u → p ≠ s.ptile t → u.pads.get p = s.pads.get p

/-- Time, links, external memory, fronthaul and ports; a time sample that steps the count leaves every row and line. -/
def Obligations.PathFrames : Prop :=
  (∀ c s u, c.group = .path → exec c s = .next u → c.frame s u)
  ∧ ∀ c s u, ((∃ m, c = .ptpMessageReceive m) ∨ (∃ x, c = .ppsInEdge x) ∨ ∃ p a b d e, c = .krovbemTime p a b d e) → exec c s = .next u →
      (∀ p, (u.pads.get p).rows = (s.pads.get p).rows) ∧ u.mem.lines = s.mem.lines ∧ u.mem.checks = s.mem.checks

/-- Tenancy, the gather unit, the clutch and the gateway. -/
def Obligations.FabricFrames : Prop := ∀ c s u, c.group = .fabric → exec c s = .next u → c.frame s u

/-- Messages, commits, boot, PCIe and SPDM; every line of the external memory is as before but for what a command stores:
a host write stores to the lines of its own bytes. -/
def Obligations.ControlFrames : Prop :=
  (∀ c s u, c.group = .control → exec c s = .next u → c.frame s u)
  ∧ (∀ c s u, c.stores = false → exec c s = .next u → ∀ line, tfind line u.mem.lines = tfind line s.mem.lines)
  ∧ ∀ s u off b p line, exec (.bar4Write off b p) s = .next u →
      (line < s.bar4Addr off / 64 ∨ s.bar4Addr off + b.length ≤ 64 * line) → tfind line u.mem.lines = tfind line s.mem.lines

/-! ## Time, registers, pads: rules of the whole part -/

/-- R34: the count advances by one at each tick, in every servo state, and by nothing else; but a time sample may set it
while no epoch is open (R50), and the whole part may be reset. -/
def Obligations.AtbAdvances : Prop :=
  (∀ s, s.boot.dies = false → Ends .atbTick s fun u => u.now = s.now + 1 ∧ u.time.copies = [] ∧ ∀ t, (u.tiles.get t).issued = false)
  ∧ ∀ c s u, c ≠ .atbTick → exec c s = .next u → u.now = s.now
      ∨ c = .porstAssert ∨ c = .mgmtPwrokLow
      ∨ (s.ten.state = .closed ∧ ((∃ m, c = .ptpMessageReceive m) ∨ (∃ x, c = .ppsInEdge x) ∨ ∃ p a b d e, c = .krovbemTime p a b d e))

/-- R47: the 1PPS output rises in the cycle of a TAI second, delayed by the board's correction, in LOCKED and the holdover
states only. -/
def Obligations.PpsRises : Prop :=
  (∀ s, (s.now - BitVec.ofNat 64 s.board.ppsOut).toNat % 1966080000 = 0 →
    (s.servoState = stLocked ∨ s.servoState = stHold ∨ s.servoState = stHoldFreq) → Ends .ppsOutRise s fun u => u.time.ppsOut = true ∧ u.out = .ppsOut true :: s.out)
  ∧ ∀ c s u, exec c s = .next u → s.time.ppsOut = false → u.time.ppsOut = true →
      c = .ppsOutRise ∧ (s.now - BitVec.ofNat 64 s.board.ppsOut).toNat % 1966080000 = 0 ∧ stLocked ≤ s.servoState

/-- R157: a read in the cycle of a write to its row sees the row as it was, and the write that remains of the cycle's
writes to a row (R117) alone makes the row, in its place (no other row written in the cycle stands there); where the row's
regrow ends in this cycle, it makes the spare's contents (R181). -/
def Obligations.WritesTakeEffectLater : Prop :=
  (∀ (s : State) t w r tag, ((s.padWrite t w).padRead t r tag).1 = (s.padRead t r tag).1)
  ∧ ∀ (p : Pad) now r w, winner p.writes r = some w → (∀ x ∈ p.writes, p.place x.row = p.place r → x.row = r) →
      (p.regrow = none → (p.endCycle now).row r = (p.row r).write w)
      ∧ (∀ c x, p.regrow = some (r, c, x) → now ≠ c → (p.endCycle now).row r = x.write w)
      ∧ w ∈ p.writes ∧ w.row = r ∧ ∀ x ∈ p.writes, x.row = r → x.rank ≤ w.rank

/-- R158: the debug path answers a row's data and metadata whatever its tag, and leaves every pad as it was. -/
def Obligations.DebugReadsAnyRow : Prop :=
  (∀ (s : State) agent (t : LTile) o, o < 0xC00000 → let r := (s.pad t).row (rowOf o)
    s.debugLine agent (0x4000000000 + 0x1000000 * t.val + o) = (r.raw, BitVec.ofNat 8 (r.tag + 128 * r.poison.toNat), s))
  ∧ ∀ c s u, ((∃ i, c = .memRead i) ∨ (∃ o n, c = .debugWindowRead o n) ∨ ∃ i, c = .tapInstructionLoad i) → exec c s = .next u → u.pads = s.pads

/-- A write to a read-only block has no effect but a CE record, one a second for each register (R465, R504, R539). -/
def Obligations.ReadOnlyBlocks : Prop :=
  ∀ s a addr value (r : Reg), Reg.ofAddr addr = some r →
    r.name ∈ [.mbxArmed, .mbxStat, .mbxOwner, .secStatus, .secCnt, .secSpdm, .pkgStatus, .pkgTemp, .pkgCool, .pkgClk, .pkgStat, .pkgRail] →
    Ends (.registerWrite a addr value) s fun u => u = { s with log := u.log }
      ∧ ((∃ l, findLimit ⟨.num 0x0405, 0, r.addr⟩ s.log.limits = some l ∧ l.interval = interval s.now 1) → u.log.mgmt = s.log.mgmt)
      ∧ ((∀ l, findLimit ⟨.num 0x0405, 0, r.addr⟩ s.log.limits = some l → l.interval ≠ interval s.now 1) →
          ∃ x, u.log.mgmt.recs.head? = some x ∧ x.cls = .ce ∧ x.code = .num 0x0405 ∧ x.atb = s.now)

/-- A role moves to another position only at a commit that names it, at a write of the commit unit, or when the part's dies
are reset (R412, R431). -/
def Obligations.RolesMoveAtCommits : Prop :=
  (∀ r : Fin 8, State.reset.holder r = r)
  ∧ ∀ c s u (r : Fin 8), exec c s = .next u → u.holder r ≠ s.holder r →
      c = .porstAssert ∨ c = .mgmtPwrokLow ∨ c = .mainPwrokDeassert ∨ c = .thermtrip ∨ (∃ addr value, c = .registerWrite .commitUnit addr value)
      ∨ (c = .stageCommitApply ∧ ∃ p ∈ s.ctl.pend, p.x = s.now ∧ ∃ k pos, .roleMove k pos ∈ p.settings)

/-! ## The invariant and the reset state -/

/-- Every memory of the part stays in canonical form: rising keys, and no entry that equals what an unlisted key reads as. -/
def Obligations.StepKeepsMemories : Prop := ∀ s u, s.memWf = true → step s = .next u → u.memWf = true

/-- The state after reset: canonical memories, an empty queue, the default tile map and its spares (R19), each role at its own
position (R412), pads under tag 0x7F (R159), no epoch, and the register values that the spec gives (R41, R88, R163, R288, R363, R436). -/
def Obligations.ResetState : Prop :=
  State.reset.memWf = true ∧ State.reset.pending = [] ∧ State.reset.ten.state = .closed ∧ State.reset.boot.held = true
  ∧ (∀ p ∈ [4, 13, 54, 63], (State.reset.pads.get (fin 68 p)).stat = .spare) ∧ (∀ t : LTile, (State.reset.pad t).stat = .service)
  ∧ (∀ (p : PTile) r, ((State.reset.pads.get p).row r).tag = 0x7F ∧ ((State.reset.pads.get p).row r).poison = false)
  ∧ (∀ n : Fin 8, State.reset.rget (creg .ctlHb n.val) = BitVec.ofNat 64 (n.val * 2 ^ 32))
  ∧ (∀ t : LTile, State.reset.rget (treg .arrId t) = BitVec.ofNat 64 (256 * t.val) ∧ State.reset.rget (treg .padCtrl t) = 0x203
      ∧ State.reset.rget (treg .schNextwin t) = 0xFFFFFFFFFFFFFFFF)
  ∧ State.reset.rget (creg .tenStatus) = 0x7F00 ∧ State.reset.rget (creg .tenEnd) = 0xFFFFFFFFFFFFFFFF ∧ State.reset.rget (creg .atbServo) = 0x4000280A00C800
  ∧ State.reset.rget (creg .ctlRole) = 0x76543210 ∧ State.reset.rget (creg .fabGw) = 0x400000BA71 ∧ State.reset.rget (creg .tenTherm) = 0x69645F
end

