-- ==== Sys2Proof/Laws/State.lean ====
section
/-!
SUPPORT. For each named update of a State, one lemma per field: the field it changes, and that it leaves each other one.
-/
namespace Sys2Proof.Machine

/-! ## `State.rset` changes regs only -/

@[simp] theorem State.rset_regs (s : State) (r : Reg) (v : W64) : (s.rset r v).regs = if v = r.reset then rdel r s.regs else rput r v s.regs := rfl
@[simp] theorem State.rset_time (s : State) (r : Reg) (v : W64) : (s.rset r v).time = s.time := rfl
@[simp] theorem State.rset_tiles (s : State) (r : Reg) (v : W64) : (s.rset r v).tiles = s.tiles := rfl
@[simp] theorem State.rset_pads (s : State) (r : Reg) (v : W64) : (s.rset r v).pads = s.pads := rfl
@[simp] theorem State.rset_tileMap (s : State) (r : Reg) (v : W64) : (s.rset r v).tileMap = s.tileMap := rfl
@[simp] theorem State.rset_mesh (s : State) (r : Reg) (v : W64) : (s.rset r v).mesh = s.mesh := rfl
@[simp] theorem State.rset_mem (s : State) (r : Reg) (v : W64) : (s.rset r v).mem = s.mem := rfl
@[simp] theorem State.rset_ten (s : State) (r : Reg) (v : W64) : (s.rset r v).ten = s.ten := rfl
@[simp] theorem State.rset_ctl (s : State) (r : Reg) (v : W64) : (s.rset r v).ctl = s.ctl := rfl
@[simp] theorem State.rset_mbx (s : State) (r : Reg) (v : W64) : (s.rset r v).mbx = s.mbx := rfl
@[simp] theorem State.rset_cores (s : State) (r : Reg) (v : W64) : (s.rset r v).cores = s.cores := rfl
@[simp] theorem State.rset_log (s : State) (r : Reg) (v : W64) : (s.rset r v).log = s.log := rfl
@[simp] theorem State.rset_ports (s : State) (r : Reg) (v : W64) : (s.rset r v).ports = s.ports := rfl
@[simp] theorem State.rset_radio (s : State) (r : Reg) (v : W64) : (s.rset r v).radio = s.radio := rfl
@[simp] theorem State.rset_fab (s : State) (r : Reg) (v : W64) : (s.rset r v).fab = s.fab := rfl
@[simp] theorem State.rset_boot (s : State) (r : Reg) (v : W64) : (s.rset r v).boot = s.boot := rfl
@[simp] theorem State.rset_spdm (s : State) (r : Reg) (v : W64) : (s.rset r v).spdm = s.spdm := rfl
@[simp] theorem State.rset_pci (s : State) (r : Reg) (v : W64) : (s.rset r v).pci = s.pci := rfl
@[simp] theorem State.rset_pkg (s : State) (r : Reg) (v : W64) : (s.rset r v).pkg = s.pkg := rfl
@[simp] theorem State.rset_tests (s : State) (r : Reg) (v : W64) : (s.rset r v).tests = s.tests := rfl
@[simp] theorem State.rset_board (s : State) (r : Reg) (v : W64) : (s.rset r v).board = s.board := rfl
@[simp] theorem State.rset_out (s : State) (r : Reg) (v : W64) : (s.rset r v).out = s.out := rfl
@[simp] theorem State.rset_freeCount (s : State) (r : Reg) (v : W64) : (s.rset r v).freeCount = s.freeCount := rfl
@[simp] theorem State.rset_pending (s : State) (r : Reg) (v : W64) : (s.rset r v).pending = s.pending := rfl

/-! ## `State.fset` changes regs only -/

@[simp] theorem State.fset_regs (s : State) (r : Reg) (hi lo v : Nat) : (s.fset r hi lo v).regs = (s.rset r (putBits (s.rget r) hi lo v)).regs := rfl
@[simp] theorem State.fset_time (s : State) (r : Reg) (hi lo v : Nat) : (s.fset r hi lo v).time = s.time := rfl
@[simp] theorem State.fset_tiles (s : State) (r : Reg) (hi lo v : Nat) : (s.fset r hi lo v).tiles = s.tiles := rfl
@[simp] theorem State.fset_pads (s : State) (r : Reg) (hi lo v : Nat) : (s.fset r hi lo v).pads = s.pads := rfl
@[simp] theorem State.fset_tileMap (s : State) (r : Reg) (hi lo v : Nat) : (s.fset r hi lo v).tileMap = s.tileMap := rfl
@[simp] theorem State.fset_mesh (s : State) (r : Reg) (hi lo v : Nat) : (s.fset r hi lo v).mesh = s.mesh := rfl
@[simp] theorem State.fset_mem (s : State) (r : Reg) (hi lo v : Nat) : (s.fset r hi lo v).mem = s.mem := rfl
@[simp] theorem State.fset_ten (s : State) (r : Reg) (hi lo v : Nat) : (s.fset r hi lo v).ten = s.ten := rfl
@[simp] theorem State.fset_ctl (s : State) (r : Reg) (hi lo v : Nat) : (s.fset r hi lo v).ctl = s.ctl := rfl
@[simp] theorem State.fset_mbx (s : State) (r : Reg) (hi lo v : Nat) : (s.fset r hi lo v).mbx = s.mbx := rfl
@[simp] theorem State.fset_cores (s : State) (r : Reg) (hi lo v : Nat) : (s.fset r hi lo v).cores = s.cores := rfl
@[simp] theorem State.fset_log (s : State) (r : Reg) (hi lo v : Nat) : (s.fset r hi lo v).log = s.log := rfl
@[simp] theorem State.fset_ports (s : State) (r : Reg) (hi lo v : Nat) : (s.fset r hi lo v).ports = s.ports := rfl
@[simp] theorem State.fset_radio (s : State) (r : Reg) (hi lo v : Nat) : (s.fset r hi lo v).radio = s.radio := rfl
@[simp] theorem State.fset_fab (s : State) (r : Reg) (hi lo v : Nat) : (s.fset r hi lo v).fab = s.fab := rfl
@[simp] theorem State.fset_boot (s : State) (r : Reg) (hi lo v : Nat) : (s.fset r hi lo v).boot = s.boot := rfl
@[simp] theorem State.fset_spdm (s : State) (r : Reg) (hi lo v : Nat) : (s.fset r hi lo v).spdm = s.spdm := rfl
@[simp] theorem State.fset_pci (s : State) (r : Reg) (hi lo v : Nat) : (s.fset r hi lo v).pci = s.pci := rfl
@[simp] theorem State.fset_pkg (s : State) (r : Reg) (hi lo v : Nat) : (s.fset r hi lo v).pkg = s.pkg := rfl
@[simp] theorem State.fset_tests (s : State) (r : Reg) (hi lo v : Nat) : (s.fset r hi lo v).tests = s.tests := rfl
@[simp] theorem State.fset_board (s : State) (r : Reg) (hi lo v : Nat) : (s.fset r hi lo v).board = s.board := rfl
@[simp] theorem State.fset_out (s : State) (r : Reg) (hi lo v : Nat) : (s.fset r hi lo v).out = s.out := rfl
@[simp] theorem State.fset_freeCount (s : State) (r : Reg) (hi lo v : Nat) : (s.fset r hi lo v).freeCount = s.freeCount := rfl
@[simp] theorem State.fset_pending (s : State) (r : Reg) (hi lo v : Nat) : (s.fset r hi lo v).pending = s.pending := rfl

/-! ## `State.finc` changes regs only -/

@[simp] theorem State.finc_regs (s : State) (r : Reg) (hi lo k : Nat) : (s.finc r hi lo k).regs = (s.rset r (satAdd (s.rget r) hi lo k)).regs := rfl
@[simp] theorem State.finc_time (s : State) (r : Reg) (hi lo k : Nat) : (s.finc r hi lo k).time = s.time := rfl
@[simp] theorem State.finc_tiles (s : State) (r : Reg) (hi lo k : Nat) : (s.finc r hi lo k).tiles = s.tiles := rfl
@[simp] theorem State.finc_pads (s : State) (r : Reg) (hi lo k : Nat) : (s.finc r hi lo k).pads = s.pads := rfl
@[simp] theorem State.finc_tileMap (s : State) (r : Reg) (hi lo k : Nat) : (s.finc r hi lo k).tileMap = s.tileMap := rfl
@[simp] theorem State.finc_mesh (s : State) (r : Reg) (hi lo k : Nat) : (s.finc r hi lo k).mesh = s.mesh := rfl
@[simp] theorem State.finc_mem (s : State) (r : Reg) (hi lo k : Nat) : (s.finc r hi lo k).mem = s.mem := rfl
@[simp] theorem State.finc_ten (s : State) (r : Reg) (hi lo k : Nat) : (s.finc r hi lo k).ten = s.ten := rfl
@[simp] theorem State.finc_ctl (s : State) (r : Reg) (hi lo k : Nat) : (s.finc r hi lo k).ctl = s.ctl := rfl
@[simp] theorem State.finc_mbx (s : State) (r : Reg) (hi lo k : Nat) : (s.finc r hi lo k).mbx = s.mbx := rfl
@[simp] theorem State.finc_cores (s : State) (r : Reg) (hi lo k : Nat) : (s.finc r hi lo k).cores = s.cores := rfl
@[simp] theorem State.finc_log (s : State) (r : Reg) (hi lo k : Nat) : (s.finc r hi lo k).log = s.log := rfl
@[simp] theorem State.finc_ports (s : State) (r : Reg) (hi lo k : Nat) : (s.finc r hi lo k).ports = s.ports := rfl
@[simp] theorem State.finc_radio (s : State) (r : Reg) (hi lo k : Nat) : (s.finc r hi lo k).radio = s.radio := rfl
@[simp] theorem State.finc_fab (s : State) (r : Reg) (hi lo k : Nat) : (s.finc r hi lo k).fab = s.fab := rfl
@[simp] theorem State.finc_boot (s : State) (r : Reg) (hi lo k : Nat) : (s.finc r hi lo k).boot = s.boot := rfl
@[simp] theorem State.finc_spdm (s : State) (r : Reg) (hi lo k : Nat) : (s.finc r hi lo k).spdm = s.spdm := rfl
@[simp] theorem State.finc_pci (s : State) (r : Reg) (hi lo k : Nat) : (s.finc r hi lo k).pci = s.pci := rfl
@[simp] theorem State.finc_pkg (s : State) (r : Reg) (hi lo k : Nat) : (s.finc r hi lo k).pkg = s.pkg := rfl
@[simp] theorem State.finc_tests (s : State) (r : Reg) (hi lo k : Nat) : (s.finc r hi lo k).tests = s.tests := rfl
@[simp] theorem State.finc_board (s : State) (r : Reg) (hi lo k : Nat) : (s.finc r hi lo k).board = s.board := rfl
@[simp] theorem State.finc_out (s : State) (r : Reg) (hi lo k : Nat) : (s.finc r hi lo k).out = s.out := rfl
@[simp] theorem State.finc_freeCount (s : State) (r : Reg) (hi lo k : Nat) : (s.finc r hi lo k).freeCount = s.freeCount := rfl
@[simp] theorem State.finc_pending (s : State) (r : Reg) (hi lo k : Nat) : (s.finc r hi lo k).pending = s.pending := rfl

/-! ## `State.emit` changes out only -/

@[simp] theorem State.emit_regs (s : State) (e : Emit) : (s.emit e).regs = s.regs := rfl
@[simp] theorem State.emit_time (s : State) (e : Emit) : (s.emit e).time = s.time := rfl
@[simp] theorem State.emit_tiles (s : State) (e : Emit) : (s.emit e).tiles = s.tiles := rfl
@[simp] theorem State.emit_pads (s : State) (e : Emit) : (s.emit e).pads = s.pads := rfl
@[simp] theorem State.emit_tileMap (s : State) (e : Emit) : (s.emit e).tileMap = s.tileMap := rfl
@[simp] theorem State.emit_mesh (s : State) (e : Emit) : (s.emit e).mesh = s.mesh := rfl
@[simp] theorem State.emit_mem (s : State) (e : Emit) : (s.emit e).mem = s.mem := rfl
@[simp] theorem State.emit_ten (s : State) (e : Emit) : (s.emit e).ten = s.ten := rfl
@[simp] theorem State.emit_ctl (s : State) (e : Emit) : (s.emit e).ctl = s.ctl := rfl
@[simp] theorem State.emit_mbx (s : State) (e : Emit) : (s.emit e).mbx = s.mbx := rfl
@[simp] theorem State.emit_cores (s : State) (e : Emit) : (s.emit e).cores = s.cores := rfl
@[simp] theorem State.emit_log (s : State) (e : Emit) : (s.emit e).log = s.log := rfl
@[simp] theorem State.emit_ports (s : State) (e : Emit) : (s.emit e).ports = s.ports := rfl
@[simp] theorem State.emit_radio (s : State) (e : Emit) : (s.emit e).radio = s.radio := rfl
@[simp] theorem State.emit_fab (s : State) (e : Emit) : (s.emit e).fab = s.fab := rfl
@[simp] theorem State.emit_boot (s : State) (e : Emit) : (s.emit e).boot = s.boot := rfl
@[simp] theorem State.emit_spdm (s : State) (e : Emit) : (s.emit e).spdm = s.spdm := rfl
@[simp] theorem State.emit_pci (s : State) (e : Emit) : (s.emit e).pci = s.pci := rfl
@[simp] theorem State.emit_pkg (s : State) (e : Emit) : (s.emit e).pkg = s.pkg := rfl
@[simp] theorem State.emit_tests (s : State) (e : Emit) : (s.emit e).tests = s.tests := rfl
@[simp] theorem State.emit_board (s : State) (e : Emit) : (s.emit e).board = s.board := rfl
@[simp] theorem State.emit_out (s : State) (e : Emit) : (s.emit e).out = e :: s.out := rfl
@[simp] theorem State.emit_freeCount (s : State) (e : Emit) : (s.emit e).freeCount = s.freeCount := rfl
@[simp] theorem State.emit_pending (s : State) (e : Emit) : (s.emit e).pending = s.pending := rfl

/-! ## `State.draw` changes freeCount only -/

@[simp] theorem State.draw_regs (s : State) : (s.draw.2).regs = s.regs := rfl
@[simp] theorem State.draw_time (s : State) : (s.draw.2).time = s.time := rfl
@[simp] theorem State.draw_tiles (s : State) : (s.draw.2).tiles = s.tiles := rfl
@[simp] theorem State.draw_pads (s : State) : (s.draw.2).pads = s.pads := rfl
@[simp] theorem State.draw_tileMap (s : State) : (s.draw.2).tileMap = s.tileMap := rfl
@[simp] theorem State.draw_mesh (s : State) : (s.draw.2).mesh = s.mesh := rfl
@[simp] theorem State.draw_mem (s : State) : (s.draw.2).mem = s.mem := rfl
@[simp] theorem State.draw_ten (s : State) : (s.draw.2).ten = s.ten := rfl
@[simp] theorem State.draw_ctl (s : State) : (s.draw.2).ctl = s.ctl := rfl
@[simp] theorem State.draw_mbx (s : State) : (s.draw.2).mbx = s.mbx := rfl
@[simp] theorem State.draw_cores (s : State) : (s.draw.2).cores = s.cores := rfl
@[simp] theorem State.draw_log (s : State) : (s.draw.2).log = s.log := rfl
@[simp] theorem State.draw_ports (s : State) : (s.draw.2).ports = s.ports := rfl
@[simp] theorem State.draw_radio (s : State) : (s.draw.2).radio = s.radio := rfl
@[simp] theorem State.draw_fab (s : State) : (s.draw.2).fab = s.fab := rfl
@[simp] theorem State.draw_boot (s : State) : (s.draw.2).boot = s.boot := rfl
@[simp] theorem State.draw_spdm (s : State) : (s.draw.2).spdm = s.spdm := rfl
@[simp] theorem State.draw_pci (s : State) : (s.draw.2).pci = s.pci := rfl
@[simp] theorem State.draw_pkg (s : State) : (s.draw.2).pkg = s.pkg := rfl
@[simp] theorem State.draw_tests (s : State) : (s.draw.2).tests = s.tests := rfl
@[simp] theorem State.draw_board (s : State) : (s.draw.2).board = s.board := rfl
@[simp] theorem State.draw_out (s : State) : (s.draw.2).out = s.out := rfl
@[simp] theorem State.draw_freeCount (s : State) : (s.draw.2).freeCount = s.freeCount + 1 := rfl
@[simp] theorem State.draw_pending (s : State) : (s.draw.2).pending = s.pending := rfl

/-! ## `State.modTile` changes tiles only -/

@[simp] theorem State.modTile_regs (s : State) (t : LTile) (f : Tile → Tile) : (s.modTile t f).regs = s.regs := rfl
@[simp] theorem State.modTile_time (s : State) (t : LTile) (f : Tile → Tile) : (s.modTile t f).time = s.time := rfl
@[simp] theorem State.modTile_tiles (s : State) (t : LTile) (f : Tile → Tile) : (s.modTile t f).tiles = vmod s.tiles t f := rfl
@[simp] theorem State.modTile_pads (s : State) (t : LTile) (f : Tile → Tile) : (s.modTile t f).pads = s.pads := rfl
@[simp] theorem State.modTile_tileMap (s : State) (t : LTile) (f : Tile → Tile) : (s.modTile t f).tileMap = s.tileMap := rfl
@[simp] theorem State.modTile_mesh (s : State) (t : LTile) (f : Tile → Tile) : (s.modTile t f).mesh = s.mesh := rfl
@[simp] theorem State.modTile_mem (s : State) (t : LTile) (f : Tile → Tile) : (s.modTile t f).mem = s.mem := rfl
@[simp] theorem State.modTile_ten (s : State) (t : LTile) (f : Tile → Tile) : (s.modTile t f).ten = s.ten := rfl
@[simp] theorem State.modTile_ctl (s : State) (t : LTile) (f : Tile → Tile) : (s.modTile t f).ctl = s.ctl := rfl
@[simp] theorem State.modTile_mbx (s : State) (t : LTile) (f : Tile → Tile) : (s.modTile t f).mbx = s.mbx := rfl
@[simp] theorem State.modTile_cores (s : State) (t : LTile) (f : Tile → Tile) : (s.modTile t f).cores = s.cores := rfl
@[simp] theorem State.modTile_log (s : State) (t : LTile) (f : Tile → Tile) : (s.modTile t f).log = s.log := rfl
@[simp] theorem State.modTile_ports (s : State) (t : LTile) (f : Tile → Tile) : (s.modTile t f).ports = s.ports := rfl
@[simp] theorem State.modTile_radio (s : State) (t : LTile) (f : Tile → Tile) : (s.modTile t f).radio = s.radio := rfl
@[simp] theorem State.modTile_fab (s : State) (t : LTile) (f : Tile → Tile) : (s.modTile t f).fab = s.fab := rfl
@[simp] theorem State.modTile_boot (s : State) (t : LTile) (f : Tile → Tile) : (s.modTile t f).boot = s.boot := rfl
@[simp] theorem State.modTile_spdm (s : State) (t : LTile) (f : Tile → Tile) : (s.modTile t f).spdm = s.spdm := rfl
@[simp] theorem State.modTile_pci (s : State) (t : LTile) (f : Tile → Tile) : (s.modTile t f).pci = s.pci := rfl
@[simp] theorem State.modTile_pkg (s : State) (t : LTile) (f : Tile → Tile) : (s.modTile t f).pkg = s.pkg := rfl
@[simp] theorem State.modTile_tests (s : State) (t : LTile) (f : Tile → Tile) : (s.modTile t f).tests = s.tests := rfl
@[simp] theorem State.modTile_board (s : State) (t : LTile) (f : Tile → Tile) : (s.modTile t f).board = s.board := rfl
@[simp] theorem State.modTile_out (s : State) (t : LTile) (f : Tile → Tile) : (s.modTile t f).out = s.out := rfl
@[simp] theorem State.modTile_freeCount (s : State) (t : LTile) (f : Tile → Tile) : (s.modTile t f).freeCount = s.freeCount := rfl
@[simp] theorem State.modTile_pending (s : State) (t : LTile) (f : Tile → Tile) : (s.modTile t f).pending = s.pending := rfl

/-! ## `State.setCtx` changes tiles only -/

@[simp] theorem State.setCtx_regs (s : State) (t : LTile) (c : CtxNo) (k : Option TaskCtx) : (s.setCtx t c k).regs = s.regs := rfl
@[simp] theorem State.setCtx_time (s : State) (t : LTile) (c : CtxNo) (k : Option TaskCtx) : (s.setCtx t c k).time = s.time := rfl
@[simp] theorem State.setCtx_tiles (s : State) (t : LTile) (c : CtxNo) (k : Option TaskCtx) : (s.setCtx t c k).tiles = vmod s.tiles t fun x => { x with ctx := x.ctx.set c k } := rfl
@[simp] theorem State.setCtx_pads (s : State) (t : LTile) (c : CtxNo) (k : Option TaskCtx) : (s.setCtx t c k).pads = s.pads := rfl
@[simp] theorem State.setCtx_tileMap (s : State) (t : LTile) (c : CtxNo) (k : Option TaskCtx) : (s.setCtx t c k).tileMap = s.tileMap := rfl
@[simp] theorem State.setCtx_mesh (s : State) (t : LTile) (c : CtxNo) (k : Option TaskCtx) : (s.setCtx t c k).mesh = s.mesh := rfl
@[simp] theorem State.setCtx_mem (s : State) (t : LTile) (c : CtxNo) (k : Option TaskCtx) : (s.setCtx t c k).mem = s.mem := rfl
@[simp] theorem State.setCtx_ten (s : State) (t : LTile) (c : CtxNo) (k : Option TaskCtx) : (s.setCtx t c k).ten = s.ten := rfl
@[simp] theorem State.setCtx_ctl (s : State) (t : LTile) (c : CtxNo) (k : Option TaskCtx) : (s.setCtx t c k).ctl = s.ctl := rfl
@[simp] theorem State.setCtx_mbx (s : State) (t : LTile) (c : CtxNo) (k : Option TaskCtx) : (s.setCtx t c k).mbx = s.mbx := rfl
@[simp] theorem State.setCtx_cores (s : State) (t : LTile) (c : CtxNo) (k : Option TaskCtx) : (s.setCtx t c k).cores = s.cores := rfl
@[simp] theorem State.setCtx_log (s : State) (t : LTile) (c : CtxNo) (k : Option TaskCtx) : (s.setCtx t c k).log = s.log := rfl
@[simp] theorem State.setCtx_ports (s : State) (t : LTile) (c : CtxNo) (k : Option TaskCtx) : (s.setCtx t c k).ports = s.ports := rfl
@[simp] theorem State.setCtx_radio (s : State) (t : LTile) (c : CtxNo) (k : Option TaskCtx) : (s.setCtx t c k).radio = s.radio := rfl
@[simp] theorem State.setCtx_fab (s : State) (t : LTile) (c : CtxNo) (k : Option TaskCtx) : (s.setCtx t c k).fab = s.fab := rfl
@[simp] theorem State.setCtx_boot (s : State) (t : LTile) (c : CtxNo) (k : Option TaskCtx) : (s.setCtx t c k).boot = s.boot := rfl
@[simp] theorem State.setCtx_spdm (s : State) (t : LTile) (c : CtxNo) (k : Option TaskCtx) : (s.setCtx t c k).spdm = s.spdm := rfl
@[simp] theorem State.setCtx_pci (s : State) (t : LTile) (c : CtxNo) (k : Option TaskCtx) : (s.setCtx t c k).pci = s.pci := rfl
@[simp] theorem State.setCtx_pkg (s : State) (t : LTile) (c : CtxNo) (k : Option TaskCtx) : (s.setCtx t c k).pkg = s.pkg := rfl
@[simp] theorem State.setCtx_tests (s : State) (t : LTile) (c : CtxNo) (k : Option TaskCtx) : (s.setCtx t c k).tests = s.tests := rfl
@[simp] theorem State.setCtx_board (s : State) (t : LTile) (c : CtxNo) (k : Option TaskCtx) : (s.setCtx t c k).board = s.board := rfl
@[simp] theorem State.setCtx_out (s : State) (t : LTile) (c : CtxNo) (k : Option TaskCtx) : (s.setCtx t c k).out = s.out := rfl
@[simp] theorem State.setCtx_freeCount (s : State) (t : LTile) (c : CtxNo) (k : Option TaskCtx) : (s.setCtx t c k).freeCount = s.freeCount := rfl
@[simp] theorem State.setCtx_pending (s : State) (t : LTile) (c : CtxNo) (k : Option TaskCtx) : (s.setCtx t c k).pending = s.pending := rfl

/-! ## `State.modEng` changes tiles only -/

@[simp] theorem State.modEng_regs (s : State) (t : LTile) (f : Engine → Engine) : (s.modEng t f).regs = s.regs := rfl
@[simp] theorem State.modEng_time (s : State) (t : LTile) (f : Engine → Engine) : (s.modEng t f).time = s.time := rfl
@[simp] theorem State.modEng_tiles (s : State) (t : LTile) (f : Engine → Engine) : (s.modEng t f).tiles = vmod s.tiles t fun x => { x with eng := f x.eng } := rfl
@[simp] theorem State.modEng_pads (s : State) (t : LTile) (f : Engine → Engine) : (s.modEng t f).pads = s.pads := rfl
@[simp] theorem State.modEng_tileMap (s : State) (t : LTile) (f : Engine → Engine) : (s.modEng t f).tileMap = s.tileMap := rfl
@[simp] theorem State.modEng_mesh (s : State) (t : LTile) (f : Engine → Engine) : (s.modEng t f).mesh = s.mesh := rfl
@[simp] theorem State.modEng_mem (s : State) (t : LTile) (f : Engine → Engine) : (s.modEng t f).mem = s.mem := rfl
@[simp] theorem State.modEng_ten (s : State) (t : LTile) (f : Engine → Engine) : (s.modEng t f).ten = s.ten := rfl
@[simp] theorem State.modEng_ctl (s : State) (t : LTile) (f : Engine → Engine) : (s.modEng t f).ctl = s.ctl := rfl
@[simp] theorem State.modEng_mbx (s : State) (t : LTile) (f : Engine → Engine) : (s.modEng t f).mbx = s.mbx := rfl
@[simp] theorem State.modEng_cores (s : State) (t : LTile) (f : Engine → Engine) : (s.modEng t f).cores = s.cores := rfl
@[simp] theorem State.modEng_log (s : State) (t : LTile) (f : Engine → Engine) : (s.modEng t f).log = s.log := rfl
@[simp] theorem State.modEng_ports (s : State) (t : LTile) (f : Engine → Engine) : (s.modEng t f).ports = s.ports := rfl
@[simp] theorem State.modEng_radio (s : State) (t : LTile) (f : Engine → Engine) : (s.modEng t f).radio = s.radio := rfl
@[simp] theorem State.modEng_fab (s : State) (t : LTile) (f : Engine → Engine) : (s.modEng t f).fab = s.fab := rfl
@[simp] theorem State.modEng_boot (s : State) (t : LTile) (f : Engine → Engine) : (s.modEng t f).boot = s.boot := rfl
@[simp] theorem State.modEng_spdm (s : State) (t : LTile) (f : Engine → Engine) : (s.modEng t f).spdm = s.spdm := rfl
@[simp] theorem State.modEng_pci (s : State) (t : LTile) (f : Engine → Engine) : (s.modEng t f).pci = s.pci := rfl
@[simp] theorem State.modEng_pkg (s : State) (t : LTile) (f : Engine → Engine) : (s.modEng t f).pkg = s.pkg := rfl
@[simp] theorem State.modEng_tests (s : State) (t : LTile) (f : Engine → Engine) : (s.modEng t f).tests = s.tests := rfl
@[simp] theorem State.modEng_board (s : State) (t : LTile) (f : Engine → Engine) : (s.modEng t f).board = s.board := rfl
@[simp] theorem State.modEng_out (s : State) (t : LTile) (f : Engine → Engine) : (s.modEng t f).out = s.out := rfl
@[simp] theorem State.modEng_freeCount (s : State) (t : LTile) (f : Engine → Engine) : (s.modEng t f).freeCount = s.freeCount := rfl
@[simp] theorem State.modEng_pending (s : State) (t : LTile) (f : Engine → Engine) : (s.modEng t f).pending = s.pending := rfl

/-! ## `State.modArr` changes tiles only -/

@[simp] theorem State.modArr_regs (s : State) (t : LTile) (f : MArray → MArray) : (s.modArr t f).regs = s.regs := rfl
@[simp] theorem State.modArr_time (s : State) (t : LTile) (f : MArray → MArray) : (s.modArr t f).time = s.time := rfl
@[simp] theorem State.modArr_tiles (s : State) (t : LTile) (f : MArray → MArray) : (s.modArr t f).tiles = vmod s.tiles t fun x => { x with arr := f x.arr } := rfl
@[simp] theorem State.modArr_pads (s : State) (t : LTile) (f : MArray → MArray) : (s.modArr t f).pads = s.pads := rfl
@[simp] theorem State.modArr_tileMap (s : State) (t : LTile) (f : MArray → MArray) : (s.modArr t f).tileMap = s.tileMap := rfl
@[simp] theorem State.modArr_mesh (s : State) (t : LTile) (f : MArray → MArray) : (s.modArr t f).mesh = s.mesh := rfl
@[simp] theorem State.modArr_mem (s : State) (t : LTile) (f : MArray → MArray) : (s.modArr t f).mem = s.mem := rfl
@[simp] theorem State.modArr_ten (s : State) (t : LTile) (f : MArray → MArray) : (s.modArr t f).ten = s.ten := rfl
@[simp] theorem State.modArr_ctl (s : State) (t : LTile) (f : MArray → MArray) : (s.modArr t f).ctl = s.ctl := rfl
@[simp] theorem State.modArr_mbx (s : State) (t : LTile) (f : MArray → MArray) : (s.modArr t f).mbx = s.mbx := rfl
@[simp] theorem State.modArr_cores (s : State) (t : LTile) (f : MArray → MArray) : (s.modArr t f).cores = s.cores := rfl
@[simp] theorem State.modArr_log (s : State) (t : LTile) (f : MArray → MArray) : (s.modArr t f).log = s.log := rfl
@[simp] theorem State.modArr_ports (s : State) (t : LTile) (f : MArray → MArray) : (s.modArr t f).ports = s.ports := rfl
@[simp] theorem State.modArr_radio (s : State) (t : LTile) (f : MArray → MArray) : (s.modArr t f).radio = s.radio := rfl
@[simp] theorem State.modArr_fab (s : State) (t : LTile) (f : MArray → MArray) : (s.modArr t f).fab = s.fab := rfl
@[simp] theorem State.modArr_boot (s : State) (t : LTile) (f : MArray → MArray) : (s.modArr t f).boot = s.boot := rfl
@[simp] theorem State.modArr_spdm (s : State) (t : LTile) (f : MArray → MArray) : (s.modArr t f).spdm = s.spdm := rfl
@[simp] theorem State.modArr_pci (s : State) (t : LTile) (f : MArray → MArray) : (s.modArr t f).pci = s.pci := rfl
@[simp] theorem State.modArr_pkg (s : State) (t : LTile) (f : MArray → MArray) : (s.modArr t f).pkg = s.pkg := rfl
@[simp] theorem State.modArr_tests (s : State) (t : LTile) (f : MArray → MArray) : (s.modArr t f).tests = s.tests := rfl
@[simp] theorem State.modArr_board (s : State) (t : LTile) (f : MArray → MArray) : (s.modArr t f).board = s.board := rfl
@[simp] theorem State.modArr_out (s : State) (t : LTile) (f : MArray → MArray) : (s.modArr t f).out = s.out := rfl
@[simp] theorem State.modArr_freeCount (s : State) (t : LTile) (f : MArray → MArray) : (s.modArr t f).freeCount = s.freeCount := rfl
@[simp] theorem State.modArr_pending (s : State) (t : LTile) (f : MArray → MArray) : (s.modArr t f).pending = s.pending := rfl

/-! ## `State.modCmp` changes tiles only -/

@[simp] theorem State.modCmp_regs (s : State) (t : LTile) (f : CompareUnit → CompareUnit) : (s.modCmp t f).regs = s.regs := rfl
@[simp] theorem State.modCmp_time (s : State) (t : LTile) (f : CompareUnit → CompareUnit) : (s.modCmp t f).time = s.time := rfl
@[simp] theorem State.modCmp_tiles (s : State) (t : LTile) (f : CompareUnit → CompareUnit) : (s.modCmp t f).tiles = vmod s.tiles t fun x => { x with cmp := f x.cmp } := rfl
@[simp] theorem State.modCmp_pads (s : State) (t : LTile) (f : CompareUnit → CompareUnit) : (s.modCmp t f).pads = s.pads := rfl
@[simp] theorem State.modCmp_tileMap (s : State) (t : LTile) (f : CompareUnit → CompareUnit) : (s.modCmp t f).tileMap = s.tileMap := rfl
@[simp] theorem State.modCmp_mesh (s : State) (t : LTile) (f : CompareUnit → CompareUnit) : (s.modCmp t f).mesh = s.mesh := rfl
@[simp] theorem State.modCmp_mem (s : State) (t : LTile) (f : CompareUnit → CompareUnit) : (s.modCmp t f).mem = s.mem := rfl
@[simp] theorem State.modCmp_ten (s : State) (t : LTile) (f : CompareUnit → CompareUnit) : (s.modCmp t f).ten = s.ten := rfl
@[simp] theorem State.modCmp_ctl (s : State) (t : LTile) (f : CompareUnit → CompareUnit) : (s.modCmp t f).ctl = s.ctl := rfl
@[simp] theorem State.modCmp_mbx (s : State) (t : LTile) (f : CompareUnit → CompareUnit) : (s.modCmp t f).mbx = s.mbx := rfl
@[simp] theorem State.modCmp_cores (s : State) (t : LTile) (f : CompareUnit → CompareUnit) : (s.modCmp t f).cores = s.cores := rfl
@[simp] theorem State.modCmp_log (s : State) (t : LTile) (f : CompareUnit → CompareUnit) : (s.modCmp t f).log = s.log := rfl
@[simp] theorem State.modCmp_ports (s : State) (t : LTile) (f : CompareUnit → CompareUnit) : (s.modCmp t f).ports = s.ports := rfl
@[simp] theorem State.modCmp_radio (s : State) (t : LTile) (f : CompareUnit → CompareUnit) : (s.modCmp t f).radio = s.radio := rfl
@[simp] theorem State.modCmp_fab (s : State) (t : LTile) (f : CompareUnit → CompareUnit) : (s.modCmp t f).fab = s.fab := rfl
@[simp] theorem State.modCmp_boot (s : State) (t : LTile) (f : CompareUnit → CompareUnit) : (s.modCmp t f).boot = s.boot := rfl
@[simp] theorem State.modCmp_spdm (s : State) (t : LTile) (f : CompareUnit → CompareUnit) : (s.modCmp t f).spdm = s.spdm := rfl
@[simp] theorem State.modCmp_pci (s : State) (t : LTile) (f : CompareUnit → CompareUnit) : (s.modCmp t f).pci = s.pci := rfl
@[simp] theorem State.modCmp_pkg (s : State) (t : LTile) (f : CompareUnit → CompareUnit) : (s.modCmp t f).pkg = s.pkg := rfl
@[simp] theorem State.modCmp_tests (s : State) (t : LTile) (f : CompareUnit → CompareUnit) : (s.modCmp t f).tests = s.tests := rfl
@[simp] theorem State.modCmp_board (s : State) (t : LTile) (f : CompareUnit → CompareUnit) : (s.modCmp t f).board = s.board := rfl
@[simp] theorem State.modCmp_out (s : State) (t : LTile) (f : CompareUnit → CompareUnit) : (s.modCmp t f).out = s.out := rfl
@[simp] theorem State.modCmp_freeCount (s : State) (t : LTile) (f : CompareUnit → CompareUnit) : (s.modCmp t f).freeCount = s.freeCount := rfl
@[simp] theorem State.modCmp_pending (s : State) (t : LTile) (f : CompareUnit → CompareUnit) : (s.modCmp t f).pending = s.pending := rfl

/-! ## `State.modPad` changes pads only -/

@[simp] theorem State.modPad_regs (s : State) (p : PTile) (f : Pad → Pad) : (s.modPad p f).regs = s.regs := rfl
@[simp] theorem State.modPad_time (s : State) (p : PTile) (f : Pad → Pad) : (s.modPad p f).time = s.time := rfl
@[simp] theorem State.modPad_tiles (s : State) (p : PTile) (f : Pad → Pad) : (s.modPad p f).tiles = s.tiles := rfl
@[simp] theorem State.modPad_pads (s : State) (p : PTile) (f : Pad → Pad) : (s.modPad p f).pads = vmod s.pads p f := rfl
@[simp] theorem State.modPad_tileMap (s : State) (p : PTile) (f : Pad → Pad) : (s.modPad p f).tileMap = s.tileMap := rfl
@[simp] theorem State.modPad_mesh (s : State) (p : PTile) (f : Pad → Pad) : (s.modPad p f).mesh = s.mesh := rfl
@[simp] theorem State.modPad_mem (s : State) (p : PTile) (f : Pad → Pad) : (s.modPad p f).mem = s.mem := rfl
@[simp] theorem State.modPad_ten (s : State) (p : PTile) (f : Pad → Pad) : (s.modPad p f).ten = s.ten := rfl
@[simp] theorem State.modPad_ctl (s : State) (p : PTile) (f : Pad → Pad) : (s.modPad p f).ctl = s.ctl := rfl
@[simp] theorem State.modPad_mbx (s : State) (p : PTile) (f : Pad → Pad) : (s.modPad p f).mbx = s.mbx := rfl
@[simp] theorem State.modPad_cores (s : State) (p : PTile) (f : Pad → Pad) : (s.modPad p f).cores = s.cores := rfl
@[simp] theorem State.modPad_log (s : State) (p : PTile) (f : Pad → Pad) : (s.modPad p f).log = s.log := rfl
@[simp] theorem State.modPad_ports (s : State) (p : PTile) (f : Pad → Pad) : (s.modPad p f).ports = s.ports := rfl
@[simp] theorem State.modPad_radio (s : State) (p : PTile) (f : Pad → Pad) : (s.modPad p f).radio = s.radio := rfl
@[simp] theorem State.modPad_fab (s : State) (p : PTile) (f : Pad → Pad) : (s.modPad p f).fab = s.fab := rfl
@[simp] theorem State.modPad_boot (s : State) (p : PTile) (f : Pad → Pad) : (s.modPad p f).boot = s.boot := rfl
@[simp] theorem State.modPad_spdm (s : State) (p : PTile) (f : Pad → Pad) : (s.modPad p f).spdm = s.spdm := rfl
@[simp] theorem State.modPad_pci (s : State) (p : PTile) (f : Pad → Pad) : (s.modPad p f).pci = s.pci := rfl
@[simp] theorem State.modPad_pkg (s : State) (p : PTile) (f : Pad → Pad) : (s.modPad p f).pkg = s.pkg := rfl
@[simp] theorem State.modPad_tests (s : State) (p : PTile) (f : Pad → Pad) : (s.modPad p f).tests = s.tests := rfl
@[simp] theorem State.modPad_board (s : State) (p : PTile) (f : Pad → Pad) : (s.modPad p f).board = s.board := rfl
@[simp] theorem State.modPad_out (s : State) (p : PTile) (f : Pad → Pad) : (s.modPad p f).out = s.out := rfl
@[simp] theorem State.modPad_freeCount (s : State) (p : PTile) (f : Pad → Pad) : (s.modPad p f).freeCount = s.freeCount := rfl
@[simp] theorem State.modPad_pending (s : State) (p : PTile) (f : Pad → Pad) : (s.modPad p f).pending = s.pending := rfl

/-! ## `State.padWrite` changes pads only -/

@[simp] theorem State.padWrite_regs (s : State) (t : LTile) (w : PadWrite) : (s.padWrite t w).regs = s.regs := rfl
@[simp] theorem State.padWrite_time (s : State) (t : LTile) (w : PadWrite) : (s.padWrite t w).time = s.time := rfl
@[simp] theorem State.padWrite_tiles (s : State) (t : LTile) (w : PadWrite) : (s.padWrite t w).tiles = s.tiles := rfl
@[simp] theorem State.padWrite_pads (s : State) (t : LTile) (w : PadWrite) : (s.padWrite t w).pads = vmod s.pads (s.ptile t) fun p => { p with writes := enq p.writes w } := rfl
@[simp] theorem State.padWrite_tileMap (s : State) (t : LTile) (w : PadWrite) : (s.padWrite t w).tileMap = s.tileMap := rfl
@[simp] theorem State.padWrite_mesh (s : State) (t : LTile) (w : PadWrite) : (s.padWrite t w).mesh = s.mesh := rfl
@[simp] theorem State.padWrite_mem (s : State) (t : LTile) (w : PadWrite) : (s.padWrite t w).mem = s.mem := rfl
@[simp] theorem State.padWrite_ten (s : State) (t : LTile) (w : PadWrite) : (s.padWrite t w).ten = s.ten := rfl
@[simp] theorem State.padWrite_ctl (s : State) (t : LTile) (w : PadWrite) : (s.padWrite t w).ctl = s.ctl := rfl
@[simp] theorem State.padWrite_mbx (s : State) (t : LTile) (w : PadWrite) : (s.padWrite t w).mbx = s.mbx := rfl
@[simp] theorem State.padWrite_cores (s : State) (t : LTile) (w : PadWrite) : (s.padWrite t w).cores = s.cores := rfl
@[simp] theorem State.padWrite_log (s : State) (t : LTile) (w : PadWrite) : (s.padWrite t w).log = s.log := rfl
@[simp] theorem State.padWrite_ports (s : State) (t : LTile) (w : PadWrite) : (s.padWrite t w).ports = s.ports := rfl
@[simp] theorem State.padWrite_radio (s : State) (t : LTile) (w : PadWrite) : (s.padWrite t w).radio = s.radio := rfl
@[simp] theorem State.padWrite_fab (s : State) (t : LTile) (w : PadWrite) : (s.padWrite t w).fab = s.fab := rfl
@[simp] theorem State.padWrite_boot (s : State) (t : LTile) (w : PadWrite) : (s.padWrite t w).boot = s.boot := rfl
@[simp] theorem State.padWrite_spdm (s : State) (t : LTile) (w : PadWrite) : (s.padWrite t w).spdm = s.spdm := rfl
@[simp] theorem State.padWrite_pci (s : State) (t : LTile) (w : PadWrite) : (s.padWrite t w).pci = s.pci := rfl
@[simp] theorem State.padWrite_pkg (s : State) (t : LTile) (w : PadWrite) : (s.padWrite t w).pkg = s.pkg := rfl
@[simp] theorem State.padWrite_tests (s : State) (t : LTile) (w : PadWrite) : (s.padWrite t w).tests = s.tests := rfl
@[simp] theorem State.padWrite_board (s : State) (t : LTile) (w : PadWrite) : (s.padWrite t w).board = s.board := rfl
@[simp] theorem State.padWrite_out (s : State) (t : LTile) (w : PadWrite) : (s.padWrite t w).out = s.out := rfl
@[simp] theorem State.padWrite_freeCount (s : State) (t : LTile) (w : PadWrite) : (s.padWrite t w).freeCount = s.freeCount := rfl
@[simp] theorem State.padWrite_pending (s : State) (t : LTile) (w : PadWrite) : (s.padWrite t w).pending = s.pending := rfl

/-! ## `State.modMem` changes mem only -/

@[simp] theorem State.modMem_regs (s : State) (f : Mem → Mem) : (s.modMem f).regs = s.regs := rfl
@[simp] theorem State.modMem_time (s : State) (f : Mem → Mem) : (s.modMem f).time = s.time := rfl
@[simp] theorem State.modMem_tiles (s : State) (f : Mem → Mem) : (s.modMem f).tiles = s.tiles := rfl
@[simp] theorem State.modMem_pads (s : State) (f : Mem → Mem) : (s.modMem f).pads = s.pads := rfl
@[simp] theorem State.modMem_tileMap (s : State) (f : Mem → Mem) : (s.modMem f).tileMap = s.tileMap := rfl
@[simp] theorem State.modMem_mesh (s : State) (f : Mem → Mem) : (s.modMem f).mesh = s.mesh := rfl
@[simp] theorem State.modMem_mem (s : State) (f : Mem → Mem) : (s.modMem f).mem = f s.mem := rfl
@[simp] theorem State.modMem_ten (s : State) (f : Mem → Mem) : (s.modMem f).ten = s.ten := rfl
@[simp] theorem State.modMem_ctl (s : State) (f : Mem → Mem) : (s.modMem f).ctl = s.ctl := rfl
@[simp] theorem State.modMem_mbx (s : State) (f : Mem → Mem) : (s.modMem f).mbx = s.mbx := rfl
@[simp] theorem State.modMem_cores (s : State) (f : Mem → Mem) : (s.modMem f).cores = s.cores := rfl
@[simp] theorem State.modMem_log (s : State) (f : Mem → Mem) : (s.modMem f).log = s.log := rfl
@[simp] theorem State.modMem_ports (s : State) (f : Mem → Mem) : (s.modMem f).ports = s.ports := rfl
@[simp] theorem State.modMem_radio (s : State) (f : Mem → Mem) : (s.modMem f).radio = s.radio := rfl
@[simp] theorem State.modMem_fab (s : State) (f : Mem → Mem) : (s.modMem f).fab = s.fab := rfl
@[simp] theorem State.modMem_boot (s : State) (f : Mem → Mem) : (s.modMem f).boot = s.boot := rfl
@[simp] theorem State.modMem_spdm (s : State) (f : Mem → Mem) : (s.modMem f).spdm = s.spdm := rfl
@[simp] theorem State.modMem_pci (s : State) (f : Mem → Mem) : (s.modMem f).pci = s.pci := rfl
@[simp] theorem State.modMem_pkg (s : State) (f : Mem → Mem) : (s.modMem f).pkg = s.pkg := rfl
@[simp] theorem State.modMem_tests (s : State) (f : Mem → Mem) : (s.modMem f).tests = s.tests := rfl
@[simp] theorem State.modMem_board (s : State) (f : Mem → Mem) : (s.modMem f).board = s.board := rfl
@[simp] theorem State.modMem_out (s : State) (f : Mem → Mem) : (s.modMem f).out = s.out := rfl
@[simp] theorem State.modMem_freeCount (s : State) (f : Mem → Mem) : (s.modMem f).freeCount = s.freeCount := rfl
@[simp] theorem State.modMem_pending (s : State) (f : Mem → Mem) : (s.modMem f).pending = s.pending := rfl

/-! ## `State.modChan` changes mem only -/

@[simp] theorem State.modChan_regs (s : State) (k : Nat) (f : Channel → Channel) : (s.modChan k f).regs = s.regs := rfl
@[simp] theorem State.modChan_time (s : State) (k : Nat) (f : Channel → Channel) : (s.modChan k f).time = s.time := rfl
@[simp] theorem State.modChan_tiles (s : State) (k : Nat) (f : Channel → Channel) : (s.modChan k f).tiles = s.tiles := rfl
@[simp] theorem State.modChan_pads (s : State) (k : Nat) (f : Channel → Channel) : (s.modChan k f).pads = s.pads := rfl
@[simp] theorem State.modChan_tileMap (s : State) (k : Nat) (f : Channel → Channel) : (s.modChan k f).tileMap = s.tileMap := rfl
@[simp] theorem State.modChan_mesh (s : State) (k : Nat) (f : Channel → Channel) : (s.modChan k f).mesh = s.mesh := rfl
@[simp] theorem State.modChan_mem (s : State) (k : Nat) (f : Channel → Channel) : (s.modChan k f).mem = { s.mem with chans := vmod s.mem.chans (fin 160 k) f } := rfl
@[simp] theorem State.modChan_ten (s : State) (k : Nat) (f : Channel → Channel) : (s.modChan k f).ten = s.ten := rfl
@[simp] theorem State.modChan_ctl (s : State) (k : Nat) (f : Channel → Channel) : (s.modChan k f).ctl = s.ctl := rfl
@[simp] theorem State.modChan_mbx (s : State) (k : Nat) (f : Channel → Channel) : (s.modChan k f).mbx = s.mbx := rfl
@[simp] theorem State.modChan_cores (s : State) (k : Nat) (f : Channel → Channel) : (s.modChan k f).cores = s.cores := rfl
@[simp] theorem State.modChan_log (s : State) (k : Nat) (f : Channel → Channel) : (s.modChan k f).log = s.log := rfl
@[simp] theorem State.modChan_ports (s : State) (k : Nat) (f : Channel → Channel) : (s.modChan k f).ports = s.ports := rfl
@[simp] theorem State.modChan_radio (s : State) (k : Nat) (f : Channel → Channel) : (s.modChan k f).radio = s.radio := rfl
@[simp] theorem State.modChan_fab (s : State) (k : Nat) (f : Channel → Channel) : (s.modChan k f).fab = s.fab := rfl
@[simp] theorem State.modChan_boot (s : State) (k : Nat) (f : Channel → Channel) : (s.modChan k f).boot = s.boot := rfl
@[simp] theorem State.modChan_spdm (s : State) (k : Nat) (f : Channel → Channel) : (s.modChan k f).spdm = s.spdm := rfl
@[simp] theorem State.modChan_pci (s : State) (k : Nat) (f : Channel → Channel) : (s.modChan k f).pci = s.pci := rfl
@[simp] theorem State.modChan_pkg (s : State) (k : Nat) (f : Channel → Channel) : (s.modChan k f).pkg = s.pkg := rfl
@[simp] theorem State.modChan_tests (s : State) (k : Nat) (f : Channel → Channel) : (s.modChan k f).tests = s.tests := rfl
@[simp] theorem State.modChan_board (s : State) (k : Nat) (f : Channel → Channel) : (s.modChan k f).board = s.board := rfl
@[simp] theorem State.modChan_out (s : State) (k : Nat) (f : Channel → Channel) : (s.modChan k f).out = s.out := rfl
@[simp] theorem State.modChan_freeCount (s : State) (k : Nat) (f : Channel → Channel) : (s.modChan k f).freeCount = s.freeCount := rfl
@[simp] theorem State.modChan_pending (s : State) (k : Nat) (f : Channel → Channel) : (s.modChan k f).pending = s.pending := rfl

/-! ## `State.modTen` changes ten only -/

@[simp] theorem State.modTen_regs (s : State) (f : Tenancy → Tenancy) : (s.modTen f).regs = s.regs := rfl
@[simp] theorem State.modTen_time (s : State) (f : Tenancy → Tenancy) : (s.modTen f).time = s.time := rfl
@[simp] theorem State.modTen_tiles (s : State) (f : Tenancy → Tenancy) : (s.modTen f).tiles = s.tiles := rfl
@[simp] theorem State.modTen_pads (s : State) (f : Tenancy → Tenancy) : (s.modTen f).pads = s.pads := rfl
@[simp] theorem State.modTen_tileMap (s : State) (f : Tenancy → Tenancy) : (s.modTen f).tileMap = s.tileMap := rfl
@[simp] theorem State.modTen_mesh (s : State) (f : Tenancy → Tenancy) : (s.modTen f).mesh = s.mesh := rfl
@[simp] theorem State.modTen_mem (s : State) (f : Tenancy → Tenancy) : (s.modTen f).mem = s.mem := rfl
@[simp] theorem State.modTen_ten (s : State) (f : Tenancy → Tenancy) : (s.modTen f).ten = f s.ten := rfl
@[simp] theorem State.modTen_ctl (s : State) (f : Tenancy → Tenancy) : (s.modTen f).ctl = s.ctl := rfl
@[simp] theorem State.modTen_mbx (s : State) (f : Tenancy → Tenancy) : (s.modTen f).mbx = s.mbx := rfl
@[simp] theorem State.modTen_cores (s : State) (f : Tenancy → Tenancy) : (s.modTen f).cores = s.cores := rfl
@[simp] theorem State.modTen_log (s : State) (f : Tenancy → Tenancy) : (s.modTen f).log = s.log := rfl
@[simp] theorem State.modTen_ports (s : State) (f : Tenancy → Tenancy) : (s.modTen f).ports = s.ports := rfl
@[simp] theorem State.modTen_radio (s : State) (f : Tenancy → Tenancy) : (s.modTen f).radio = s.radio := rfl
@[simp] theorem State.modTen_fab (s : State) (f : Tenancy → Tenancy) : (s.modTen f).fab = s.fab := rfl
@[simp] theorem State.modTen_boot (s : State) (f : Tenancy → Tenancy) : (s.modTen f).boot = s.boot := rfl
@[simp] theorem State.modTen_spdm (s : State) (f : Tenancy → Tenancy) : (s.modTen f).spdm = s.spdm := rfl
@[simp] theorem State.modTen_pci (s : State) (f : Tenancy → Tenancy) : (s.modTen f).pci = s.pci := rfl
@[simp] theorem State.modTen_pkg (s : State) (f : Tenancy → Tenancy) : (s.modTen f).pkg = s.pkg := rfl
@[simp] theorem State.modTen_tests (s : State) (f : Tenancy → Tenancy) : (s.modTen f).tests = s.tests := rfl
@[simp] theorem State.modTen_board (s : State) (f : Tenancy → Tenancy) : (s.modTen f).board = s.board := rfl
@[simp] theorem State.modTen_out (s : State) (f : Tenancy → Tenancy) : (s.modTen f).out = s.out := rfl
@[simp] theorem State.modTen_freeCount (s : State) (f : Tenancy → Tenancy) : (s.modTen f).freeCount = s.freeCount := rfl
@[simp] theorem State.modTen_pending (s : State) (f : Tenancy → Tenancy) : (s.modTen f).pending = s.pending := rfl

/-! ## `State.act` changes ten only -/

@[simp] theorem State.act_regs (s : State) (f : Activity → Activity) : (s.act f).regs = s.regs := rfl
@[simp] theorem State.act_time (s : State) (f : Activity → Activity) : (s.act f).time = s.time := rfl
@[simp] theorem State.act_tiles (s : State) (f : Activity → Activity) : (s.act f).tiles = s.tiles := rfl
@[simp] theorem State.act_pads (s : State) (f : Activity → Activity) : (s.act f).pads = s.pads := rfl
@[simp] theorem State.act_tileMap (s : State) (f : Activity → Activity) : (s.act f).tileMap = s.tileMap := rfl
@[simp] theorem State.act_mesh (s : State) (f : Activity → Activity) : (s.act f).mesh = s.mesh := rfl
@[simp] theorem State.act_mem (s : State) (f : Activity → Activity) : (s.act f).mem = s.mem := rfl
@[simp] theorem State.act_ten (s : State) (f : Activity → Activity) : (s.act f).ten = { s.ten with activity := f s.ten.activity } := rfl
@[simp] theorem State.act_ctl (s : State) (f : Activity → Activity) : (s.act f).ctl = s.ctl := rfl
@[simp] theorem State.act_mbx (s : State) (f : Activity → Activity) : (s.act f).mbx = s.mbx := rfl
@[simp] theorem State.act_cores (s : State) (f : Activity → Activity) : (s.act f).cores = s.cores := rfl
@[simp] theorem State.act_log (s : State) (f : Activity → Activity) : (s.act f).log = s.log := rfl
@[simp] theorem State.act_ports (s : State) (f : Activity → Activity) : (s.act f).ports = s.ports := rfl
@[simp] theorem State.act_radio (s : State) (f : Activity → Activity) : (s.act f).radio = s.radio := rfl
@[simp] theorem State.act_fab (s : State) (f : Activity → Activity) : (s.act f).fab = s.fab := rfl
@[simp] theorem State.act_boot (s : State) (f : Activity → Activity) : (s.act f).boot = s.boot := rfl
@[simp] theorem State.act_spdm (s : State) (f : Activity → Activity) : (s.act f).spdm = s.spdm := rfl
@[simp] theorem State.act_pci (s : State) (f : Activity → Activity) : (s.act f).pci = s.pci := rfl
@[simp] theorem State.act_pkg (s : State) (f : Activity → Activity) : (s.act f).pkg = s.pkg := rfl
@[simp] theorem State.act_tests (s : State) (f : Activity → Activity) : (s.act f).tests = s.tests := rfl
@[simp] theorem State.act_board (s : State) (f : Activity → Activity) : (s.act f).board = s.board := rfl
@[simp] theorem State.act_out (s : State) (f : Activity → Activity) : (s.act f).out = s.out := rfl
@[simp] theorem State.act_freeCount (s : State) (f : Activity → Activity) : (s.act f).freeCount = s.freeCount := rfl
@[simp] theorem State.act_pending (s : State) (f : Activity → Activity) : (s.act f).pending = s.pending := rfl

/-! ## `State.modFab` changes fab only -/

@[simp] theorem State.modFab_regs (s : State) (f : Fabric → Fabric) : (s.modFab f).regs = s.regs := rfl
@[simp] theorem State.modFab_time (s : State) (f : Fabric → Fabric) : (s.modFab f).time = s.time := rfl
@[simp] theorem State.modFab_tiles (s : State) (f : Fabric → Fabric) : (s.modFab f).tiles = s.tiles := rfl
@[simp] theorem State.modFab_pads (s : State) (f : Fabric → Fabric) : (s.modFab f).pads = s.pads := rfl
@[simp] theorem State.modFab_tileMap (s : State) (f : Fabric → Fabric) : (s.modFab f).tileMap = s.tileMap := rfl
@[simp] theorem State.modFab_mesh (s : State) (f : Fabric → Fabric) : (s.modFab f).mesh = s.mesh := rfl
@[simp] theorem State.modFab_mem (s : State) (f : Fabric → Fabric) : (s.modFab f).mem = s.mem := rfl
@[simp] theorem State.modFab_ten (s : State) (f : Fabric → Fabric) : (s.modFab f).ten = s.ten := rfl
@[simp] theorem State.modFab_ctl (s : State) (f : Fabric → Fabric) : (s.modFab f).ctl = s.ctl := rfl
@[simp] theorem State.modFab_mbx (s : State) (f : Fabric → Fabric) : (s.modFab f).mbx = s.mbx := rfl
@[simp] theorem State.modFab_cores (s : State) (f : Fabric → Fabric) : (s.modFab f).cores = s.cores := rfl
@[simp] theorem State.modFab_log (s : State) (f : Fabric → Fabric) : (s.modFab f).log = s.log := rfl
@[simp] theorem State.modFab_ports (s : State) (f : Fabric → Fabric) : (s.modFab f).ports = s.ports := rfl
@[simp] theorem State.modFab_radio (s : State) (f : Fabric → Fabric) : (s.modFab f).radio = s.radio := rfl
@[simp] theorem State.modFab_fab (s : State) (f : Fabric → Fabric) : (s.modFab f).fab = f s.fab := rfl
@[simp] theorem State.modFab_boot (s : State) (f : Fabric → Fabric) : (s.modFab f).boot = s.boot := rfl
@[simp] theorem State.modFab_spdm (s : State) (f : Fabric → Fabric) : (s.modFab f).spdm = s.spdm := rfl
@[simp] theorem State.modFab_pci (s : State) (f : Fabric → Fabric) : (s.modFab f).pci = s.pci := rfl
@[simp] theorem State.modFab_pkg (s : State) (f : Fabric → Fabric) : (s.modFab f).pkg = s.pkg := rfl
@[simp] theorem State.modFab_tests (s : State) (f : Fabric → Fabric) : (s.modFab f).tests = s.tests := rfl
@[simp] theorem State.modFab_board (s : State) (f : Fabric → Fabric) : (s.modFab f).board = s.board := rfl
@[simp] theorem State.modFab_out (s : State) (f : Fabric → Fabric) : (s.modFab f).out = s.out := rfl
@[simp] theorem State.modFab_freeCount (s : State) (f : Fabric → Fabric) : (s.modFab f).freeCount = s.freeCount := rfl
@[simp] theorem State.modFab_pending (s : State) (f : Fabric → Fabric) : (s.modFab f).pending = s.pending := rfl

/-! ## `State.modPort` changes ports only -/

@[simp] theorem State.modPort_regs (s : State) (l : Nat) (f : PortSt → PortSt) : (s.modPort l f).regs = s.regs := rfl
@[simp] theorem State.modPort_time (s : State) (l : Nat) (f : PortSt → PortSt) : (s.modPort l f).time = s.time := rfl
@[simp] theorem State.modPort_tiles (s : State) (l : Nat) (f : PortSt → PortSt) : (s.modPort l f).tiles = s.tiles := rfl
@[simp] theorem State.modPort_pads (s : State) (l : Nat) (f : PortSt → PortSt) : (s.modPort l f).pads = s.pads := rfl
@[simp] theorem State.modPort_tileMap (s : State) (l : Nat) (f : PortSt → PortSt) : (s.modPort l f).tileMap = s.tileMap := rfl
@[simp] theorem State.modPort_mesh (s : State) (l : Nat) (f : PortSt → PortSt) : (s.modPort l f).mesh = s.mesh := rfl
@[simp] theorem State.modPort_mem (s : State) (l : Nat) (f : PortSt → PortSt) : (s.modPort l f).mem = s.mem := rfl
@[simp] theorem State.modPort_ten (s : State) (l : Nat) (f : PortSt → PortSt) : (s.modPort l f).ten = s.ten := rfl
@[simp] theorem State.modPort_ctl (s : State) (l : Nat) (f : PortSt → PortSt) : (s.modPort l f).ctl = s.ctl := rfl
@[simp] theorem State.modPort_mbx (s : State) (l : Nat) (f : PortSt → PortSt) : (s.modPort l f).mbx = s.mbx := rfl
@[simp] theorem State.modPort_cores (s : State) (l : Nat) (f : PortSt → PortSt) : (s.modPort l f).cores = s.cores := rfl
@[simp] theorem State.modPort_log (s : State) (l : Nat) (f : PortSt → PortSt) : (s.modPort l f).log = s.log := rfl
@[simp] theorem State.modPort_ports (s : State) (l : Nat) (f : PortSt → PortSt) : (s.modPort l f).ports = tset {} s.ports l (f (s.portSt l)) := rfl
@[simp] theorem State.modPort_radio (s : State) (l : Nat) (f : PortSt → PortSt) : (s.modPort l f).radio = s.radio := rfl
@[simp] theorem State.modPort_fab (s : State) (l : Nat) (f : PortSt → PortSt) : (s.modPort l f).fab = s.fab := rfl
@[simp] theorem State.modPort_boot (s : State) (l : Nat) (f : PortSt → PortSt) : (s.modPort l f).boot = s.boot := rfl
@[simp] theorem State.modPort_spdm (s : State) (l : Nat) (f : PortSt → PortSt) : (s.modPort l f).spdm = s.spdm := rfl
@[simp] theorem State.modPort_pci (s : State) (l : Nat) (f : PortSt → PortSt) : (s.modPort l f).pci = s.pci := rfl
@[simp] theorem State.modPort_pkg (s : State) (l : Nat) (f : PortSt → PortSt) : (s.modPort l f).pkg = s.pkg := rfl
@[simp] theorem State.modPort_tests (s : State) (l : Nat) (f : PortSt → PortSt) : (s.modPort l f).tests = s.tests := rfl
@[simp] theorem State.modPort_board (s : State) (l : Nat) (f : PortSt → PortSt) : (s.modPort l f).board = s.board := rfl
@[simp] theorem State.modPort_out (s : State) (l : Nat) (f : PortSt → PortSt) : (s.modPort l f).out = s.out := rfl
@[simp] theorem State.modPort_freeCount (s : State) (l : Nat) (f : PortSt → PortSt) : (s.modPort l f).freeCount = s.freeCount := rfl
@[simp] theorem State.modPort_pending (s : State) (l : Nat) (f : PortSt → PortSt) : (s.modPort l f).pending = s.pending := rfl

/-! ## `State.modRim` changes radio only -/

@[simp] theorem State.modRim_regs (s : State) (r : Fin 4) (f : RimSt → RimSt) : (s.modRim r f).regs = s.regs := rfl
@[simp] theorem State.modRim_time (s : State) (r : Fin 4) (f : RimSt → RimSt) : (s.modRim r f).time = s.time := rfl
@[simp] theorem State.modRim_tiles (s : State) (r : Fin 4) (f : RimSt → RimSt) : (s.modRim r f).tiles = s.tiles := rfl
@[simp] theorem State.modRim_pads (s : State) (r : Fin 4) (f : RimSt → RimSt) : (s.modRim r f).pads = s.pads := rfl
@[simp] theorem State.modRim_tileMap (s : State) (r : Fin 4) (f : RimSt → RimSt) : (s.modRim r f).tileMap = s.tileMap := rfl
@[simp] theorem State.modRim_mesh (s : State) (r : Fin 4) (f : RimSt → RimSt) : (s.modRim r f).mesh = s.mesh := rfl
@[simp] theorem State.modRim_mem (s : State) (r : Fin 4) (f : RimSt → RimSt) : (s.modRim r f).mem = s.mem := rfl
@[simp] theorem State.modRim_ten (s : State) (r : Fin 4) (f : RimSt → RimSt) : (s.modRim r f).ten = s.ten := rfl
@[simp] theorem State.modRim_ctl (s : State) (r : Fin 4) (f : RimSt → RimSt) : (s.modRim r f).ctl = s.ctl := rfl
@[simp] theorem State.modRim_mbx (s : State) (r : Fin 4) (f : RimSt → RimSt) : (s.modRim r f).mbx = s.mbx := rfl
@[simp] theorem State.modRim_cores (s : State) (r : Fin 4) (f : RimSt → RimSt) : (s.modRim r f).cores = s.cores := rfl
@[simp] theorem State.modRim_log (s : State) (r : Fin 4) (f : RimSt → RimSt) : (s.modRim r f).log = s.log := rfl
@[simp] theorem State.modRim_ports (s : State) (r : Fin 4) (f : RimSt → RimSt) : (s.modRim r f).ports = s.ports := rfl
@[simp] theorem State.modRim_radio (s : State) (r : Fin 4) (f : RimSt → RimSt) : (s.modRim r f).radio = { s.radio with rims := vmod s.radio.rims r f } := rfl
@[simp] theorem State.modRim_fab (s : State) (r : Fin 4) (f : RimSt → RimSt) : (s.modRim r f).fab = s.fab := rfl
@[simp] theorem State.modRim_boot (s : State) (r : Fin 4) (f : RimSt → RimSt) : (s.modRim r f).boot = s.boot := rfl
@[simp] theorem State.modRim_spdm (s : State) (r : Fin 4) (f : RimSt → RimSt) : (s.modRim r f).spdm = s.spdm := rfl
@[simp] theorem State.modRim_pci (s : State) (r : Fin 4) (f : RimSt → RimSt) : (s.modRim r f).pci = s.pci := rfl
@[simp] theorem State.modRim_pkg (s : State) (r : Fin 4) (f : RimSt → RimSt) : (s.modRim r f).pkg = s.pkg := rfl
@[simp] theorem State.modRim_tests (s : State) (r : Fin 4) (f : RimSt → RimSt) : (s.modRim r f).tests = s.tests := rfl
@[simp] theorem State.modRim_board (s : State) (r : Fin 4) (f : RimSt → RimSt) : (s.modRim r f).board = s.board := rfl
@[simp] theorem State.modRim_out (s : State) (r : Fin 4) (f : RimSt → RimSt) : (s.modRim r f).out = s.out := rfl
@[simp] theorem State.modRim_freeCount (s : State) (r : Fin 4) (f : RimSt → RimSt) : (s.modRim r f).freeCount = s.freeCount := rfl
@[simp] theorem State.modRim_pending (s : State) (r : Fin 4) (f : RimSt → RimSt) : (s.modRim r f).pending = s.pending := rfl

/-! ## `State.modSlot` changes mbx only -/

@[simp] theorem State.modSlot_regs (s : State) (i : SlotId) (f : Slot → Slot) : (s.modSlot i f).regs = s.regs := rfl
@[simp] theorem State.modSlot_time (s : State) (i : SlotId) (f : Slot → Slot) : (s.modSlot i f).time = s.time := rfl
@[simp] theorem State.modSlot_tiles (s : State) (i : SlotId) (f : Slot → Slot) : (s.modSlot i f).tiles = s.tiles := rfl
@[simp] theorem State.modSlot_pads (s : State) (i : SlotId) (f : Slot → Slot) : (s.modSlot i f).pads = s.pads := rfl
@[simp] theorem State.modSlot_tileMap (s : State) (i : SlotId) (f : Slot → Slot) : (s.modSlot i f).tileMap = s.tileMap := rfl
@[simp] theorem State.modSlot_mesh (s : State) (i : SlotId) (f : Slot → Slot) : (s.modSlot i f).mesh = s.mesh := rfl
@[simp] theorem State.modSlot_mem (s : State) (i : SlotId) (f : Slot → Slot) : (s.modSlot i f).mem = s.mem := rfl
@[simp] theorem State.modSlot_ten (s : State) (i : SlotId) (f : Slot → Slot) : (s.modSlot i f).ten = s.ten := rfl
@[simp] theorem State.modSlot_ctl (s : State) (i : SlotId) (f : Slot → Slot) : (s.modSlot i f).ctl = s.ctl := rfl
@[simp] theorem State.modSlot_mbx (s : State) (i : SlotId) (f : Slot → Slot) : (s.modSlot i f).mbx = { s.mbx with slots := tset {} s.mbx.slots (slotKey i) (f (s.slot i)) } := rfl
@[simp] theorem State.modSlot_cores (s : State) (i : SlotId) (f : Slot → Slot) : (s.modSlot i f).cores = s.cores := rfl
@[simp] theorem State.modSlot_log (s : State) (i : SlotId) (f : Slot → Slot) : (s.modSlot i f).log = s.log := rfl
@[simp] theorem State.modSlot_ports (s : State) (i : SlotId) (f : Slot → Slot) : (s.modSlot i f).ports = s.ports := rfl
@[simp] theorem State.modSlot_radio (s : State) (i : SlotId) (f : Slot → Slot) : (s.modSlot i f).radio = s.radio := rfl
@[simp] theorem State.modSlot_fab (s : State) (i : SlotId) (f : Slot → Slot) : (s.modSlot i f).fab = s.fab := rfl
@[simp] theorem State.modSlot_boot (s : State) (i : SlotId) (f : Slot → Slot) : (s.modSlot i f).boot = s.boot := rfl
@[simp] theorem State.modSlot_spdm (s : State) (i : SlotId) (f : Slot → Slot) : (s.modSlot i f).spdm = s.spdm := rfl
@[simp] theorem State.modSlot_pci (s : State) (i : SlotId) (f : Slot → Slot) : (s.modSlot i f).pci = s.pci := rfl
@[simp] theorem State.modSlot_pkg (s : State) (i : SlotId) (f : Slot → Slot) : (s.modSlot i f).pkg = s.pkg := rfl
@[simp] theorem State.modSlot_tests (s : State) (i : SlotId) (f : Slot → Slot) : (s.modSlot i f).tests = s.tests := rfl
@[simp] theorem State.modSlot_board (s : State) (i : SlotId) (f : Slot → Slot) : (s.modSlot i f).board = s.board := rfl
@[simp] theorem State.modSlot_out (s : State) (i : SlotId) (f : Slot → Slot) : (s.modSlot i f).out = s.out := rfl
@[simp] theorem State.modSlot_freeCount (s : State) (i : SlotId) (f : Slot → Slot) : (s.modSlot i f).freeCount = s.freeCount := rfl
@[simp] theorem State.modSlot_pending (s : State) (i : SlotId) (f : Slot → Slot) : (s.modSlot i f).pending = s.pending := rfl

/-! ## `State.await` changes mbx only -/

@[simp] theorem State.await_regs (s : State) (m : Msg) (w : WaitFor) : (s.await m w).regs = s.regs := rfl
@[simp] theorem State.await_time (s : State) (m : Msg) (w : WaitFor) : (s.await m w).time = s.time := rfl
@[simp] theorem State.await_tiles (s : State) (m : Msg) (w : WaitFor) : (s.await m w).tiles = s.tiles := rfl
@[simp] theorem State.await_pads (s : State) (m : Msg) (w : WaitFor) : (s.await m w).pads = s.pads := rfl
@[simp] theorem State.await_tileMap (s : State) (m : Msg) (w : WaitFor) : (s.await m w).tileMap = s.tileMap := rfl
@[simp] theorem State.await_mesh (s : State) (m : Msg) (w : WaitFor) : (s.await m w).mesh = s.mesh := rfl
@[simp] theorem State.await_mem (s : State) (m : Msg) (w : WaitFor) : (s.await m w).mem = s.mem := rfl
@[simp] theorem State.await_ten (s : State) (m : Msg) (w : WaitFor) : (s.await m w).ten = s.ten := rfl
@[simp] theorem State.await_ctl (s : State) (m : Msg) (w : WaitFor) : (s.await m w).ctl = s.ctl := rfl
@[simp] theorem State.await_mbx (s : State) (m : Msg) (w : WaitFor) : (s.await m w).mbx = { s.mbx with waiting := enq s.mbx.waiting (m, w) } := rfl
@[simp] theorem State.await_cores (s : State) (m : Msg) (w : WaitFor) : (s.await m w).cores = s.cores := rfl
@[simp] theorem State.await_log (s : State) (m : Msg) (w : WaitFor) : (s.await m w).log = s.log := rfl
@[simp] theorem State.await_ports (s : State) (m : Msg) (w : WaitFor) : (s.await m w).ports = s.ports := rfl
@[simp] theorem State.await_radio (s : State) (m : Msg) (w : WaitFor) : (s.await m w).radio = s.radio := rfl
@[simp] theorem State.await_fab (s : State) (m : Msg) (w : WaitFor) : (s.await m w).fab = s.fab := rfl
@[simp] theorem State.await_boot (s : State) (m : Msg) (w : WaitFor) : (s.await m w).boot = s.boot := rfl
@[simp] theorem State.await_spdm (s : State) (m : Msg) (w : WaitFor) : (s.await m w).spdm = s.spdm := rfl
@[simp] theorem State.await_pci (s : State) (m : Msg) (w : WaitFor) : (s.await m w).pci = s.pci := rfl
@[simp] theorem State.await_pkg (s : State) (m : Msg) (w : WaitFor) : (s.await m w).pkg = s.pkg := rfl
@[simp] theorem State.await_tests (s : State) (m : Msg) (w : WaitFor) : (s.await m w).tests = s.tests := rfl
@[simp] theorem State.await_board (s : State) (m : Msg) (w : WaitFor) : (s.await m w).board = s.board := rfl
@[simp] theorem State.await_out (s : State) (m : Msg) (w : WaitFor) : (s.await m w).out = s.out := rfl
@[simp] theorem State.await_freeCount (s : State) (m : Msg) (w : WaitFor) : (s.await m w).freeCount = s.freeCount := rfl
@[simp] theorem State.await_pending (s : State) (m : Msg) (w : WaitFor) : (s.await m w).pending = s.pending := rfl

/-! ## `State.event` changes mbx only -/

@[simp] theorem State.event_regs (s : State) (e : Event) : (s.event e).regs = s.regs := rfl
@[simp] theorem State.event_time (s : State) (e : Event) : (s.event e).time = s.time := rfl
@[simp] theorem State.event_tiles (s : State) (e : Event) : (s.event e).tiles = s.tiles := rfl
@[simp] theorem State.event_pads (s : State) (e : Event) : (s.event e).pads = s.pads := rfl
@[simp] theorem State.event_tileMap (s : State) (e : Event) : (s.event e).tileMap = s.tileMap := rfl
@[simp] theorem State.event_mesh (s : State) (e : Event) : (s.event e).mesh = s.mesh := rfl
@[simp] theorem State.event_mem (s : State) (e : Event) : (s.event e).mem = s.mem := rfl
@[simp] theorem State.event_ten (s : State) (e : Event) : (s.event e).ten = s.ten := rfl
@[simp] theorem State.event_ctl (s : State) (e : Event) : (s.event e).ctl = s.ctl := rfl
@[simp] theorem State.event_mbx (s : State) (e : Event) : (s.event e).mbx = { s.mbx with events := enq s.mbx.events e } := rfl
@[simp] theorem State.event_cores (s : State) (e : Event) : (s.event e).cores = s.cores := rfl
@[simp] theorem State.event_log (s : State) (e : Event) : (s.event e).log = s.log := rfl
@[simp] theorem State.event_ports (s : State) (e : Event) : (s.event e).ports = s.ports := rfl
@[simp] theorem State.event_radio (s : State) (e : Event) : (s.event e).radio = s.radio := rfl
@[simp] theorem State.event_fab (s : State) (e : Event) : (s.event e).fab = s.fab := rfl
@[simp] theorem State.event_boot (s : State) (e : Event) : (s.event e).boot = s.boot := rfl
@[simp] theorem State.event_spdm (s : State) (e : Event) : (s.event e).spdm = s.spdm := rfl
@[simp] theorem State.event_pci (s : State) (e : Event) : (s.event e).pci = s.pci := rfl
@[simp] theorem State.event_pkg (s : State) (e : Event) : (s.event e).pkg = s.pkg := rfl
@[simp] theorem State.event_tests (s : State) (e : Event) : (s.event e).tests = s.tests := rfl
@[simp] theorem State.event_board (s : State) (e : Event) : (s.event e).board = s.board := rfl
@[simp] theorem State.event_out (s : State) (e : Event) : (s.event e).out = s.out := rfl
@[simp] theorem State.event_freeCount (s : State) (e : Event) : (s.event e).freeCount = s.freeCount := rfl
@[simp] theorem State.event_pending (s : State) (e : Event) : (s.event e).pending = s.pending := rfl

/-! ## `State.setLink` changes mesh only -/

@[simp] theorem State.setLink_regs (s : State) (k : Nat) (l : LinkState) : (s.setLink k l).regs = s.regs := rfl
@[simp] theorem State.setLink_time (s : State) (k : Nat) (l : LinkState) : (s.setLink k l).time = s.time := rfl
@[simp] theorem State.setLink_tiles (s : State) (k : Nat) (l : LinkState) : (s.setLink k l).tiles = s.tiles := rfl
@[simp] theorem State.setLink_pads (s : State) (k : Nat) (l : LinkState) : (s.setLink k l).pads = s.pads := rfl
@[simp] theorem State.setLink_tileMap (s : State) (k : Nat) (l : LinkState) : (s.setLink k l).tileMap = s.tileMap := rfl
@[simp] theorem State.setLink_mesh (s : State) (k : Nat) (l : LinkState) : (s.setLink k l).mesh = { s.mesh with links := tset {} s.mesh.links k l } := rfl
@[simp] theorem State.setLink_mem (s : State) (k : Nat) (l : LinkState) : (s.setLink k l).mem = s.mem := rfl
@[simp] theorem State.setLink_ten (s : State) (k : Nat) (l : LinkState) : (s.setLink k l).ten = s.ten := rfl
@[simp] theorem State.setLink_ctl (s : State) (k : Nat) (l : LinkState) : (s.setLink k l).ctl = s.ctl := rfl
@[simp] theorem State.setLink_mbx (s : State) (k : Nat) (l : LinkState) : (s.setLink k l).mbx = s.mbx := rfl
@[simp] theorem State.setLink_cores (s : State) (k : Nat) (l : LinkState) : (s.setLink k l).cores = s.cores := rfl
@[simp] theorem State.setLink_log (s : State) (k : Nat) (l : LinkState) : (s.setLink k l).log = s.log := rfl
@[simp] theorem State.setLink_ports (s : State) (k : Nat) (l : LinkState) : (s.setLink k l).ports = s.ports := rfl
@[simp] theorem State.setLink_radio (s : State) (k : Nat) (l : LinkState) : (s.setLink k l).radio = s.radio := rfl
@[simp] theorem State.setLink_fab (s : State) (k : Nat) (l : LinkState) : (s.setLink k l).fab = s.fab := rfl
@[simp] theorem State.setLink_boot (s : State) (k : Nat) (l : LinkState) : (s.setLink k l).boot = s.boot := rfl
@[simp] theorem State.setLink_spdm (s : State) (k : Nat) (l : LinkState) : (s.setLink k l).spdm = s.spdm := rfl
@[simp] theorem State.setLink_pci (s : State) (k : Nat) (l : LinkState) : (s.setLink k l).pci = s.pci := rfl
@[simp] theorem State.setLink_pkg (s : State) (k : Nat) (l : LinkState) : (s.setLink k l).pkg = s.pkg := rfl
@[simp] theorem State.setLink_tests (s : State) (k : Nat) (l : LinkState) : (s.setLink k l).tests = s.tests := rfl
@[simp] theorem State.setLink_board (s : State) (k : Nat) (l : LinkState) : (s.setLink k l).board = s.board := rfl
@[simp] theorem State.setLink_out (s : State) (k : Nat) (l : LinkState) : (s.setLink k l).out = s.out := rfl
@[simp] theorem State.setLink_freeCount (s : State) (k : Nat) (l : LinkState) : (s.setLink k l).freeCount = s.freeCount := rfl
@[simp] theorem State.setLink_pending (s : State) (k : Nat) (l : LinkState) : (s.setLink k l).pending = s.pending := rfl

/-! ## `State.flit` changes mesh only -/

@[simp] theorem State.flit_regs (s : State) (due : W64) (p : Payload) (d : Option W64) (x : Option (Fin 4 × W64)) (w : Option (LTile × CtxNo)) (b : W64) : (s.flit due p d x w b).regs = s.regs := rfl
@[simp] theorem State.flit_time (s : State) (due : W64) (p : Payload) (d : Option W64) (x : Option (Fin 4 × W64)) (w : Option (LTile × CtxNo)) (b : W64) : (s.flit due p d x w b).time = s.time := rfl
@[simp] theorem State.flit_tiles (s : State) (due : W64) (p : Payload) (d : Option W64) (x : Option (Fin 4 × W64)) (w : Option (LTile × CtxNo)) (b : W64) : (s.flit due p d x w b).tiles = s.tiles := rfl
@[simp] theorem State.flit_pads (s : State) (due : W64) (p : Payload) (d : Option W64) (x : Option (Fin 4 × W64)) (w : Option (LTile × CtxNo)) (b : W64) : (s.flit due p d x w b).pads = s.pads := rfl
@[simp] theorem State.flit_tileMap (s : State) (due : W64) (p : Payload) (d : Option W64) (x : Option (Fin 4 × W64)) (w : Option (LTile × CtxNo)) (b : W64) : (s.flit due p d x w b).tileMap = s.tileMap := rfl
@[simp] theorem State.flit_mesh (s : State) (due : W64) (p : Payload) (d : Option W64) (x : Option (Fin 4 × W64)) (w : Option (LTile × CtxNo)) (b : W64) : (s.flit due p d x w b).mesh = { s.mesh with flits := enq s.mesh.flits { id := s.mesh.nextId, due := due, deadline := d, payload := p, cross := x, sender := w, start := b }, nextId := s.mesh.nextId + 1 } := rfl
@[simp] theorem State.flit_mem (s : State) (due : W64) (p : Payload) (d : Option W64) (x : Option (Fin 4 × W64)) (w : Option (LTile × CtxNo)) (b : W64) : (s.flit due p d x w b).mem = s.mem := rfl
@[simp] theorem State.flit_ten (s : State) (due : W64) (p : Payload) (d : Option W64) (x : Option (Fin 4 × W64)) (w : Option (LTile × CtxNo)) (b : W64) : (s.flit due p d x w b).ten = s.ten := rfl
@[simp] theorem State.flit_ctl (s : State) (due : W64) (p : Payload) (d : Option W64) (x : Option (Fin 4 × W64)) (w : Option (LTile × CtxNo)) (b : W64) : (s.flit due p d x w b).ctl = s.ctl := rfl
@[simp] theorem State.flit_mbx (s : State) (due : W64) (p : Payload) (d : Option W64) (x : Option (Fin 4 × W64)) (w : Option (LTile × CtxNo)) (b : W64) : (s.flit due p d x w b).mbx = s.mbx := rfl
@[simp] theorem State.flit_cores (s : State) (due : W64) (p : Payload) (d : Option W64) (x : Option (Fin 4 × W64)) (w : Option (LTile × CtxNo)) (b : W64) : (s.flit due p d x w b).cores = s.cores := rfl
@[simp] theorem State.flit_log (s : State) (due : W64) (p : Payload) (d : Option W64) (x : Option (Fin 4 × W64)) (w : Option (LTile × CtxNo)) (b : W64) : (s.flit due p d x w b).log = s.log := rfl
@[simp] theorem State.flit_ports (s : State) (due : W64) (p : Payload) (d : Option W64) (x : Option (Fin 4 × W64)) (w : Option (LTile × CtxNo)) (b : W64) : (s.flit due p d x w b).ports = s.ports := rfl
@[simp] theorem State.flit_radio (s : State) (due : W64) (p : Payload) (d : Option W64) (x : Option (Fin 4 × W64)) (w : Option (LTile × CtxNo)) (b : W64) : (s.flit due p d x w b).radio = s.radio := rfl
@[simp] theorem State.flit_fab (s : State) (due : W64) (p : Payload) (d : Option W64) (x : Option (Fin 4 × W64)) (w : Option (LTile × CtxNo)) (b : W64) : (s.flit due p d x w b).fab = s.fab := rfl
@[simp] theorem State.flit_boot (s : State) (due : W64) (p : Payload) (d : Option W64) (x : Option (Fin 4 × W64)) (w : Option (LTile × CtxNo)) (b : W64) : (s.flit due p d x w b).boot = s.boot := rfl
@[simp] theorem State.flit_spdm (s : State) (due : W64) (p : Payload) (d : Option W64) (x : Option (Fin 4 × W64)) (w : Option (LTile × CtxNo)) (b : W64) : (s.flit due p d x w b).spdm = s.spdm := rfl
@[simp] theorem State.flit_pci (s : State) (due : W64) (p : Payload) (d : Option W64) (x : Option (Fin 4 × W64)) (w : Option (LTile × CtxNo)) (b : W64) : (s.flit due p d x w b).pci = s.pci := rfl
@[simp] theorem State.flit_pkg (s : State) (due : W64) (p : Payload) (d : Option W64) (x : Option (Fin 4 × W64)) (w : Option (LTile × CtxNo)) (b : W64) : (s.flit due p d x w b).pkg = s.pkg := rfl
@[simp] theorem State.flit_tests (s : State) (due : W64) (p : Payload) (d : Option W64) (x : Option (Fin 4 × W64)) (w : Option (LTile × CtxNo)) (b : W64) : (s.flit due p d x w b).tests = s.tests := rfl
@[simp] theorem State.flit_board (s : State) (due : W64) (p : Payload) (d : Option W64) (x : Option (Fin 4 × W64)) (w : Option (LTile × CtxNo)) (b : W64) : (s.flit due p d x w b).board = s.board := rfl
@[simp] theorem State.flit_out (s : State) (due : W64) (p : Payload) (d : Option W64) (x : Option (Fin 4 × W64)) (w : Option (LTile × CtxNo)) (b : W64) : (s.flit due p d x w b).out = s.out := rfl
@[simp] theorem State.flit_freeCount (s : State) (due : W64) (p : Payload) (d : Option W64) (x : Option (Fin 4 × W64)) (w : Option (LTile × CtxNo)) (b : W64) : (s.flit due p d x w b).freeCount = s.freeCount := rfl
@[simp] theorem State.flit_pending (s : State) (due : W64) (p : Payload) (d : Option W64) (x : Option (Fin 4 × W64)) (w : Option (LTile × CtxNo)) (b : W64) : (s.flit due p d x w b).pending = s.pending := rfl

/-! ## `State.xfer` changes mesh only -/

@[simp] theorem State.xfer_regs (s : State) (x : Xfer) : (s.xfer x).regs = s.regs := rfl
@[simp] theorem State.xfer_time (s : State) (x : Xfer) : (s.xfer x).time = s.time := rfl
@[simp] theorem State.xfer_tiles (s : State) (x : Xfer) : (s.xfer x).tiles = s.tiles := rfl
@[simp] theorem State.xfer_pads (s : State) (x : Xfer) : (s.xfer x).pads = s.pads := rfl
@[simp] theorem State.xfer_tileMap (s : State) (x : Xfer) : (s.xfer x).tileMap = s.tileMap := rfl
@[simp] theorem State.xfer_mesh (s : State) (x : Xfer) : (s.xfer x).mesh = { s.mesh with xfers := enq s.mesh.xfers { x with id := s.mesh.nextId, base := x.issued, next := x.issued + 1 }, nextId := s.mesh.nextId + 1 } := rfl
@[simp] theorem State.xfer_mem (s : State) (x : Xfer) : (s.xfer x).mem = s.mem := rfl
@[simp] theorem State.xfer_ten (s : State) (x : Xfer) : (s.xfer x).ten = s.ten := rfl
@[simp] theorem State.xfer_ctl (s : State) (x : Xfer) : (s.xfer x).ctl = s.ctl := rfl
@[simp] theorem State.xfer_mbx (s : State) (x : Xfer) : (s.xfer x).mbx = s.mbx := rfl
@[simp] theorem State.xfer_cores (s : State) (x : Xfer) : (s.xfer x).cores = s.cores := rfl
@[simp] theorem State.xfer_log (s : State) (x : Xfer) : (s.xfer x).log = s.log := rfl
@[simp] theorem State.xfer_ports (s : State) (x : Xfer) : (s.xfer x).ports = s.ports := rfl
@[simp] theorem State.xfer_radio (s : State) (x : Xfer) : (s.xfer x).radio = s.radio := rfl
@[simp] theorem State.xfer_fab (s : State) (x : Xfer) : (s.xfer x).fab = s.fab := rfl
@[simp] theorem State.xfer_boot (s : State) (x : Xfer) : (s.xfer x).boot = s.boot := rfl
@[simp] theorem State.xfer_spdm (s : State) (x : Xfer) : (s.xfer x).spdm = s.spdm := rfl
@[simp] theorem State.xfer_pci (s : State) (x : Xfer) : (s.xfer x).pci = s.pci := rfl
@[simp] theorem State.xfer_pkg (s : State) (x : Xfer) : (s.xfer x).pkg = s.pkg := rfl
@[simp] theorem State.xfer_tests (s : State) (x : Xfer) : (s.xfer x).tests = s.tests := rfl
@[simp] theorem State.xfer_board (s : State) (x : Xfer) : (s.xfer x).board = s.board := rfl
@[simp] theorem State.xfer_out (s : State) (x : Xfer) : (s.xfer x).out = s.out := rfl
@[simp] theorem State.xfer_freeCount (s : State) (x : Xfer) : (s.xfer x).freeCount = s.freeCount := rfl
@[simp] theorem State.xfer_pending (s : State) (x : Xfer) : (s.xfer x).pending = s.pending := rfl

/-! ## `State.flowUsed` changes mesh only -/

@[simp] theorem State.flowUsed_regs (s : State) (f : FlowId) : (s.flowUsed f).regs = s.regs := rfl
@[simp] theorem State.flowUsed_time (s : State) (f : FlowId) : (s.flowUsed f).time = s.time := rfl
@[simp] theorem State.flowUsed_tiles (s : State) (f : FlowId) : (s.flowUsed f).tiles = s.tiles := rfl
@[simp] theorem State.flowUsed_pads (s : State) (f : FlowId) : (s.flowUsed f).pads = s.pads := rfl
@[simp] theorem State.flowUsed_tileMap (s : State) (f : FlowId) : (s.flowUsed f).tileMap = s.tileMap := rfl
@[simp] theorem State.flowUsed_mesh (s : State) (f : FlowId) : (s.flowUsed f).mesh = { s.mesh with flowFree := (f, s.now + 1) :: s.mesh.flowFree.filter fun x => decide (x.1 ≠ f) } := rfl
@[simp] theorem State.flowUsed_mem (s : State) (f : FlowId) : (s.flowUsed f).mem = s.mem := rfl
@[simp] theorem State.flowUsed_ten (s : State) (f : FlowId) : (s.flowUsed f).ten = s.ten := rfl
@[simp] theorem State.flowUsed_ctl (s : State) (f : FlowId) : (s.flowUsed f).ctl = s.ctl := rfl
@[simp] theorem State.flowUsed_mbx (s : State) (f : FlowId) : (s.flowUsed f).mbx = s.mbx := rfl
@[simp] theorem State.flowUsed_cores (s : State) (f : FlowId) : (s.flowUsed f).cores = s.cores := rfl
@[simp] theorem State.flowUsed_log (s : State) (f : FlowId) : (s.flowUsed f).log = s.log := rfl
@[simp] theorem State.flowUsed_ports (s : State) (f : FlowId) : (s.flowUsed f).ports = s.ports := rfl
@[simp] theorem State.flowUsed_radio (s : State) (f : FlowId) : (s.flowUsed f).radio = s.radio := rfl
@[simp] theorem State.flowUsed_fab (s : State) (f : FlowId) : (s.flowUsed f).fab = s.fab := rfl
@[simp] theorem State.flowUsed_boot (s : State) (f : FlowId) : (s.flowUsed f).boot = s.boot := rfl
@[simp] theorem State.flowUsed_spdm (s : State) (f : FlowId) : (s.flowUsed f).spdm = s.spdm := rfl
@[simp] theorem State.flowUsed_pci (s : State) (f : FlowId) : (s.flowUsed f).pci = s.pci := rfl
@[simp] theorem State.flowUsed_pkg (s : State) (f : FlowId) : (s.flowUsed f).pkg = s.pkg := rfl
@[simp] theorem State.flowUsed_tests (s : State) (f : FlowId) : (s.flowUsed f).tests = s.tests := rfl
@[simp] theorem State.flowUsed_board (s : State) (f : FlowId) : (s.flowUsed f).board = s.board := rfl
@[simp] theorem State.flowUsed_out (s : State) (f : FlowId) : (s.flowUsed f).out = s.out := rfl
@[simp] theorem State.flowUsed_freeCount (s : State) (f : FlowId) : (s.flowUsed f).freeCount = s.freeCount := rfl
@[simp] theorem State.flowUsed_pending (s : State) (f : FlowId) : (s.flowUsed f).pending = s.pending := rfl

/-! ## `State.take` changes mesh only -/

@[simp] theorem State.take_regs (s : State) (n : Nat) (v : W64) : (s.take n v).regs = s.regs := rfl
@[simp] theorem State.take_time (s : State) (n : Nat) (v : W64) : (s.take n v).time = s.time := rfl
@[simp] theorem State.take_tiles (s : State) (n : Nat) (v : W64) : (s.take n v).tiles = s.tiles := rfl
@[simp] theorem State.take_pads (s : State) (n : Nat) (v : W64) : (s.take n v).pads = s.pads := rfl
@[simp] theorem State.take_tileMap (s : State) (n : Nat) (v : W64) : (s.take n v).tileMap = s.tileMap := rfl
@[simp] theorem State.take_mesh (s : State) (n : Nat) (v : W64) : (s.take n v).mesh = { s.mesh with taken := enq s.mesh.taken (n, v) } := rfl
@[simp] theorem State.take_mem (s : State) (n : Nat) (v : W64) : (s.take n v).mem = s.mem := rfl
@[simp] theorem State.take_ten (s : State) (n : Nat) (v : W64) : (s.take n v).ten = s.ten := rfl
@[simp] theorem State.take_ctl (s : State) (n : Nat) (v : W64) : (s.take n v).ctl = s.ctl := rfl
@[simp] theorem State.take_mbx (s : State) (n : Nat) (v : W64) : (s.take n v).mbx = s.mbx := rfl
@[simp] theorem State.take_cores (s : State) (n : Nat) (v : W64) : (s.take n v).cores = s.cores := rfl
@[simp] theorem State.take_log (s : State) (n : Nat) (v : W64) : (s.take n v).log = s.log := rfl
@[simp] theorem State.take_ports (s : State) (n : Nat) (v : W64) : (s.take n v).ports = s.ports := rfl
@[simp] theorem State.take_radio (s : State) (n : Nat) (v : W64) : (s.take n v).radio = s.radio := rfl
@[simp] theorem State.take_fab (s : State) (n : Nat) (v : W64) : (s.take n v).fab = s.fab := rfl
@[simp] theorem State.take_boot (s : State) (n : Nat) (v : W64) : (s.take n v).boot = s.boot := rfl
@[simp] theorem State.take_spdm (s : State) (n : Nat) (v : W64) : (s.take n v).spdm = s.spdm := rfl
@[simp] theorem State.take_pci (s : State) (n : Nat) (v : W64) : (s.take n v).pci = s.pci := rfl
@[simp] theorem State.take_pkg (s : State) (n : Nat) (v : W64) : (s.take n v).pkg = s.pkg := rfl
@[simp] theorem State.take_tests (s : State) (n : Nat) (v : W64) : (s.take n v).tests = s.tests := rfl
@[simp] theorem State.take_board (s : State) (n : Nat) (v : W64) : (s.take n v).board = s.board := rfl
@[simp] theorem State.take_out (s : State) (n : Nat) (v : W64) : (s.take n v).out = s.out := rfl
@[simp] theorem State.take_freeCount (s : State) (n : Nat) (v : W64) : (s.take n v).freeCount = s.freeCount := rfl
@[simp] theorem State.take_pending (s : State) (n : Nat) (v : W64) : (s.take n v).pending = s.pending := rfl

/-! ## A record changes log only -/

@[simp] theorem State.writeRec_regs (s : State) (r : Rec) (n : Nat) : (s.writeRec r n).regs = s.regs := rfl
@[simp] theorem State.writeRec_time (s : State) (r : Rec) (n : Nat) : (s.writeRec r n).time = s.time := rfl
@[simp] theorem State.writeRec_tiles (s : State) (r : Rec) (n : Nat) : (s.writeRec r n).tiles = s.tiles := rfl
@[simp] theorem State.writeRec_pads (s : State) (r : Rec) (n : Nat) : (s.writeRec r n).pads = s.pads := rfl
@[simp] theorem State.writeRec_tileMap (s : State) (r : Rec) (n : Nat) : (s.writeRec r n).tileMap = s.tileMap := rfl
@[simp] theorem State.writeRec_mesh (s : State) (r : Rec) (n : Nat) : (s.writeRec r n).mesh = s.mesh := rfl
@[simp] theorem State.writeRec_mem (s : State) (r : Rec) (n : Nat) : (s.writeRec r n).mem = s.mem := rfl
@[simp] theorem State.writeRec_ten (s : State) (r : Rec) (n : Nat) : (s.writeRec r n).ten = s.ten := rfl
@[simp] theorem State.writeRec_ctl (s : State) (r : Rec) (n : Nat) : (s.writeRec r n).ctl = s.ctl := rfl
@[simp] theorem State.writeRec_mbx (s : State) (r : Rec) (n : Nat) : (s.writeRec r n).mbx = s.mbx := rfl
@[simp] theorem State.writeRec_cores (s : State) (r : Rec) (n : Nat) : (s.writeRec r n).cores = s.cores := rfl
@[simp] theorem State.writeRec_ports (s : State) (r : Rec) (n : Nat) : (s.writeRec r n).ports = s.ports := rfl
@[simp] theorem State.writeRec_radio (s : State) (r : Rec) (n : Nat) : (s.writeRec r n).radio = s.radio := rfl
@[simp] theorem State.writeRec_fab (s : State) (r : Rec) (n : Nat) : (s.writeRec r n).fab = s.fab := rfl
@[simp] theorem State.writeRec_boot (s : State) (r : Rec) (n : Nat) : (s.writeRec r n).boot = s.boot := rfl
@[simp] theorem State.writeRec_spdm (s : State) (r : Rec) (n : Nat) : (s.writeRec r n).spdm = s.spdm := rfl
@[simp] theorem State.writeRec_pci (s : State) (r : Rec) (n : Nat) : (s.writeRec r n).pci = s.pci := rfl
@[simp] theorem State.writeRec_pkg (s : State) (r : Rec) (n : Nat) : (s.writeRec r n).pkg = s.pkg := rfl
@[simp] theorem State.writeRec_tests (s : State) (r : Rec) (n : Nat) : (s.writeRec r n).tests = s.tests := rfl
@[simp] theorem State.writeRec_board (s : State) (r : Rec) (n : Nat) : (s.writeRec r n).board = s.board := rfl
@[simp] theorem State.writeRec_out (s : State) (r : Rec) (n : Nat) : (s.writeRec r n).out = s.out := rfl
@[simp] theorem State.writeRec_freeCount (s : State) (r : Rec) (n : Nat) : (s.writeRec r n).freeCount = s.freeCount := rfl
@[simp] theorem State.writeRec_pending (s : State) (r : Rec) (n : Nat) : (s.writeRec r n).pending = s.pending := rfl

/-- Everything that a rate-limited record does to the state. -/
theorem State.logRec_log_only (s : State) (r : Rec) : ∃ l, s.logRec r = { s with log := l } := by
  unfold State.logRec
  split
  · exact ⟨_, rfl⟩
  · dsimp only
    split
    · split <;> exact ⟨_, rfl⟩
    · exact ⟨_, rfl⟩

@[simp] theorem State.logRec_regs (s : State) (r : Rec) : (s.logRec r).regs = s.regs := by
  obtain ⟨l, h⟩ := s.logRec_log_only r; rw [h]
@[simp] theorem State.logRec_time (s : State) (r : Rec) : (s.logRec r).time = s.time := by
  obtain ⟨l, h⟩ := s.logRec_log_only r; rw [h]
@[simp] theorem State.logRec_tiles (s : State) (r : Rec) : (s.logRec r).tiles = s.tiles := by
  obtain ⟨l, h⟩ := s.logRec_log_only r; rw [h]
@[simp] theorem State.logRec_pads (s : State) (r : Rec) : (s.logRec r).pads = s.pads := by
  obtain ⟨l, h⟩ := s.logRec_log_only r; rw [h]
@[simp] theorem State.logRec_tileMap (s : State) (r : Rec) : (s.logRec r).tileMap = s.tileMap := by
  obtain ⟨l, h⟩ := s.logRec_log_only r; rw [h]
@[simp] theorem State.logRec_mesh (s : State) (r : Rec) : (s.logRec r).mesh = s.mesh := by
  obtain ⟨l, h⟩ := s.logRec_log_only r; rw [h]
@[simp] theorem State.logRec_mem (s : State) (r : Rec) : (s.logRec r).mem = s.mem := by
  obtain ⟨l, h⟩ := s.logRec_log_only r; rw [h]
@[simp] theorem State.logRec_ten (s : State) (r : Rec) : (s.logRec r).ten = s.ten := by
  obtain ⟨l, h⟩ := s.logRec_log_only r; rw [h]
@[simp] theorem State.logRec_ctl (s : State) (r : Rec) : (s.logRec r).ctl = s.ctl := by
  obtain ⟨l, h⟩ := s.logRec_log_only r; rw [h]
@[simp] theorem State.logRec_mbx (s : State) (r : Rec) : (s.logRec r).mbx = s.mbx := by
  obtain ⟨l, h⟩ := s.logRec_log_only r; rw [h]
@[simp] theorem State.logRec_cores (s : State) (r : Rec) : (s.logRec r).cores = s.cores := by
  obtain ⟨l, h⟩ := s.logRec_log_only r; rw [h]
@[simp] theorem State.logRec_ports (s : State) (r : Rec) : (s.logRec r).ports = s.ports := by
  obtain ⟨l, h⟩ := s.logRec_log_only r; rw [h]
@[simp] theorem State.logRec_radio (s : State) (r : Rec) : (s.logRec r).radio = s.radio := by
  obtain ⟨l, h⟩ := s.logRec_log_only r; rw [h]
@[simp] theorem State.logRec_fab (s : State) (r : Rec) : (s.logRec r).fab = s.fab := by
  obtain ⟨l, h⟩ := s.logRec_log_only r; rw [h]
@[simp] theorem State.logRec_boot (s : State) (r : Rec) : (s.logRec r).boot = s.boot := by
  obtain ⟨l, h⟩ := s.logRec_log_only r; rw [h]
@[simp] theorem State.logRec_spdm (s : State) (r : Rec) : (s.logRec r).spdm = s.spdm := by
  obtain ⟨l, h⟩ := s.logRec_log_only r; rw [h]
@[simp] theorem State.logRec_pci (s : State) (r : Rec) : (s.logRec r).pci = s.pci := by
  obtain ⟨l, h⟩ := s.logRec_log_only r; rw [h]
@[simp] theorem State.logRec_pkg (s : State) (r : Rec) : (s.logRec r).pkg = s.pkg := by
  obtain ⟨l, h⟩ := s.logRec_log_only r; rw [h]
@[simp] theorem State.logRec_tests (s : State) (r : Rec) : (s.logRec r).tests = s.tests := by
  obtain ⟨l, h⟩ := s.logRec_log_only r; rw [h]
@[simp] theorem State.logRec_board (s : State) (r : Rec) : (s.logRec r).board = s.board := by
  obtain ⟨l, h⟩ := s.logRec_log_only r; rw [h]
@[simp] theorem State.logRec_out (s : State) (r : Rec) : (s.logRec r).out = s.out := by
  obtain ⟨l, h⟩ := s.logRec_log_only r; rw [h]
@[simp] theorem State.logRec_freeCount (s : State) (r : Rec) : (s.logRec r).freeCount = s.freeCount := by
  obtain ⟨l, h⟩ := s.logRec_log_only r; rw [h]
@[simp] theorem State.logRec_pending (s : State) (r : Rec) : (s.logRec r).pending = s.pending := by
  obtain ⟨l, h⟩ := s.logRec_log_only r; rw [h]

@[simp] theorem State.regRec_regs (s : State) (r : Reg) : (s.regRec r).regs = s.regs := s.logRec_regs _
@[simp] theorem State.regRec_time (s : State) (r : Reg) : (s.regRec r).time = s.time := s.logRec_time _
@[simp] theorem State.regRec_tiles (s : State) (r : Reg) : (s.regRec r).tiles = s.tiles := s.logRec_tiles _
@[simp] theorem State.regRec_pads (s : State) (r : Reg) : (s.regRec r).pads = s.pads := s.logRec_pads _
@[simp] theorem State.regRec_tileMap (s : State) (r : Reg) : (s.regRec r).tileMap = s.tileMap := s.logRec_tileMap _
@[simp] theorem State.regRec_mesh (s : State) (r : Reg) : (s.regRec r).mesh = s.mesh := s.logRec_mesh _
@[simp] theorem State.regRec_mem (s : State) (r : Reg) : (s.regRec r).mem = s.mem := s.logRec_mem _
@[simp] theorem State.regRec_ten (s : State) (r : Reg) : (s.regRec r).ten = s.ten := s.logRec_ten _
@[simp] theorem State.regRec_ctl (s : State) (r : Reg) : (s.regRec r).ctl = s.ctl := s.logRec_ctl _
@[simp] theorem State.regRec_mbx (s : State) (r : Reg) : (s.regRec r).mbx = s.mbx := s.logRec_mbx _
@[simp] theorem State.regRec_cores (s : State) (r : Reg) : (s.regRec r).cores = s.cores := s.logRec_cores _
@[simp] theorem State.regRec_ports (s : State) (r : Reg) : (s.regRec r).ports = s.ports := s.logRec_ports _
@[simp] theorem State.regRec_radio (s : State) (r : Reg) : (s.regRec r).radio = s.radio := s.logRec_radio _
@[simp] theorem State.regRec_fab (s : State) (r : Reg) : (s.regRec r).fab = s.fab := s.logRec_fab _
@[simp] theorem State.regRec_boot (s : State) (r : Reg) : (s.regRec r).boot = s.boot := s.logRec_boot _
@[simp] theorem State.regRec_spdm (s : State) (r : Reg) : (s.regRec r).spdm = s.spdm := s.logRec_spdm _
@[simp] theorem State.regRec_pci (s : State) (r : Reg) : (s.regRec r).pci = s.pci := s.logRec_pci _
@[simp] theorem State.regRec_pkg (s : State) (r : Reg) : (s.regRec r).pkg = s.pkg := s.logRec_pkg _
@[simp] theorem State.regRec_tests (s : State) (r : Reg) : (s.regRec r).tests = s.tests := s.logRec_tests _
@[simp] theorem State.regRec_board (s : State) (r : Reg) : (s.regRec r).board = s.board := s.logRec_board _
@[simp] theorem State.regRec_out (s : State) (r : Reg) : (s.regRec r).out = s.out := s.logRec_out _
@[simp] theorem State.regRec_freeCount (s : State) (r : Reg) : (s.regRec r).freeCount = s.freeCount := s.logRec_freeCount _
@[simp] theorem State.regRec_pending (s : State) (r : Reg) : (s.regRec r).pending = s.pending := s.logRec_pending _

end Sys2Proof.Machine
end

