-- ==== Sys2Proof/Laws/Fabric.lean ====
section
/-!
SUPPORT. Frames, packets and requests from outside: when this chip takes them, and everything that sending one does.
-/
namespace Sys2Proof.Machine

/-- A frame that this chip takes has its effect, and what then follows in the fabric (R365, R366). -/
theorem State.onFrame_of_takes {s : State} {port : Fin 7} {type : Nat} {f : KFrame} (h : s.takesFrame port type f = true) (g : State → State) :
    s.onFrame port type f g = (g (s.linkGot port)).pump := by
  simp only [State.takesFrame, Bool.and_eq_true, Bool.not_eq_true', decide_eq_true_eq, beq_iff_eq] at h
  obtain ⟨⟨⟨⟨⟨⟨⟨h1, h2⟩, h3⟩, h4⟩, h5⟩, h6⟩, h8⟩, h7⟩ := h
  unfold State.onFrame
  rw [if_neg (by simp [h1, h2])]
  dsimp only
  have m3 : (s.linkGot port).member f.src = true := h3
  have m4 : (s.linkGot port).member f.dst = true := h4
  rw [if_neg (by simp [m3, m4, h5, h6, h8]), if_neg (by simp [h7, State.linkGot, State.modFab, State.chip])]

/-- Everything that a frame from a Krovbem link can do: nothing, a record, a relay, or its effect with what then follows. -/
theorem State.onFrame_cases (s : State) (port : Fin 7) (type : Nat) (f : KFrame) (g : State → State) :
    s.onFrame port type f g = s ∨ (∃ r, s.onFrame port type f g = (s.linkGot port).logRec r)
    ∨ (∃ n m, s.onFrame port type f g = (s.linkGot port).handK n m) ∨ s.onFrame port type f g = (g (s.linkGot port)).pump := by
  unfold State.onFrame
  split
  · exact .inl rfl
  · dsimp only
    split
    · exact .inr (.inl ⟨_, rfl⟩)
    · split
      · exact .inr (.inr (.inl ⟨_, _, rfl⟩))
      · exact .inr (.inr (.inr rfl))

/-- A packet that the gateway takes is counted and has its effect, and what then follows in the fabric (R270, R390, R481). -/
theorem State.onPacket_of_takes {s : State} {p : LPacket} (h : s.takesPacket p = true) (g : State → State) :
    s.onPacket p g = (g (s.gwCounted p)).pump := by
  simp only [State.takesPacket, Bool.and_eq_true, Bool.not_eq_true', decide_eq_true_eq] at h
  obtain ⟨⟨⟨⟨h1, h2⟩, h3⟩, h4⟩, h5⟩ := h
  obtain ⟨l, hl, hb, hf⟩ : ∃ l, s.lane 3 0 = some l ∧ bit (s.rget ⟨.fhpStatus, l.val, 0⟩) 0 = true ∧ (s.gwFrame l.val p).1 = true := by
    cases e : s.lane 3 0 with
    | none => simp [e] at h1
    | some l => exact ⟨l, rfl, by simpa [e] using h1⟩
  unfold State.gwCounted at h4 ⊢
  unfold State.onPacket
  rw [hl] at h4 ⊢
  dsimp only at h4 ⊢
  rw [if_neg (by simp [h2, hb]), if_neg (by simp [hf]), if_neg (by simp [h3, h4, h5])]

/-- The count of a good frame of GW0 changes registers only (R270, R288). -/
theorem State.gwCounted_good {s : State} {p : LPacket} (h : s.takesPacket p = true) : ∃ r, s.gwCounted p = { s with regs := r } := by
  simp only [State.takesPacket, Bool.and_eq_true] at h
  obtain ⟨⟨⟨⟨h1, -⟩, -⟩, -⟩, -⟩ := h
  unfold State.gwCounted
  cases e : s.lane 3 0 with
  | none => exact ⟨s.regs, rfl⟩
  | some l =>
    have hf : (s.gwFrame l.val p).1 = true := by simp [e] at h1; exact h1.2
    dsimp only
    unfold State.gwFrame at hf ⊢
    dsimp only at hf ⊢
    split at hf <;> [cases hf; skip]
    split at hf <;> [cases hf; skip]
    split at hf <;> [cases hf; skip]
    split at hf <;> [cases hf; skip]
    rename_i h1 h2 h3 h4
    rw [if_neg h1, if_neg h2, if_neg h3, if_neg h4]
    exact ⟨_, rfl⟩

/-- Everything that handing a frame to a member's link does: it waits there, or there is no link for it. -/
theorem State.handK_only (s : State) (n : Fin 8) (m : KMsg) : s.handK n m = s ∨ s.handK n m = s.queueK (s.portOf n) m := by
  unfold State.handK
  by_cases h : s.peerBit n 1 = true
  · rw [if_pos h]; exact .inr rfl
  · rw [if_neg h]; exact .inl rfl

/-- An SPDM request that is open is served (R496). -/
theorem spdmAt_of_open {s : State} {tr : Transport} {phase : Nat} (h : s.spdmOpen tr phase) (f : State → State) : spdmAt phase tr f s = .next (f s) := by
  obtain ⟨h1, h2, h3⟩ := h
  rw [spdmAt, guarded, if_pos (by simp [h1, h2]), if_neg (Nat.not_lt.mpr h3)]

/-- An agent that may write a tile's register parks its unit; another leaves a record (R22, R75). -/
theorem parkReg_cases (r : Reg) (i : Nat) (t : LTile) (a : Agent) (s : State) :
    parkReg r i t a s = if mayTile a t then s.fset r i i 1 else s.regRec r := rfl

end Sys2Proof.Machine
end

