-- ==== Sys2Proof/Laws/Tables.lean ====
section
/-!
SUPPORT. Reading after writing: bit fields, sparse tables, registers, vectors, lists; and the canonical form of tables.
-/
namespace Sys2Proof.Machine

/-! ## Bit fields -/

theorem bits_lt {n : Nat} (x : BitVec n) (hi lo : Nat) : bits x hi lo < 2 ^ (hi + 1 - lo) := Nat.mod_lt _ (Nat.two_pow_pos _)

/-- Bit `i` of a field is bit `lo + i` of the word. -/
theorem testBit_bits {n : Nat} (x : BitVec n) (hi lo i : Nat) :
    (bits x hi lo).testBit i = (decide (i < hi + 1 - lo) && x.getLsbD (lo + i)) := by
  rw [bits, Nat.testBit_mod_two_pow, Nat.testBit_div_two_pow, BitVec.getLsbD, Nat.add_comm i lo]

/-- What a write of a field leaves in each bit of the word. -/
theorem getLsbD_putBits {n : Nat} (x : BitVec n) {hi lo : Nat} (v i : Nat) (h : lo ≤ hi) :
    (putBits x hi lo v).getLsbD i =
      (decide (i < n) && if lo ≤ i ∧ i ≤ hi then v.testBit (i - lo) else x.getLsbD i) := by
  obtain ⟨w, hw⟩ : ∃ w, w = hi + 1 - lo := ⟨_, rfl⟩
  have hb : bits x hi lo = x.toNat / 2 ^ lo % 2 ^ w := by rw [bits, hw]
  have e : x.toNat = 2 ^ lo * (2 ^ w * (x.toNat / 2 ^ lo / 2 ^ w) + bits x hi lo) + x.toNat % 2 ^ lo := by
    rw [hb, Nat.div_add_mod, Nat.div_add_mod]
  have e' : x.toNat - bits x hi lo * 2 ^ lo + v % 2 ^ w * 2 ^ lo
      = 2 ^ lo * (2 ^ w * (x.toNat / 2 ^ lo / 2 ^ w) + v % 2 ^ w) + x.toNat % 2 ^ lo := by
    conv_lhs => rw [e]
    rw [Nat.mul_add, Nat.mul_add, Nat.mul_comm (bits x hi lo), Nat.mul_comm (v % 2 ^ w)]
    omega
  have f := congrArg (·.testBit i) e
  rw [putBits, BitVec.getLsbD_ofNat, ← hw, e']
  simp only [Nat.testBit_two_pow_mul_add _ (Nat.mod_lt _ (Nat.two_pow_pos lo)), Nat.testBit_two_pow_mul_add _ (Nat.mod_lt _ (Nat.two_pow_pos w)),
    hb, BitVec.getLsbD] at f ⊢
  rw [f]
  by_cases h1 : i < lo
  · simp [h1, Nat.not_le.mpr h1]
  · have h2 : lo ≤ i := Nat.not_lt.mp h1
    by_cases h3 : i - lo < w
    · have h4 : i ≤ hi := by omega
      simp [h1, h2, h3, h4, Nat.testBit_mod_two_pow]
    · have h4 : ¬ i ≤ hi := by omega
      simp [h1, h3, h4]

/-- A field reads what was written to it. -/
@[simp] theorem bits_putBits {n : Nat} (x : BitVec n) {hi lo : Nat} (v : Nat) (h : lo ≤ hi) (hn : hi < n) :
    bits (putBits x hi lo v) hi lo = v % 2 ^ (hi + 1 - lo) := by
  apply Nat.eq_of_testBit_eq
  intro i
  rw [testBit_bits, getLsbD_putBits x v _ h, Nat.testBit_mod_two_pow]
  by_cases h3 : i < hi + 1 - lo
  · have h4 : lo + i < n := by omega
    have h5 : lo + i ≤ hi := by omega
    simp [h3, h4, h5]
  · simp [h3]

/-- A field that a write does not touch reads as before. -/
theorem bits_putBits_of_disjoint {n : Nat} (x : BitVec n) {hi lo a b : Nat} (v : Nat) (h : lo ≤ hi) (hn : a < n) (hd : a < lo ∨ hi < b) :
    bits (putBits x hi lo v) a b = bits x a b := by
  apply Nat.eq_of_testBit_eq
  intro i
  rw [testBit_bits, testBit_bits, getLsbD_putBits x v _ h]
  by_cases h3 : i < a + 1 - b
  · have h4 : b + i < n := by omega
    have h5 : ¬ (lo ≤ b + i ∧ b + i ≤ hi) := by omega
    rw [if_neg h5]; simp [h4]
  · simp [h3]

theorem bit_putBits {n : Nat} (x : BitVec n) {hi lo : Nat} (v i : Nat) (h : lo ≤ hi) (hn : i < n) :
    bit (putBits x hi lo v) i = if lo ≤ i ∧ i ≤ hi then v.testBit (i - lo) else bit x i := by
  rw [bit, bit, getLsbD_putBits x v i h, decide_eq_true hn, Bool.true_and]

theorem bit_putBit {n : Nat} (x : BitVec n) (j : Nat) (b : Bool) (i : Nat) (hn : i < n) :
    bit (putBit x j b) i = if i = j then b else bit x i := by
  rw [putBit, bit_putBits x _ i (Nat.le_refl j) hn]
  by_cases h : i = j
  · subst h; cases b <;> simp
  · rw [if_neg h, if_neg (by omega)]

/-! ## Sparse tables -/

@[simp] theorem tfind_tput {α : Type} (j k : Nat) (v : α) (t : Tab α) : tfind k (tput j v t) = if k = j then some v else tfind k t := by
  induction t with
  | nil => simp only [tput, tfind]; split <;> split <;> simp_all
  | cons e t ih =>
    obtain ⟨i, w⟩ := e
    simp only [tput]
    by_cases h1 : j < i
    · rw [if_pos h1, tfind]; simp only [eq_comm]
    · rw [if_neg h1]
      by_cases h2 : i = j
      · subst h2; rw [if_pos rfl, tfind, tfind]
        by_cases h3 : i = k
        · simp [h3]
        · rw [if_neg h3, if_neg h3, if_neg (Ne.symm h3)]
      · rw [if_neg h2, tfind, tfind, ih]
        by_cases h3 : i = k
        · subst h3; simp [h2]
        · rw [if_neg h3, if_neg h3]

@[simp] theorem tfind_tdel {α : Type} (j k : Nat) (t : Tab α) : tfind k (tdel j t) = if k = j then none else tfind k t := by
  induction t with
  | nil => simp [tdel, tfind]
  | cons e t ih =>
    obtain ⟨i, w⟩ := e
    simp only [tdel, tfind]
    by_cases h : i = j
    · rw [if_pos h, ih]
      by_cases h2 : k = j
      · simp [h2]
      · rw [if_neg h2, if_neg h2, if_neg (by omega)]
    · rw [if_neg h, tfind, ih]
      by_cases h2 : i = k
      · rw [if_pos h2, if_pos h2, if_neg (by omega)]
      · rw [if_neg h2, if_neg h2]

/-- Reading a table after a write. -/
@[simp] theorem tget_tset {α : Type} [DecidableEq α] (d : α) (t : Tab α) (j k : Nat) (v : α) :
    tget d (tset d t j v) k = if k = j then v else tget d t k := by
  unfold tget tset
  split
  · rename_i h; subst h; rw [tfind_tdel]; split <;> rfl
  · rw [tfind_tput]; split <;> rfl

@[simp] theorem tget_tput {α : Type} (d : α) (t : Tab α) (j k : Nat) (v : α) :
    tget d (tput j v t) k = if k = j then v else tget d t k := by
  unfold tget; rw [tfind_tput]; split <;> rfl

@[simp] theorem tget_nil {α : Type} (d : α) (k : Nat) : tget d [] k = d := rfl

/-! ## The canonical form -/

theorem twfFrom_mono {α : Type} [DecidableEq α] {d : Nat → α} {a b : Nat} {t : Tab α} (h : a ≤ b) (w : twfFrom d b t = true) : twfFrom d a t = true := by
  cases t with
  | nil => rfl
  | cons e t =>
    simp only [twfFrom, Bool.and_eq_true, decide_eq_true_eq] at w ⊢
    exact ⟨⟨h.trans w.1.1, w.1.2⟩, w.2⟩

theorem twfFrom_tput {α : Type} [DecidableEq α] {d : Nat → α} {k : Nat} {v : α} (hv : v ≠ d k) :
    ∀ {a : Nat} {t : Tab α}, a ≤ k → twfFrom d a t = true → twfFrom d a (tput k v t) = true
  | a, [], hk, _ => by simp [tput, twfFrom, hk, hv]
  | a, (j, w) :: t, hk, h => by
    simp only [twfFrom, Bool.and_eq_true, decide_eq_true_eq] at h
    simp only [tput]
    by_cases h1 : k < j
    · rw [if_pos h1]
      simp only [twfFrom, Bool.and_eq_true, decide_eq_true_eq]
      exact ⟨⟨hk, hv⟩, ⟨⟨h1, h.1.2⟩, h.2⟩⟩
    · rw [if_neg h1]
      by_cases h2 : j = k
      · subst h2
        rw [if_pos rfl]
        simp only [twfFrom, Bool.and_eq_true, decide_eq_true_eq]
        exact ⟨⟨hk, hv⟩, h.2⟩
      · rw [if_neg h2]
        simp only [twfFrom, Bool.and_eq_true, decide_eq_true_eq]
        exact ⟨h.1, twfFrom_tput hv (by omega) h.2⟩

theorem twfFrom_tdel {α : Type} [DecidableEq α] {d : Nat → α} (k : Nat) : ∀ {a : Nat} {t : Tab α}, twfFrom d a t = true → twfFrom d a (tdel k t) = true
  | _, [], _ => rfl
  | a, (j, w) :: t, h => by
    simp only [twfFrom, Bool.and_eq_true, decide_eq_true_eq] at h
    simp only [tdel]
    split
    · exact twfFrom_mono (by omega) (twfFrom_tdel k h.2)
    · simp only [twfFrom, Bool.and_eq_true, decide_eq_true_eq]
      exact ⟨h.1, twfFrom_tdel k h.2⟩

/-- Changing entries in place and keeping those that pass, none of which equals its default. -/
theorem twfFrom_filterMap {α : Type} [DecidableEq α] {d : Nat → α} (f : Nat × α → Option (Nat × α))
    (hf : ∀ e x, f e = some x → e.2 ≠ d e.1 → x.1 = e.1 ∧ x.2 ≠ d x.1) :
    ∀ {a : Nat} {t : Tab α}, twfFrom d a t = true → twfFrom d a (t.filterMap f) = true
  | _, [], _ => rfl
  | a, (j, w) :: t, h => by
    simp only [twfFrom, Bool.and_eq_true, decide_eq_true_eq] at h
    rw [List.filterMap_cons]
    split
    · exact twfFrom_mono (by omega) (twfFrom_filterMap f hf h.2)
    · rename_i x hx
      obtain ⟨h1, h2⟩ := hf _ _ hx h.1.2
      obtain ⟨k, v⟩ := x
      obtain rfl : k = j := h1
      simp only [twfFrom, Bool.and_eq_true, decide_eq_true_eq]
      exact ⟨⟨h.1.1, h2⟩, twfFrom_filterMap f hf h.2⟩

/-- A write keeps the canonical form. -/
theorem twf_tset {α : Type} [DecidableEq α] {d : α} {t : Tab α} (k : Nat) (v : α) (h : twf (fun _ => d) t = true) :
    twf (fun _ => d) (tset d t k v) = true := by
  unfold tset
  split
  · exact twfFrom_tdel k h
  · rename_i hv; exact twfFrom_tput hv (Nat.zero_le k) h

theorem twf_filter {α : Type} [DecidableEq α] {d : Nat → α} {t : Tab α} (p : Nat × α → Bool) (h : twf d t = true) : twf d (t.filter p) = true := by
  rw [← List.filterMap_eq_filter]
  refine twfFrom_filterMap _ ?_ h
  intro e x hx he
  obtain rfl : e = x := by simpa [Option.guard] using (Option.guard_eq_some_iff.mp hx).1
  exact ⟨rfl, he⟩

/-- Entries changed under their keys, and those that have come to equal the default removed. -/
theorem twf_map_filter {α : Type} [DecidableEq α] {d : α} {t : Tab α} (f : Nat × α → Nat × α) (hf : ∀ e, (f e).1 = e.1)
    (h : twf (fun _ => d) t = true) : twf (fun _ => d) ((t.map f).filter fun e => decide (e.2 ≠ d)) = true := by
  rw [← List.filterMap_eq_filter, List.filterMap_map]
  refine twfFrom_filterMap _ ?_ h
  intro e x hx _
  obtain ⟨h1, h2⟩ := Option.guard_eq_some_iff.mp hx
  subst h1
  exact ⟨hf e, by simpa using h2⟩

/-- Entries changed under their keys, none to the default. -/
theorem twf_map {α : Type} [DecidableEq α] {d : α} {t : Tab α} (f : Nat × α → Nat × α) (hf : ∀ e, e.2 ≠ d → (f e).1 = e.1 ∧ (f e).2 ≠ d)
    (h : twf (fun _ => d) t = true) : twf (fun _ => d) (t.map f) = true := by
  rw [← List.filterMap_eq_map]
  refine twfFrom_filterMap _ ?_ h
  intro e x hx he
  obtain rfl : f e = x := by simpa using hx
  exact hf e he

theorem tfind_eq_none_of_twfFrom {α : Type} [DecidableEq α] {d : Nat → α} : ∀ {a : Nat} {t : Tab α} {k : Nat}, twfFrom d a t = true → k < a → tfind k t = none
  | _, [], _, _, _ => rfl
  | a, (j, w) :: t, k, h, hk => by
    simp only [twfFrom, Bool.and_eq_true, decide_eq_true_eq] at h
    rw [tfind, if_neg (by omega)]
    exact tfind_eq_none_of_twfFrom h.2 (by omega)

/-- No entry equals the default. -/
theorem ne_of_tfind {α : Type} [DecidableEq α] {d : Nat → α} : ∀ {a : Nat} {t : Tab α} {k : Nat} {v : α}, twfFrom d a t = true → tfind k t = some v → v ≠ d k
  | _, [], _, _, _, hk => by simp [tfind] at hk
  | a, (j, w) :: t, k, v, h, hk => by
    simp only [twfFrom, Bool.and_eq_true, decide_eq_true_eq] at h
    rw [tfind] at hk
    split at hk
    · rename_i e; subst e; obtain rfl : w = v := by simpa using hk
      exact h.1.2
    · exact ne_of_tfind h.2 hk

/-- Tables in canonical form that read alike are equal. -/
theorem tab_ext {α : Type} [DecidableEq α] {d : α} : ∀ {a : Nat} {t u : Tab α}, twfFrom (fun _ => d) a t = true → twfFrom (fun _ => d) a u = true →
    (∀ k, tget d t k = tget d u k) → t = u
  | _, [], [], _, _, _ => rfl
  | _, [], (j, w) :: u, _, hu, h => by
    simp only [twfFrom, Bool.and_eq_true, decide_eq_true_eq] at hu
    have := h j
    simp [tget, tfind] at this
    exact absurd this.symm hu.1.2
  | _, (j, w) :: t, [], ht, _, h => by
    simp only [twfFrom, Bool.and_eq_true, decide_eq_true_eq] at ht
    have := h j
    simp [tget, tfind] at this
    exact absurd this ht.1.2
  | a, (j, w) :: t, (i, x) :: u, ht, hu, h => by
    simp only [twfFrom, Bool.and_eq_true, decide_eq_true_eq] at ht hu
    rcases Nat.lt_trichotomy j i with hl | he | hl
    · have e := h j
      simp only [tget, tfind, if_true, if_neg (Nat.ne_of_gt hl), tfind_eq_none_of_twfFrom hu.2 (by omega : j < i + 1), Option.getD_some, Option.getD_none] at e
      exact absurd e ht.1.2
    · subst he
      have e := h j
      simp only [tget, tfind, if_true, Option.getD_some] at e
      subst e
      congr 1
      refine tab_ext ht.2 hu.2 fun k => ?_
      by_cases hk : j = k
      · subst hk
        simp [tget, tfind_eq_none_of_twfFrom ht.2 (Nat.lt_succ_self j), tfind_eq_none_of_twfFrom hu.2 (Nat.lt_succ_self j)]
      · simpa only [tget, tfind, if_neg hk] using h k
    · have e := h i
      simp only [tget, tfind, if_true, if_neg (Nat.ne_of_gt hl), tfind_eq_none_of_twfFrom ht.2 (by omega : i < j + 1), Option.getD_some, Option.getD_none] at e
      exact absurd e.symm hu.1.2

/-! ## Registers -/

theorem rfind_rput (r q : Reg) (v : W64) (l : List (Reg × W64)) : rfind q (rput r v l) = if q = r then some v else rfind q l := by
  induction l with
  | nil => simp only [rput, rfind, eq_comm]
  | cons e l ih =>
    obtain ⟨p, w⟩ := e
    simp only [rput]
    by_cases h : p = r
    · subst h
      rw [if_pos rfl, rfind, rfind]
      by_cases h2 : p = q
      · simp [h2]
      · rw [if_neg h2, if_neg h2, if_neg (Ne.symm h2)]
    · rw [if_neg h]
      by_cases h1 : r.addr < p.addr
      · rw [if_pos h1, rfind]; simp only [eq_comm]
      · rw [if_neg h1, rfind, rfind, ih]
        by_cases h2 : p = q
        · subst h2; simp [h]
        · rw [if_neg h2, if_neg h2]

theorem rfind_rdel (r q : Reg) (l : List (Reg × W64)) : rfind q (rdel r l) = if q = r then none else rfind q l := by
  induction l with
  | nil => simp [rdel, rfind]
  | cons e l ih =>
    obtain ⟨p, w⟩ := e
    simp only [rdel, rfind]
    by_cases h : p = r
    · rw [if_pos h, ih]
      by_cases h2 : q = r
      · simp [h2]
      · rw [if_neg h2, if_neg h2, if_neg (fun e => h2 (e.symm.trans h))]
    · rw [if_neg h, rfind, ih]
      by_cases h2 : p = q
      · rw [if_pos h2, if_pos h2, if_neg (fun e => h (h2.trans e))]
      · rw [if_neg h2, if_neg h2]

/-- Reading a register after a write of one. -/
@[simp] theorem State.rget_rset (s : State) (r q : Reg) (v : W64) : (s.rset r v).rget q = if q = r then v else s.rget q := by
  unfold State.rget State.rset
  by_cases h : v = r.reset
  · simp only [h, if_true, rfind_rdel]
    by_cases h2 : q = r
    · subst h2; simp
    · simp [h2]
  · simp only [h, if_false, rfind_rput]
    by_cases h2 : q = r
    · simp [h2]
    · simp [h2]

theorem State.rget_fset (s : State) (r q : Reg) (hi lo v : Nat) :
    (s.fset r hi lo v).rget q = if q = r then putBits (s.rget r) hi lo v else s.rget q := s.rget_rset r q _

theorem State.rget_finc (s : State) (r q : Reg) (hi lo k : Nat) :
    (s.finc r hi lo k).rget q = if q = r then satAdd (s.rget r) hi lo k else s.rget q := s.rget_rset r q _

/-- Reading a field after a write of it. -/
theorem State.fget_fset (s : State) (r : Reg) {hi lo : Nat} (v : Nat) (h : lo ≤ hi) (hn : hi < 64) :
    (s.fset r hi lo v).fget r hi lo = v % 2 ^ (hi + 1 - lo) := by
  rw [State.fget, State.rget_fset, if_pos rfl, bits_putBits _ _ h hn]

/-- A counter field after an increase. -/
theorem State.fget_finc (s : State) (r : Reg) {hi lo : Nat} (k : Nat) (h : lo ≤ hi) (hn : hi < 64) :
    (s.finc r hi lo k).fget r hi lo = Nat.min (2 ^ (hi + 1 - lo) - 1) (s.fget r hi lo + k) := by
  rw [State.fget, State.rget_finc, if_pos rfl, satAdd, bits_putBits _ _ h hn]
  refine Nat.mod_eq_of_lt (Nat.lt_of_le_of_lt (Nat.min_le_left _ _) ?_)
  have := Nat.two_pow_pos (hi + 1 - lo)
  omega

/-- Registers that read alike: any state with the same list. -/
theorem State.rget_congr {s u : State} (h : u.regs = s.regs) (r : Reg) : u.rget r = s.rget r := by rw [State.rget, State.rget, h]

/-! ## Vectors and lists -/

@[simp] theorem vmod_get {α : Type} {n : Nat} (v : Vector α n) (i j : Fin n) (f : α → α) :
    (vmod v i f).get j = if j = i then f (v.get i) else v.get j := by
  unfold vmod
  simp only [Vector.get_eq_getElem, Vector.getElem_set]
  by_cases h : j = i
  · simp [h]
  · rw [if_neg h, if_neg (fun e => h (Fin.ext e.symm))]

theorem takeFirst_spec {α : Type} {p : α → Bool} : ∀ {l : List α} {x : α} {r : List α}, takeFirst p l = some (x, r) →
    ∃ a b, l = a ++ x :: b ∧ r = a ++ b ∧ p x = true ∧ ∀ y ∈ a, p y = false
  | [], _, _, h => by simp [takeFirst] at h
  | y :: l, x, r, h => by
    rw [takeFirst] at h
    split at h
    · rename_i hp
      simp only [Option.some.injEq, Prod.mk.injEq] at h
      obtain ⟨rfl, rfl⟩ := h
      exact ⟨[], l, rfl, rfl, hp, by simp⟩
    · rename_i hp
      simp only [Option.map_eq_some_iff, Prod.mk.injEq] at h
      obtain ⟨⟨z, m⟩, h1, rfl, rfl⟩ := h
      obtain ⟨a, b, rfl, rfl, hz, ha⟩ := takeFirst_spec h1
      exact ⟨y :: a, b, rfl, rfl, hz, by simpa [hp] using ha⟩

theorem takeFirst_of_split {α : Type} {p : α → Bool} {x : α} {b : List α} (hx : p x = true) :
    ∀ {a : List α}, (∀ y ∈ a, p y = false) → takeFirst p (a ++ x :: b) = some (x, a ++ b)
  | [], _ => by simp [takeFirst, hx]
  | y :: a, h => by
    have hy : p y = false := h y (by simp)
    rw [List.cons_append, takeFirst, if_neg (by simp [hy]), takeFirst_of_split hx fun z hz => h z (by simp [hz])]
    rfl

/-- A command that is guarded ends in a next state: what it does where the condition holds, else nothing. -/
theorem guarded_eq (c : Bool) (f : State → State) (s : State) : guarded c f s = .next (if c then f s else s) := rfl

end Sys2Proof.Machine
end

