-- ==== Sys2Proof/Laws/Issue.lean ====
section
/-!
SUPPORT. The issue of operations: the sequencer's (R201, R206, R209) and the Signal Engine's (R112-R116, R140).
-/
namespace Sys2Proof.Machine

/-! ## Contexts -/

/-- Reading a context after a write of one. -/
theorem State.ctx_setCtx (s : State) (t u : LTile) (c d : CtxNo) (k : Option TaskCtx) :
    (s.setCtx t c k).ctx u d = if u = t ∧ d = c then k else s.ctx u d := by
  unfold State.ctx
  rw [State.setCtx_tiles, vmod_get]
  by_cases h : u = t
  · subst h
    simp only [if_true, true_and]
    show ((s.tiles.get u).ctx.set c k).get d = _
    simp only [Vector.get_eq_getElem, Vector.getElem_set]
    by_cases h2 : d = c
    · simp [h2]
    · rw [if_neg h2, if_neg fun e => h2 (Fin.ext e.symm)]
  · simp [h]

/-- A change of a tile that leaves its contexts. -/
theorem State.ctx_modTile (s : State) (t u : LTile) (d : CtxNo) (f : Tile → Tile) (h : ∀ x, (f x).ctx = x.ctx) : (s.modTile t f).ctx u d = s.ctx u d := by
  unfold State.ctx
  rw [State.modTile_tiles, vmod_get]
  split
  · rename_i e; rw [h, e]
  · rfl

/-- The contexts are the tiles' part of a state. -/
theorem State.ctx_congr {s v : State} (h : v.tiles = s.tiles) (t : LTile) (c : CtxNo) : v.ctx t c = s.ctx t c := by unfold State.ctx; rw [h]

/-! ## The sequencer -/

/-- The task of a context that has issued. -/
theorem State.ctx_advance (s : State) (t : LTile) (c : CtxNo) (k : TaskCtx) (le : W64) :
    (s.advance t c k le).ctx t c
      = some { k with pc := k.pc + 1, last := s.now, timer := 0, opHeld := false, lastEffect := if k.lastEffect < le then le else k.lastEffect } := by
  unfold State.advance
  dsimp only
  rw [State.ctx_modTile, State.ctx_setCtx, if_pos ⟨rfl, rfl⟩]
  exact fun _ => rfl

/-- The issue of an operation changes the tiles only. -/
theorem State.advance_tiles_only (s : State) (t : LTile) (c : CtxNo) (k : TaskCtx) (le : W64) : ∃ x, s.advance t c k le = { s with tiles := x } := ⟨_, rfl⟩

/-- An operation that comes to issue has its effect, after its task has gone on (R201, R206, R209). -/
theorem seqIssue_of_issues {s : State} {t : LTile} {c : CtxNo} {k : TaskCtx} {i : Image} {w : W64} (h : s.issues t c k i w)
    (mine : TaskCtx → W64 → Bool) (hm : mine k w = true) (eff : Image → TaskCtx → W64 → State → State) :
    seqIssue mine eff t c s = eff i k w (s.advance t c k ((s.lastEffectOf t i k w).getD s.now)) := by
  obtain ⟨h1, h2, h3, h5, h6, h7, h8, h9, h4, h10⟩ := h
  unfold seqIssue
  simp only [h1, h2, h3, h4, h5, h6, h7, h8, h9, hm, Bool.not_true, Bool.false_eq_true, or_self, if_false]
  rw [if_neg]
  intro e
  rw [Bool.and_eq_true, Bool.not_eq_true'] at e
  rw [h10 e.1] at e
  exact absurd e.2 (by decide)

/-- Everything that the issue of an operation can do: nothing, a hold, one of the four refusals, or the effect. -/
theorem seqIssue_cases (mine : TaskCtx → W64 → Bool) (eff : Image → TaskCtx → W64 → State → State) (t : LTile) (c : CtxNo) (s : State) :
    let used (s : State) : State := s.modTile t fun x => { x with issued := true }
    seqIssue mine eff t c s = s
    ∨ (∃ k, s.ctx t c = some k ∧ seqIssue mine eff t c s = s.holdOp t c k)
    ∨ seqIssue mine eff t c s = used (s.seqFault t c 1) ∨ seqIssue mine eff t c s = used (s.seqFault t c 3)
    ∨ (∃ k : TaskCtx, seqIssue mine eff t c s = used (if k.radio then s.failTask t c 3 else s.dropTask t c 10))
    ∨ seqIssue mine eff t c s = used (s.refuse t c)
    ∨ ∃ k i w, s.issues t c k i w ∧ mine k w = true ∧ seqIssue mine eff t c s = eff i k w (s.advance t c k ((s.lastEffectOf t i k w).getD s.now)) := by
  intro used
  unfold seqIssue
  split
  · exact .inl rfl
  · rename_i k hk
    split
    · rename_i i w hi hw
      split
      · exact .inl rfl
      · rename_i h1
        simp only [not_or, Bool.not_eq_true', Bool.not_eq_false] at h1
        split
        · exact .inr (.inl ⟨k, hk, rfl⟩)
        · rename_i h2
          simp only [not_or, Bool.not_eq_true, Bool.not_eq_true', Bool.not_eq_false] at h2
          dsimp only
          split
          · exact .inr (.inr (.inl rfl))
          · rename_i h4
            split
            · exact .inr (.inr (.inr (.inl rfl)))
            · rename_i h5
              split
              · exact .inr (.inr (.inr (.inr (.inl ⟨k, rfl⟩))))
              · rename_i h7
                split
                · exact .inr (.inr (.inr (.inr (.inr (.inl rfl)))))
                · rename_i h6
                  refine .inr (.inr (.inr (.inr (.inr (.inr ⟨k, i, w, ⟨hk, hi, hw, h1.1, h2.1, h2.2,
                    by simpa using h4, by simpa using h5, by simpa using h7, fun hr => ?_⟩, h1.2, rfl⟩)))))
                  simpa [hr] using h6
    · exact .inl rfl

/-! ## The Signal Engine -/

/-- The engine's instruction that comes to issue does so (R112, R113, R140). -/
theorem engIssue_of_head {s : State} {t : LTile} {b : SgeBlock} {started : Bool} {idx : Nat} {w : W64} {inRep : Bool} {rest : List (Nat × W64 × Bool)}
    {k : TaskCtx} (hh : (s.eng t).head = some (b, started)) (ht : b.todo = (idx, w, inRep) :: rest) (hk : s.ctx t b.ctx = some k)
    (hn : s.now = later b.earliest (s.eng t).next) (hb : s.engBlocked t b started = false)
    (hrow : (opRow (opOf w)).isSome = true) (hok : wordOk w = true) (hrep : ¬ (opOf w = 4 ∧ inRep = true))
    (mine : W64 → Bool) (hm : mine w = true) (p : Bool) : engIssue mine t p s = engIssue1 t p b idx w rest k s := by
  obtain ⟨r, hr⟩ := Option.isSome_iff_exists.mp hrow
  unfold engIssue
  simp only [hh, ht, hk, hm, hn, hb, hr, hok, Bool.not_true, Bool.false_eq_true, or_self, ne_eq, not_true_eq_false, false_or, if_false]
  rw [if_neg hrep]

/-- Everything that the issue of an engine instruction can do: nothing, a fault of KIND 4, or the issue (R112, R113, R140). -/
theorem engIssue_cases (mine : W64 → Bool) (t : LTile) (p : Bool) (s : State) :
    engIssue mine t p s = s ∨ (∃ c idx w, engIssue mine t p s = engFault t c 4 idx w s)
    ∨ ∃ b idx w rest k, s.ctx t b.ctx = some k ∧ mine w = true ∧ engIssue mine t p s = engIssue1 t p b idx w rest k s := by
  unfold engIssue
  dsimp only
  split
  · exact .inl rfl
  · split
    · rename_i hk
      split
      · exact .inl rfl
      · rename_i h
        simp only [not_or, Bool.not_eq_true', Bool.not_eq_false] at h
        split
        · exact .inr (.inl ⟨_, _, _, rfl⟩)
        · split
          · exact .inr (.inl ⟨_, _, _, rfl⟩)
          · exact .inr (.inr ⟨_, _, _, _, _, hk, h.1, rfl⟩)
    · exact .inl rfl

/-! ## What is free in a cycle -/

/-- A command whose event may happen. -/
theorem guarded_true {c : Bool} (h : c = true) (f : State → State) (s : State) : guarded c f s = .next (f s) := by rw [guarded, if_pos h]

/-- A command whose event cannot happen. -/
theorem guarded_false {c : Bool} (h : c = false) (f : State → State) (s : State) : guarded c f s = .next s := by rw [guarded, if_neg (by simp [h])]

end Sys2Proof.Machine
end

