-- ==== Sys2Proof/Laws/Memory.lean ====
section
/-!
SUPPORT. The external memory and the pads: read after write, what each shared operation touches, and that every
operation keeps the canonical form.
-/
namespace Sys2Proof.Machine

/-! ## Lanes -/

theorem lane_putLane {n : Nat} (x : BitVec n) {w i : Nat} (v : BitVec w) (hw : 0 < w) (h : w * i + w ≤ n) : lane (putLane x w i v) w i = v := by
  apply BitVec.eq_of_getLsbD_eq
  intro j hj
  rw [lane, putLane, if_neg (by omega), BitVec.getLsbD_extractLsb', getLsbD_putBits _ _ _ (by omega), if_pos (by omega)]
  have h1 : w * i + j < n := by omega
  have h2 : w * i + j - w * i = j := by omega
  simp [h1, hj, h2, BitVec.getLsbD]

theorem lane_putLane_of_ne {n : Nat} (x : BitVec n) {w i k : Nat} (v : BitVec w) (hw : 0 < w) (h : w * k + w ≤ n) (hk : k ≠ i) :
    lane (putLane x w i v) w k = lane x w k := by
  apply BitVec.eq_of_getLsbD_eq
  intro j hj
  have hd : w * k + j < w * i ∨ w * i + w ≤ w * k + j := by
    rcases Nat.lt_or_gt_of_ne hk with hl | hl
    · left; have := Nat.mul_le_mul_left w (Nat.succ_le_of_lt hl); rw [Nat.mul_succ] at this; omega
    · right; have := Nat.mul_le_mul_left w (Nat.succ_le_of_lt hl); rw [Nat.mul_succ] at this; omega
  rw [lane, lane, putLane, if_neg (by omega), BitVec.getLsbD_extractLsb', BitVec.getLsbD_extractLsb', getLsbD_putBits _ _ _ (by omega), if_neg (by omega)]
  have h1 : w * k + j < n := by omega
  simp [h1]

/-! ## One memory -/

/-- A table under conditional writes keeps its canonical form. -/
theorem twf_foldl_tset {α : Type} [DecidableEq α] {d : α} (c : Nat → Bool) (k : Nat → Nat) (v : Nat → α) (l : List Nat) :
    ∀ {t : Tab α}, twf (fun _ => d) t = true → twf (fun _ => d) (l.foldl (fun t i => if c i then tset d t (k i) (v i) else t) t) = true := by
  induction l with
  | nil => exact fun h => h
  | cons i l ih => intro t h; refine ih ?_; dsimp only; split; exacts [twf_tset _ _ h, h]

theorem Mem.wf_iff (m : Mem) : m.wf = true ↔ twf (fun _ => (0 : Row)) m.lines = true ∧ twf (fun _ => (0 : BitVec 16)) m.checks = true := by
  rw [Mem.wf, Bool.and_eq_true]

/-- The canonical form is about lines and check pairs only. -/
theorem Mem.wf_congr {m n : Mem} (hl : n.lines = m.lines) (hc : n.checks = m.checks) : n.wf = m.wf := by rw [Mem.wf, Mem.wf, hl, hc]

@[simp] theorem Mem.settle_lines (m : Mem) (k : Nat) (e : ChkEntry) : (m.settle k e).lines = m.lines := rfl

theorem Mem.settle_wf {m : Mem} (h : m.wf = true) (k : Nat) (e : ChkEntry) : (m.settle k e).wf = true := by
  rw [Mem.wf_iff] at h ⊢
  exact ⟨h.1, twf_foldl_tset (fun i => e.valid.getLsbD i) (fun i => chkFirst k + 160 * i) (fun i => lane e.pairs 16 i) _ h.2⟩

@[simp] theorem Mem.makeRoom_lines (m : Mem) (l : Nat) (r : Bool) : (m.makeRoom l r).lines = m.lines := by
  unfold Mem.makeRoom; dsimp only; split
  · rfl
  · split
    · rfl
    · split <;> rfl

theorem Mem.makeRoom_wf {m : Mem} (h : m.wf = true) (l : Nat) (r : Bool) : (m.makeRoom l r).wf = true := by
  unfold Mem.makeRoom; dsimp only; split
  · exact h
  · split
    · exact h
    · split
      · exact Mem.settle_wf h _ _
      · exact h

@[simp] theorem Mem.fetchCheck_lines (m : Mem) (l : Nat) : (m.fetchCheck l).lines = m.lines := m.makeRoom_lines _ _
theorem Mem.fetchCheck_wf {m : Mem} (h : m.wf = true) (l : Nat) : (m.fetchCheck l).wf = true := Mem.makeRoom_wf h _ _

@[simp] theorem Mem.put_lines (m : Mem) (l : Nat) (d : Row) (p : Bool) (v : W64) (r : Bool) : (m.put l d p v r).lines = tset 0 m.lines l d := by
  unfold Mem.put; simp only [Mem.makeRoom_lines]

/-- The data of a line after a write of one (R233). -/
theorem Mem.get_put (m : Mem) (l k : Nat) (d : Row) (p : Bool) (v : W64) (r : Bool) :
    tget 0 (m.put l d p v r).lines k = if k = l then d else tget 0 m.lines k := by
  rw [Mem.put_lines, tget_tset]

/-- The check pair of a line that was written stands in the check cache (R233, R235). -/
theorem Mem.pair_put (m : Mem) (l : Nat) (d : Row) (p : Bool) (v : W64) (r : Bool) :
    (m.put l d p v r).pair l = (if p then rsPair d ^^^ 0x0101#16 else rsPair d, true) := by
  have hi : l / 160 % 32 < 32 := Nat.mod_lt _ (by decide)
  unfold Mem.pair Mem.put
  simp only [tfind_tput, if_true]
  rw [lane_putLane _ _ (by decide) (by omega)]
  have hb : (putBit ((tfind (chkKey l) (m.makeRoom l r).cache).getD { dirty := false, radio := r }).valid (l / 160 % 32) true).getLsbD (l / 160 % 32) = true := by
    have := bit_putBit ((tfind (chkKey l) (m.makeRoom l r).cache).getD { dirty := false, radio := r }).valid (l / 160 % 32) true (l / 160 % 32) hi
    simpa only [bit, if_true] using this
  rw [if_pos hb]

theorem Mem.put_wf {m : Mem} (h : m.wf = true) (l : Nat) (d : Row) (p : Bool) (v : W64) (r : Bool) : (m.put l d p v r).wf = true := by
  have k := Mem.makeRoom_wf h l r
  rw [Mem.wf_iff] at k ⊢
  exact ⟨twf_tset _ _ k.1, k.2⟩

theorem Mem.zeroed_wf {m : Mem} (h : m.wf = true) (ws : List (Nat × Nat)) (a b : Nat) : (m.zeroed ws a b).wf = true := by
  rw [Mem.wf_iff] at h ⊢
  exact ⟨twf_filter _ h.1, twf_filter _ h.2⟩

/-! ## The state's memory -/

/-- Only registers, the log and the memory differ; the stored lines do not, and the memory's canonical form is kept. -/
def State.Noted (s u : State) : Prop :=
  ∃ r m l, u = { s with regs := r, mem := m, log := l } ∧ m.lines = s.mem.lines ∧ (s.mem.wf = true → m.wf = true)

theorem State.Noted.refl (s : State) : s.Noted s := ⟨s.regs, s.mem, s.log, rfl, rfl, id⟩

theorem State.Noted.trans {s u v : State} (h : s.Noted u) (k : u.Noted v) : s.Noted v := by
  obtain ⟨r, m, l, rfl, h1, h2⟩ := h
  obtain ⟨r', m', l', rfl, h3, h4⟩ := k
  exact ⟨r', m', l', rfl, h3.trans h1, h4 ∘ h2⟩

theorem State.Noted.rset {s u : State} (h : s.Noted u) (r : Reg) (v : W64) : s.Noted (u.rset r v) := h.trans ⟨_, u.mem, u.log, rfl, rfl, id⟩
theorem State.Noted.fset {s u : State} (h : s.Noted u) (r : Reg) (hi lo v : Nat) : s.Noted (u.fset r hi lo v) := h.rset r _
theorem State.Noted.finc {s u : State} (h : s.Noted u) (r : Reg) (hi lo k : Nat) : s.Noted (u.finc r hi lo k) := h.rset r _
theorem State.Noted.logRec {s u : State} (h : s.Noted u) (r : Rec) : s.Noted (u.logRec r) := by
  obtain ⟨l, e⟩ := u.logRec_log_only r
  exact h.trans ⟨u.regs, u.mem, l, e, rfl, id⟩
theorem State.Noted.modChan {s u : State} (h : s.Noted u) (k : Nat) (f : Channel → Channel) : s.Noted (u.modChan k f) :=
  h.trans ⟨u.regs, _, u.log, rfl, rfl, id⟩
theorem State.Noted.fetchCheck {s u : State} (h : s.Noted u) (l : Nat) : s.Noted (u.modMem (·.fetchCheck l)) :=
  h.trans ⟨u.regs, _, u.log, rfl, u.mem.fetchCheck_lines l, fun w => Mem.fetchCheck_wf w l⟩
theorem State.Noted.ite {s u v : State} {c : Prop} [Decidable c] (h : s.Noted u) (k : s.Noted v) : s.Noted (if c then u else v) := by
  split <;> assumption

theorem State.Noted.degrade {s u : State} (h : s.Noted u) (ch r row : Nat) : s.Noted (u.degrade ch r row) := by
  unfold State.degrade
  exact (h.fset _ _ _ _).logRec _

theorem State.Noted.startRepair {s u : State} (h : s.Noted u) (ch : Nat) : s.Noted (u.startRepair ch) := by
  unfold State.startRepair
  dsimp only
  split
  · exact (h.modChan _ _).ite ((h.modChan _ _).degrade _ _ _)
  · exact h

theorem State.Noted.failRow {s u : State} (h : s.Noted u) (ch row : Nat) : s.Noted (u.failRow ch row) := by
  unfold State.failRow
  exact h.ite ((h.modChan _ _).startRepair _)

theorem State.Noted.noteUc {s u : State} (h : s.Noted u) (line req : Nat) : s.Noted (u.noteUc line req) := by
  unfold State.noteUc
  exact State.Noted.ite (State.Noted.failRow (State.Noted.ite ((((h.finc _ _ _ _).logRec _).modChan _ _).degrade _ _ _)
    (((h.finc _ _ _ _).logRec _).modChan _ _)) _ _) (State.Noted.ite ((((h.finc _ _ _ _).logRec _).modChan _ _).degrade _ _ _)
    (((h.finc _ _ _ _).logRec _).modChan _ _))

theorem State.Noted.noteCe {s u : State} (h : s.Noted u) (line : Nat) : s.Noted (u.noteCe line) := by
  unfold State.noteCe
  exact State.Noted.ite (((h.finc _ _ _ _).modChan _ _).failRow _ _) ((h.finc _ _ _ _).modChan _ _)

/-- A line read changes no stored line (R234, R235). -/
theorem State.Noted.readLine {s u : State} (h : s.Noted u) (line req : Nat) : s.Noted (u.readLine line req).2 := by
  unfold State.readLine
  dsimp only
  have k := State.Noted.ite (c := (u.mem.pair line).2 = true) (h.finc (creg .memChk) 31 0 1) ((h.finc (creg .memChk) 63 32 1).fetchCheck line)
  split
  · exact k
  · exact k.noteCe _
  · exact k.noteUc _ _

theorem State.Noted.readLines (req n : Nat) : ∀ {s u : State} (_ : s.Noted u) (line : Nat), s.Noted (u.readLines req line n).2 := by
  induction n with
  | zero => intro s u h line; exact h
  | succ n ih => intro s u h line; exact ih (h.readLine line req) _

/-- Only registers, the log and the memory differ, and the memory's canonical form is kept. -/
def State.Wrote (s u : State) : Prop := ∃ r m l, u = { s with regs := r, mem := m, log := l } ∧ (s.mem.wf = true → m.wf = true)

theorem State.Wrote.refl (s : State) : s.Wrote s := ⟨s.regs, s.mem, s.log, rfl, id⟩

theorem State.Wrote.trans {s u v : State} (h : s.Wrote u) (k : u.Wrote v) : s.Wrote v := by
  obtain ⟨r, m, l, rfl, h1⟩ := h
  obtain ⟨r', m', l', rfl, h2⟩ := k
  exact ⟨r', m', l', rfl, h2 ∘ h1⟩

theorem State.Noted.wrote {s u : State} (h : s.Noted u) : s.Wrote u := by
  obtain ⟨r, m, l, rfl, h1, h2⟩ := h
  exact ⟨r, m, l, rfl, h2⟩

theorem State.Wrote.noted {s u v : State} (h : s.Wrote u) (k : u.Noted v) : s.Wrote v := h.trans k.wrote

theorem State.Wrote.modMem {s u : State} (h : s.Wrote u) (f : Mem → Mem) (k : u.mem.wf = true → (f u.mem).wf = true) : s.Wrote (u.modMem f) :=
  h.trans ⟨u.regs, _, u.log, rfl, k⟩

theorem State.Wrote.fold {α : Type} {f : State → α → State} (hf : ∀ (s u : State) (a : α), s.Wrote u → s.Wrote (f u a)) (l : List α) :
    ∀ {s u : State}, s.Wrote u → s.Wrote (l.foldl f u) := by
  induction l with
  | nil => exact fun h => h
  | cons a l ih => exact fun h => ih (hf _ _ a h)

theorem State.Wrote.writeLine {s u : State} (h : s.Wrote u) (line : Nat) (d : Row) (p r : Bool) : s.Wrote (u.writeLine line d p r) := by
  unfold State.writeLine
  dsimp only
  have k := h.modMem (·.put line d p u.now r) fun w => Mem.put_wf w _ _ _ _ _
  generalize u.modMem (·.put line d p u.now r) = v at k
  split
  · refine State.Wrote.noted ?_ ((State.Noted.refl _).finc _ _ _ _)
    split
    · exact k.noted (((State.Noted.refl v).modChan _ _).ite (State.Noted.refl v))
    · exact k
  · split
    · exact k.noted (((State.Noted.refl v).modChan _ _).ite (State.Noted.refl v))
    · exact k

/-- The data of a line after a write of one (R233). -/
theorem State.get_writeLine (s : State) (l k : Nat) (d : Row) (p r : Bool) :
    tget 0 (s.writeLine l d p r).mem.lines k = if k = l then d else tget 0 s.mem.lines k := by
  unfold State.writeLine
  dsimp only
  rw [← Mem.get_put s.mem l k d p s.now r]
  split <;> split <;> (try split) <;> rfl

theorem State.Wrote.writeLines (l : List RdRow) : ∀ {s u : State} (_ : s.Wrote u) (line : Nat), s.Wrote (u.writeLines line l) := by
  induction l with
  | nil => intro s u h line; exact h
  | cons r l ih => intro s u h line; exact ih (h.writeLine line r.data r.poison false) _

theorem State.Wrote.mergeLine {s u : State} (h : s.Wrote u) (line req : Nat) (d : Row) (mask : BitVec 64) : s.Wrote (u.mergeLine line req d mask) := by
  unfold State.mergeLine
  split
  · exact h.writeLine _ _ _ _
  · exact (h.noted ((State.Noted.refl u).readLine line req)).writeLine _ _ _ _

theorem State.Noted.inGroup {s u : State} (h : s.Noted u) (ch : Nat) : s.Noted (u.inGroup ch) := by
  unfold State.inGroup
  exact h.ite (h.modChan _ _)

theorem State.Noted.copyRead {s u : State} (h : s.Noted u) (line : Nat) : s.Noted (u.copyRead line).2 := by
  unfold State.copyRead
  split <;> exact h.readLine _ _

/-- A slot of a row's copy changes no stored line (R260). -/
theorem State.Noted.copySlot {s u : State} (h : s.Noted u) (ch : Nat) (r : RowRepair) : s.Noted (u.copySlot ch r) := by
  unfold State.copySlot
  dsimp only
  refine State.Noted.modChan ?_ _ _
  split
  · split
    · exact h.copyRead _
    · exact h
  · split
    · exact h.finc _ _ _ _
    · exact h

/-- DRAM_ROW_REPAIR changes no stored line (R260). -/
theorem State.Noted.repairRow {s u : State} (h : s.Noted u) (ch : Nat) : s.Noted (repairRow ch u) := by
  unfold Sys2Proof.Machine.repairRow
  have k := h.inGroup ch
  generalize u.inGroup ch = v at k ⊢
  dsimp only
  split
  · exact k.startRepair ch
  · exact k.ite ((k.modChan _ _).copySlot _ _)

/-- The switch of a repaired row keeps the canonical form (R260). -/
theorem State.Wrote.repairSwitch {s u : State} (h : s.Wrote u) (ch : Nat) : s.Wrote (u.repairSwitch ch) := by
  unfold State.repairSwitch
  split
  · exact h
  · rename_i r _
    split
    · exact h
    · refine State.Wrote.noted (State.Wrote.fold ?_ r.copy h) ((((State.Noted.refl _).modChan _ _).finc _ _ _ _).startRepair _)
      rintro s u ⟨i, d, changed, poison⟩ h
      dsimp only
      split
      · split
        · exact h.modMem _ fun w => Mem.put_wf w _ _ _ _ _
        · refine h.modMem _ fun w => ?_
          rw [Mem.wf_iff] at w ⊢
          exact ⟨twf_tset _ _ w.1, w.2⟩
      · exact h

/-- A write-back of a check line keeps the canonical form (R236). -/
theorem State.Wrote.checkWriteback {s u : State} (h : s.Wrote u) (rim ch block : Nat) : s.Wrote (checkWriteback rim ch block u) := by
  unfold Sys2Proof.Machine.checkWriteback
  have k := h.noted ((State.Noted.refl u).inGroup ch)
  generalize u.inGroup ch = v at k ⊢
  dsimp only
  split
  · exact k
  · rename_i e _
    generalize (if e.valid = 0xFFFFFFFF then (1 : Nat) else 2) = n
    split
    · exact k
    · exact (k.modMem _ fun w => Mem.settle_wf w _ e).noted ((State.Noted.refl _).modChan _ _)

/-- The write-backs at a memory frame's end keep the canonical form (R237). -/
theorem State.Wrote.flushOld {s u : State} (h : s.Wrote u) : s.Wrote u.flushOld := by
  unfold State.flushOld
  refine h.modMem _ fun w => ?_
  generalize (u.mem.cache.filter fun e => e.2.dirty && decide (e.2.made < u.now - 8192)) = l
  generalize u.mem = m at w
  induction l generalizing m with
  | nil => exact w
  | cons e l ih => exact ih _ (Mem.settle_wf w _ _)

/-- A group of a scrub keeps the canonical form (R263). -/
theorem State.Wrote.scrubStep {s u : State} (h : s.Wrote u) : s.Wrote u.scrubStep := by
  unfold State.scrubStep
  split
  · exact h
  · exact (h.modMem _ fun w => Mem.zeroed_wf (m := u.mem) w _ _ _).noted ((State.Noted.refl _).fset _ _ _ _)

/-! ## Pads -/

/-- A write of a row moves no row. -/
@[simp] theorem Pad.place_setRow (p : Pad) (r k : Nat) (x : PadRow) : (p.setRow r x).place k = p.place k := rfl

/-- Reading a pad row after a write of one: the rows of the same place, which on a well-formed pad is the row itself. -/
theorem Pad.row_setRow (p : Pad) (r k : Nat) (x : PadRow) : (p.setRow r x).row k = if p.place k = p.place r then x else p.row k := by
  unfold Pad.row; rw [Pad.place_setRow]; unfold Pad.setRow; rw [tget_tset]

@[simp] theorem Pad.row_setRow_self (p : Pad) (r : Nat) (x : PadRow) : (p.setRow r x).row r = x := by rw [Pad.row_setRow, if_pos rfl]

theorem bankOf_lt {r : Nat} (h : r < 196608) : bankOf r < 48 := by unfold bankOf bankRow; dsimp only; omega

/-- The spare that serves a row was given to it (R181). -/
theorem Pad.spareOf_spec {p : Pad} {r i : Nat} (h : p.spareOf r = some i) : (p.bankMap (bankOf r))[i]? = some r := by
  unfold Pad.spareOf at h
  exact of_decide_eq_true (List.find?_some h :)

/-- On a pad whose banks have used no more spares than they have, no two rows share a place (R144, R181). -/
theorem Pad.place_inj {p : Pad} (hp : ∀ b, (p.bankMap b).length ≤ 32) {r k : Nat} (hr : r < 196608) (hk : k < 196608)
    (h : p.place r = p.place k) : r = k := by
  have key : ∀ {q i : Nat}, p.spareOf q = some i → i < 32 := fun {q i} hs => by
    have := List.getElem?_eq_some_iff.mp (Pad.spareOf_spec hs)
    exact Nat.lt_of_lt_of_le this.1 (hp _)
  have b1 := bankOf_lt hr
  have b2 := bankOf_lt hk
  unfold Pad.place at h
  cases h1 : p.spareOf r with
  | none => cases h2 : p.spareOf k with
    | none => simpa [h1, h2] using h
    | some j => simp [h1, h2] at h; omega
  | some i => cases h2 : p.spareOf k with
    | none => simp [h1, h2] at h; omega
    | some j =>
      have hi := key h1
      have hj := key h2
      simp only [h1, h2] at h
      have e1 : bankOf r = bankOf k := by omega
      have e2 : i = j := by omega
      have s1 := Pad.spareOf_spec h1
      have s2 := Pad.spareOf_spec h2
      rw [e1, e2, s2] at s1
      exact (Option.some.inj s1).symm

theorem Pad.setRow_wf {p : Pad} (h : p.wf = true) (r : Nat) (x : PadRow) : (p.setRow r x).wf = true := twf_tset _ x h

theorem Pad.mapRows_wf {p : Pad} (h : p.wf = true) (f : Nat → PadRow → PadRow) : (p.mapRows f).wf = true :=
  twf_map_filter _ (fun _ => rfl) h

theorem Pad.sweepCycle_wf {p : Pad} (h : p.wf = true) (now : W64) : (p.sweepCycle now).wf = true := by
  unfold Pad.sweepCycle
  split
  · exact h
  · dsimp only
    split
    · exact h
    · exact Pad.mapRows_wf h _

theorem Pad.endRegrow_wf {p : Pad} (h : p.wf = true) (now : W64) : (p.endRegrow now).wf = true := by
  unfold Pad.endRegrow
  split
  · exact h
  · dsimp only
    generalize (match winner p.writes _ with | some w => PadRow.write _ w | none => _) = y
    split
    · exact h
    · exact Pad.setRow_wf (p := { p with repair := _, regrow := none }) h _ _

/-- The end of a cycle keeps a pad's canonical form (R117, R157, R160, R181). -/
theorem Pad.endCycle_wf {p : Pad} (h : p.wf = true) (now : W64) : (p.endCycle now).wf = true := by
  unfold Pad.endCycle
  refine (Pad.endRegrow_wf ?_ now :)
  have k := Pad.sweepCycle_wf h now
  generalize (p.writes.map (·.row)).eraseDups = l
  generalize p.sweepCycle now = q at k
  induction l generalizing q with
  | nil => exact k
  | cons r l ih =>
    refine ih _ ?_
    dsimp only
    split
    · exact k
    · exact Pad.setRow_wf k _ _

/-! ## Every memory of the part -/

theorem State.memWf_iff (s : State) : s.memWf = true ↔ s.mem.wf = true ∧ ∀ p : PTile, (s.pads.get p).wf = true := by
  rw [State.memWf, Bool.and_eq_true, List.all_eq_true]
  refine and_congr_right fun _ => ⟨fun h p => h _ ?_, fun h x hx => ?_⟩
  · rw [Vector.mem_toList_iff]; exact Vector.getElem_mem p.isLt
  · rw [Vector.mem_toList_iff] at hx
    obtain ⟨i, hi, rfl⟩ := Vector.getElem_of_mem hx
    exact h ⟨i, hi⟩

theorem State.memWf_congr {s u : State} (hm : u.mem = s.mem) (hp : u.pads = s.pads) : u.memWf = s.memWf := by rw [State.memWf, State.memWf, hm, hp]

theorem State.Wrote.memWf {s u : State} (h : s.Wrote u) (w : s.memWf = true) : u.memWf = true := by
  obtain ⟨r, m, l, rfl, h1⟩ := h
  rw [State.memWf_iff] at w ⊢
  exact ⟨h1 w.1, w.2⟩

theorem State.modPad_memWf {s : State} (w : s.memWf = true) (p : PTile) (f : Pad → Pad) (hf : (s.pads.get p).wf = true → (f (s.pads.get p)).wf = true) :
    (s.modPad p f).memWf = true := by
  rw [State.memWf_iff] at w ⊢
  refine ⟨w.1, fun q => ?_⟩
  rw [State.modPad_pads, vmod_get]
  split
  · exact hf (w.2 p)
  · exact w.2 q

theorem State.padWrite_memWf {s : State} (w : s.memWf = true) (t : LTile) (x : PadWrite) : (s.padWrite t x).memWf = true :=
  State.modPad_memWf w _ _ id

/-! ## A step of the count (R50) moves timers only -/

@[simp] theorem State.stepBy_now (s : State) (d : W64) : (s.stepBy d).now = s.now + d := rfl
@[simp] theorem State.stepBy_regs (s : State) (d : W64) : (s.stepBy d).regs = s.regs := rfl
@[simp] theorem State.stepBy_lines (s : State) (d : W64) : (s.stepBy d).mem.lines = s.mem.lines := rfl
@[simp] theorem State.stepBy_checks (s : State) (d : W64) : (s.stepBy d).mem.checks = s.mem.checks := rfl

theorem vget_map {α β : Type} {n : Nat} (f : α → β) (v : Vector α n) (p : Fin n) : (v.map f).get p = f (v.get p) :=
  Vector.getElem_map f p.isLt

@[simp] theorem State.stepBy_rows (s : State) (d : W64) (p : PTile) : ((s.stepBy d).pads.get p).rows = (s.pads.get p).rows :=
  (congrArg Pad.rows (vget_map _ s.pads p) :)

theorem State.stepBy_memWf {s : State} (w : s.memWf = true) (d : W64) : (s.stepBy d).memWf = true := by
  rw [State.memWf_iff] at w ⊢
  refine ⟨by rw [Mem.wf_congr (State.stepBy_lines s d) (State.stepBy_checks s d)]; exact w.1, fun p => ?_⟩
  rw [Pad.wf, State.stepBy_rows]
  exact w.2 p

end Sys2Proof.Machine
end

