-- ==== Sys2Proof/Laws/Messages.lean ====
section
/-!
SUPPORT. Messages, replies and interrupts: when a message is executed, and everything that a reply does.
-/
namespace Sys2Proof.Machine

/-! ## Interrupts and replies -/

/-- Everything that an interrupt does: a vector leaves, or its pending bit is set (R514). -/
theorem State.raiseOn_only (s : State) (f : Bool) (v : Nat) :
    (∃ e, s.raiseOn f v = s.emit e) ∨ ∃ p, s.raiseOn f v = { s with pci := { s.pci with pend := p } } := by
  unfold State.raiseOn State.raise
  split
  · exact .inl ⟨_, rfl⟩
  · split
    · exact .inr ⟨_, rfl⟩
    · exact .inl ⟨_, rfl⟩

/-- Everything that sending a reply does: its writes, then its interrupt (R445, R447, R514). -/
theorem State.sendReply_only (s : State) (r : Reply) :
    ∃ p new, s.sendReply r = { s with pci := { s.pci with pend := p }, out := new ++ .reply r :: s.out } := by
  unfold State.sendReply
  dsimp only
  split
  · rename_i v _
    rcases State.raiseOn_only (s.emit (.reply r)) (isPf1 r.slot) v with ⟨e, h⟩ | ⟨p, h⟩ <;> rw [h]
    · exact ⟨s.pci.pend, [e], rfl⟩
    · exact ⟨p, [], rfl⟩
  · exact ⟨s.pci.pend, [], rfl⟩

/-- Everything that answering a message does: the reply is kept in its slot and sent (R445, R447). -/
theorem State.reply_only (s : State) (m : Msg) (status detail : Nat) (b : Bytes) :
    ∃ r sl p new, s.reply m status detail b = { s with mbx := { s.mbx with slots := sl }, pci := { s.pci with pend := p }, out := new ++ .reply r :: s.out }
      ∧ r.slot = m.slot ∧ r.raddr = m.raddr ∧ r.seq = m.seq ∧ r.opcode = m.opcode ∧ r.status = status ∧ r.detail = detail
      ∧ r.done = s.now ∧ r.payload = b.take (m.rlen - 64) ∧ r.dup = m.dup ∧ r.vec = m.vec := by
  unfold State.reply
  dsimp only
  obtain ⟨p, new, h⟩ := State.sendReply_only (s.modSlot m.slot fun x => match x.kept with
    | some (q, o, _) => if q = m.seq ∧ o = m.opcode then { x with kept := some (q, o, some {
        slot := m.slot, raddr := m.raddr, seq := m.seq, opcode := m.opcode, status := status, detail := detail,
        trunc := decide (m.rlen - 64 < b.length), dup := m.dup, pasid := m.pasid, wpasid := m.wpasid, taken := m.taken,
        done := s.now, payload := b.take (m.rlen - 64), vec := m.vec }) } else x
    | none => x) {
        slot := m.slot, raddr := m.raddr, seq := m.seq, opcode := m.opcode, status := status, detail := detail,
        trunc := decide (m.rlen - 64 < b.length), dup := m.dup, pasid := m.pasid, wpasid := m.wpasid, taken := m.taken,
        done := s.now, payload := b.take (m.rlen - 64), vec := m.vec }
  exact ⟨_, _, p, new, h, rfl, rfl, rfl, rfl, rfl, rfl, rfl, rfl, rfl, rfl⟩

/-- A message that is answered has been answered. -/
theorem State.answered_reply (s : State) (m : Msg) (status detail : Nat) (b : Bytes) :
    s.answered (s.reply m status detail b) m status detail b := by
  obtain ⟨r, sl, p, new, h, h1, h2, h3, h4, h5, h6, h7, h8, -, -⟩ := s.reply_only m status detail b
  exact ⟨r, new, [], by rw [h]; rfl, h1, h2, h3, h4, h5, h6, h7, h8⟩

/-- An answer given in a state that has only sent more, in the same cycle. -/
theorem State.answered_later {s v u : State} {m : Msg} {status detail : Nat} {b : Bytes} {old : List Emit} (ho : v.out = old ++ s.out) (hn : v.now = s.now)
    (h : v.answered u m status detail b) : s.answered u m status detail b := by
  obtain ⟨r, new, o, h0, h1, h2, h3, h4, h5, h6, h7, h8⟩ := h
  exact ⟨r, new, o ++ old, by rw [h0, ho, List.append_assoc], h1, h2, h3, h4, h5, h6, h7.trans hn, h8⟩

/-! ## The execution of a message -/

theorem takeWhile_of_split {α : Type} [DecidableEq α] (x : α) (b : List α) : ∀ a : List α, (∀ y ∈ a, y ≠ x) →
    (a ++ x :: b).takeWhile (fun y => decide (y ≠ x)) = a
  | [], _ => by simp
  | y :: a, h => by
    rw [List.cons_append, List.takeWhile_cons_of_pos (by simpa using h y (by simp)), takeWhile_of_split x b a fun z hz => h z (by simp [hz])]

/-- A message that its command may execute is executed (R444). -/
theorem onMsg_of_msg {s v : State} {op : Nat} {i : SlotId} {m : Msg} (h : s.msg op i m v) (want : Msg → Bool) (hw : want m = true) (f : Msg → State → State) :
    onMsg op i want f s = f m v := by
  obtain ⟨hop, hi, before, after, ht, hb, hq, ho, rfl⟩ := h
  have h1 : takeFirst (fun x : Msg => decide (x.slot = i)) s.mbx.taken = some (m, before ++ after) := by
    rw [ht]; exact takeFirst_of_split (by simpa using hi) fun y hy => by simpa using hb y hy
  have h2 : s.mbx.taken.takeWhile (fun x => decide (x ≠ m)) = before := by
    rw [ht]; exact takeWhile_of_split m after before fun y hy e => hb y hy (e ▸ hi)
  unfold onMsg
  simp only [h1, h2]
  rw [if_neg]
  rintro (e | e | e | e)
  · exact e hop
  · simp [hw] at e
  · simp only [List.any_eq_true, decide_eq_true_eq] at e
    obtain ⟨w, hwm, hws⟩ := e
    exact hq w hwm hws
  · obtain ⟨x, hx, he⟩ := List.any_eq_true.mp e
    simp [ho x hx] at he

/-- A message command on a message that it may execute. -/
theorem message_of_msg {s v : State} {op : Nat} {i : SlotId} {m : Msg} (h : s.msg op i m v) (f : Msg → State → State) : message op i f s = .next (f m v) := by
  rw [message, onMsg_of_msg h _ rfl]

/-- Everything that a message command can do: nothing, or the effect of the slot's first taken message. -/
theorem onMsg_cases (op : Nat) (i : SlotId) (want : Msg → Bool) (f : Msg → State → State) (s : State) :
    onMsg op i want f s = s ∨ ∃ m before after, s.mbx.taken = before ++ m :: after ∧ m.slot = i ∧ m.opcode = op ∧ want m = true
      ∧ (∀ x ∈ before, x.slot ≠ i) ∧ onMsg op i want f s = f m { s with mbx := { s.mbx with taken := before ++ after } } := by
  unfold onMsg
  split
  · exact .inl rfl
  · rename_i m rest h
    obtain ⟨a, b, ht, rfl, hm, ha⟩ := takeFirst_spec h
    dsimp only
    split
    · exact .inl rfl
    · rename_i hc
      simp only [not_or] at hc
      exact .inr ⟨m, a, b, ht, by simpa using hm, by simpa using hc.1, by simpa using hc.2.1, fun x hx => by simpa using ha x hx, rfl⟩

end Sys2Proof.Machine
end

