-- ==== Sys2Proof/Machine/Library.lean ====
section
/-!
DEFINITION. The functions that R309-R319 give the Ivxizu radio library, as functions of what it measures: section widths, the
uplink gain's factor, and burst detection. The library's code runs in a slice's image (spec/00_scope.md); nothing in the part calls these.
-/
namespace Sys2Proof.Machine

/-! ## Bit loading (R308-R312) -/

/-- Whether a width is accepted for a group of noise power `noise` and largest bit length `peak` (R309). -/
def acceptsWidth (noise peak w : Nat) : Bool :=
  let e := peak + 1 - w
  decide (e = 0 ∨ 8 * 4 ^ e ≤ 3 * noise)

/-- The width of a group: the smallest one accepted from 6 to the largest that WMAX allows, else that one (R309). -/
def groupWidth (wmax noise peak : Nat) : Nat :=
  let top := Nat.min wmax 14
  (((List.range (top - 5)).map (6 + ·)).find? (acceptsWidth noise peak)).getD top

/-- A group before the runs of those after it. -/
def joinRun (w : Nat) : List (Nat × Nat) → List (Nat × Nat)
  | (n, v) :: r => if v = w then (n + 1, v) :: r else (1, w) :: (n, v) :: r
  | [] => [(1, w)]

/-- The maximal runs of groups of one width, lowest PRBs first: groups and width (R310). -/
def widthRuns (widths : List Nat) : List (Nat × Nat) := widths.foldr joinRun []

/-- `n` merges of the two runs with the highest PRBs, which stand first. -/
def mergeHigh : Nat → List (Nat × Nat) → List (Nat × Nat)
  | n + 1, (a, v) :: (b, w) :: r => mergeHigh n ((a + b, Nat.max v w) :: r)
  | _, l => l

/-- The sections of a symbol: at most SEC_MAX runs (R310). -/
def widthSections (secMax : Nat) (widths : List Nat) : List (Nat × Nat) :=
  let runs := widthRuns widths
  (mergeHigh (runs.length - secMax) runs.reverse).reverse

/-! ## The gain's factor (R315) -/

/-- The shift and the Q1.14 factor by which the samples of a record with gain index `gidx` are multiplied. -/
def gainFactor (gidx : Int) : Int × Nat :=
  (gidx.fdiv 4, match (gidx.fmod 4).toNat with | 0 => 16384 | 1 => 19484 | 2 => 23170 | _ => 27554)

/-! ## Burst detection (R317-R319) -/

/-- The index at which `n` energies in a row have first reached `te`, after a run of `run` that ends before index `i`. -/
def burstStart (te n : Nat) : List Nat → Nat → Nat → Option Nat
  | [], _, _ => none
  | e :: r, run, i =>
    let k := if te ≤ e then run + 1 else 0
    if k = n then some i else burstStart te n r k (i + 1)

/-- A candidate: its first index i0, and the correlation window with its peak and sum. -/
structure Burst where
  start : Nat
  first : Nat
  window : List Nat
  peak : Nat
  sum : Nat
  deriving DecidableEq, Repr

/-- The first candidate of a sequence of energies and correlations. -/
def burstCandidate (energies corrs : List Nat) (n0 w n tf : Nat) : Option Burst :=
  (burstStart (n0 * tf / 16) n energies 0 0).map fun i0 =>
    let w0 := i0 + 1 - n
    let l := ((corrs.take energies.length).drop w0).take w
    { start := i0, first := w0, window := l, peak := l.foldl Nat.max 0, sum := l.foldl (· + ·) 0 }

/-- Whether the window passes the qualifier, `q` in sixteenths. -/
def Burst.passes (b : Burst) (q : Nat) : Bool := decide (0 < b.sum ∧ q * b.sum ≤ 16 * b.peak * b.window.length)

/-- The detection of R317: the first candidate, if it is qualified. -/
def burstDetect (energies corrs : List Nat) (n0 w n tf q : Nat) : Option Burst := (burstCandidate energies corrs n0 w n tf).filter (·.passes q)

/-- What a PRACH detection reports beside its preamble: the timing advance and the qualifier value (R318). -/
def prachReport (profile : List Nat) (n0 w n tf q : Nat) : Option (Nat × Nat) :=
  (burstDetect profile profile n0 w n tf q).map fun b => (b.first + b.window.findIdx (· = b.peak), 16 * b.peak * b.window.length / b.sum)

/-- The activity flag of a cell in a slot (R319): the window covers the symbols of the run itself. -/
def cellActive (energies dmrs : List Nat) (n0 n tf q : Nat) : Bool := (burstDetect energies dmrs n0 n n tf q).isSome

end Sys2Proof.Machine
end

