-- ==== Sys2Proof/WellFormed.lean ====
section
/-!
DEFINITION. Which commands are well formed: operands that the types leave wider than the spec has them (lengths of byte
strings, offsets, numbers of a field's range).
-/
namespace Sys2Proof

/-- A span of bytes inside an area of `size` bytes. -/
def spanIn (offset length size : Nat) : Bool := decide (offset + length ≤ size)

/-- A frame from the destination address to the end of its data, without the FCS: 60 to 9,212 bytes (R270). -/
def frameLen (n : Nat) : Bool := decide (60 ≤ n ∧ n ≤ 9212)

/-- A packet carries at most the 64 lines of a 4 KiB block (R388, R390). -/
def LPacket.ok (p : LPacket) : Bool := decide (p.lines.length ≤ 64 ∧ p.status ≤ 0xFF ∧ p.addr < 2 ^ 48)

/-- A clutch frame's address is line aligned in the home's local addresses (R365, R367). -/
def KFrame.ok (f : KFrame) : Bool := decide (f.addr % 64 = 0 ∧ f.addr < 2 ^ 40)

/-- A section's PRBs (R289). -/
def USection.ok (x : USection) : Bool := decide (x.startPrb < 1024 ∧ x.numPrb < 256)

/-- Well-formed commands. -/
def Instr.wf : Instr → Bool
  | .landingWrite _ zone _ _ _ _ _ => decide (zone < 128)
  | .egressMessagePlace _ _ header body => decide (header.length = 64) && decide (body.length ≤ 9174)
  | .egressFrameEnqueue _ _ frame => frameLen frame.length
  | .checkLineWriteback rim channel block => decide (channel.val / 40 = rim.val ∧ block < 2 ^ 20)
  | .fhFrameReceive f => f.sections.all USection.ok
  | .creditedRemoteWrite _ _ _ data => decide (data.length ≤ 16)
  | .unsealChunk chunk => decide (chunk.length ≤ 65616)
  | .krovbemRd _ f => f.ok
  | .krovbemRdx _ f => f.ok
  | .krovbemWr _ f => f.ok
  | .krovbemWb _ f => f.ok
  | .krovbemEv _ f => f.ok
  | .krovbemFwd _ f => f.ok
  | .krovbemInv _ f => f.ok
  | .krovbemData _ f => f.ok
  | .krovbemAck _ f => f.ok
  | .krovbemNack _ f _ => f.ok
  | .krovbemAccept _ f => f.ok
  | .leapfrogRdreq p => p.ok
  | .leapfrogRddata p => p.ok
  | .leapfrogWrite p => p.ok
  | .leapfrogDone p => p.ok
  | .leapfrogNack p => p.ok
  | .leapfrogKeepalive p => p.ok
  | .mailboxSlotWrite _ offset bytes => spanIn offset bytes.length 4096
  | .bar4Read offset length => spanIn offset length (2 ^ 63)
  | .bar4Write offset bytes _ => spanIn offset bytes.length (2 ^ 63)
  | .debugWindowRead offset length => spanIn offset length (2 ^ 26)
  | .registerWrite _ addr _ => decide (addr % 8 = 0)
  | .registerReadClear _ addr => decide (addr % 8 = 0)
  | .spdmGetCertificate _ slot _ _ => decide (slot < 8)
  | .atsInvalidateRequest lo hi => decide (lo ≤ hi)
  | _ => true

end Sys2Proof
end

