-- ==== Sys2Proof/Tests/Slice0.lean ====
section
/-!
SUPPORT. Tests: small checks of the model against figures of the spec, and for every statement with hypotheses states and operands
that meet the hypotheses of each of its clauses.
-/
set_option Elab.async false
namespace Sys2Proof.Tests
open Sys2Proof.Machine

/-- A part out of reset, at the GPS epoch (off = 0), with M0 running. -/
def on : State :=
  { State.reset with boot := { held := false, dies := false }, cores := { m0Up := true }, time := { now := 621212111339520000, src := { paused := false } } }

/-- A state with a register set. -/
def withReg (s : State) (n : RegName) (v : W64) (blk : Nat := 0) (i : Nat := 0) : State := s.rset ⟨n, blk, i⟩ v

/-- A state with its sources changed. -/
def withSrc (s : State) (f : Sources → Sources) : State := { s with time := { s.time with src := f s.time.src } }

/-! ## Time -/

/-- TimeCompletes. -/
theorem witness_time :
    (on.mfStart on.now = true ∧ on.boot.dies = false) ∧ bit (1 : W64) 0 = true
    ∧ ptpMaySend 3 .delayReq (withReg on .atbCtrl 0x301) = true
    ∧ ({ on with board := { synce := 1 } } : State).board.synce.getLsbD (0 : Fin 16).val = true
    ∧ ppsDue (withReg { on with time := { on.time with now := 1966080000 } } .atbState 2) = true
    ∧ (let s : State := { on with time := { on.time with now := 196608005, ppsOut := true, ppsRose := 5 } }
       s.time.ppsOut = true ∧ (s.now - s.time.ppsRose).toNat = 196608000)
    ∧ limitExceeded (withReg { on with time := { on.time with servo := { holdBase := 100000 } } } .atbState 4) = true := by decide +kernel

/-- SourcesComplete: a PTP announce, its loss, SyncE, 10 MHz, 1PPS with ToD. -/
theorem witness_sources :
    (let s := withReg on .atbCtrl 0x1800000301
     let m : PtpMsg := { port := 3, domain := 0x18, sender := 9, body := .announce 6 37 false false true true [] }
     let x : Master := { port := 3, sender := 9, count := 2, last := s.now }
     s.time.src.paused = false ∧ m.domain.toNat = s.fget (creg .atbCtrl) 39 32 ∧ s.tsrc = 1 ∧ m.port.val = s.slavePort ∧ acceptable 6 = true
     ∧ s.time.src.selected = none ∧ s.time.src.masters = []
     ∧ (([x].find? fun x => decide (x.port = m.port ∧ x.sender = m.sender)).filter s.fresh).map Master.count = some 2)
    ∧ (let s := withSrc (withReg on .atbCtrl 0x301) fun x => { x with timeOk := true }
       ptpTimedOut s = true ∧ s.altMaster = none)
    ∧ (let s := withSrc (withReg on .atbCtrl 0x10301) fun x => { x with timeOk := true, masters := [{ port := 0, sender := 9, count := 3, last := on.now }] }
       ptpTimedOut s = true ∧ s.altMaster.isSome = true)
    ∧ esmcTimedOut (withSrc on fun x => { x with synceOk := true }) = true
    ∧ ((withSrc on fun x => { x with synceOk := true }).time.src.synceOk = true ∧ (withSrc on fun x => { x with synceOk := true }).time.src.paused = false)
    ∧ (withSrc on fun x => { x with tenMhzOk := true }).time.src.tenMhzOk = true ∧ on.time.src.tenMhzOk = false
    ∧ (let s := withSrc (withReg on .atbCtrl 2) fun x => { x with todSeconds := some 7 }
       s.tsrc = 2 ∧ s.time.src.paused = false ∧ s.time.src.todSeconds = some 7 ∧ s.ppsExpected = true ∧ s.todInTime = true)
    ∧ (withSrc on fun x => { x with lastPps := some (on.now - 1966082001) }).ppsOverdue = true
    ∧ todGood [0xA5, 0x5A, 0x01, 0x0A, 0, 0, 0, 0, 0, 7, 0, 37, 1, 6, 0, 0] = false := by decide +kernel

/-! ## The sequencer -/

/-- An operation of a task's program. -/
def opWord (op : Nat) (arg : Nat := 0) : W64 := BitVec.ofNat 64 (op + 256 + 2 ^ 32 * arg)

/-- A tenant task whose window is the whole pad. -/
def task : TaskCtx :=
  { radio := false, img := .epoch, recIdx := 0, owner := 0x40, base := 0, bound := 0xC00000, srow := 0, win0 := { base := 0, bound := 1, valid := true }, seqCount := 1, timeout := 5, last := on.now - 1 }

/-- A radio task of slice 0 whose window is open for a memory frame yet. -/
def radioTask : TaskCtx := { task with radio := true, img := .slice 0, owner := 0, closes := on.now + 16384 }

/-- A loaded epoch and slice 0 with an image, and a task in context 0 of tile 0. -/
def withTask (k : TaskCtx) (i : Image) (x : Tile := {}) : State :=
  { on with tiles := on.tiles.set 0 { x with ctx := x.ctx.set 0 (some k) }, ten := { state := .loaded, tag := 0x40, image := some i },
            ctl := { slices := on.ctl.slices.set 0 { image := some i } } }

/-- A task whose next operation is the only one of its image. -/
def oneOp (k : TaskCtx) (i : Image) (w : W64) : State := withTask k { i with ops := [w] }

/-- UnitOpsIssue and ControlOpsIssue: each operation is due. -/
theorem witness_issue :
    (∀ w ∈ [opWord 0, opWord 5 16, opWord 6 64, opWord 8 3, opWord 8 0x8000, opWord 9, opWord 10 0, opWord 10 1, opWord 10 2, opWord 15],
      (oneOp task {} w).issues 0 0 task { ops := [w] } w)
    ∧ isFabricPost task (opWord 8 3) = false ∧ isFabricPost task (opWord 8 0x8000) = true
    ∧ (∀ w ∈ [opWord 0, opWord 9, opWord 15], (oneOp radioTask {} w).issues 0 0 radioTask { ops := [w] } w) := by
  simp only [State.issues, List.forall_mem_cons, List.not_mem_nil, false_implies, implies_true, and_true]; and_intros <;> decide +kernel

/-- UnitOpsIssue: a pass, an engine block, a pad operation. -/
theorem witness_units :
    (let i : Image := { passes := [leBytes 32 1], eng := [0], padops := [leBytes 32 1], ops := [opWord 1] }
     (withTask task i).issues 0 0 task i (opWord 1) ∧ (withTask task i).passDesc task 0 = some (leBytes 32 1, 0) ∧ dPart (leBytes 32 1) < 7)
    ∧ (let i : Image := { eng := [0], ops := [opWord 2 65536] }
       (withTask task i).issues 0 0 task i (opWord 2 65536))
    ∧ (let i : Image := { padops := [leBytes 32 1], ops := [opWord 3] }
       (withTask task i).issues 0 0 task i (opWord 3) ∧ i.padops[0]? = some (leBytes 32 1)) := by
  simp only [State.issues]; and_intros <;> decide +kernel

/-- A SEND descriptor to tile 1, and a MEMX descriptor of a tenant. -/
def sendDesc (tenant : Nat) : Bytes := leBytes 16 (1 + 2 ^ 16 * tenant + 2 ^ 48 * 2)
def memxDesc (op : Nat) : Bytes := leBytes 32 (op + 4 + 2 ^ 64)

/-- A radio MEMX descriptor: one line on each channel, group 0. -/
def radioMemx (op : Nat) : Bytes := leBytes 32 (op + 2 ^ 16 + 2 ^ 32 + 2 ^ 192)

/-- A slot table with a flow in phase 0 and the four legs of MEMX 0. -/
def flows : List FlowSlot :=
  { flow := .declared 0 0, src := 0, dest := 1, rate := 1, phases := [0] } ::
    (List.finRange 4).map fun r => { flow := .leg 0 0 r, src := 64 + r.val, dest := 0, rate := 1, phases := [1 + r.val] }

/-- TransfersIssue. -/
theorem witness_transfers :
    (let i : Image := { sends := [sendDesc 1], ops := [opWord 4] }
     let s := withTask task i
     s.issues 0 0 task i (opWord 4) ∧ i.sends[0]? = some (sendDesc 1) ∧ task.span 0 512 = some 0 ∧ sdUnits (sendDesc 1) = 2 ∧ sendIs s true task (opWord 4) = true)
    ∧ (let i : Image := { sends := [sendDesc 0], ops := [opWord 4] }
       let s : State := { withTask radioTask i with mesh := { slots := flows } }
       s.issues 0 0 radioTask i (opWord 4) ∧ sendIs s false radioTask (opWord 4) = true)
    ∧ (∀ op ∈ [0, 1, 2, 3], let i : Image := { memxs := [memxDesc op], ops := [opWord 7] }
       let s := withTask task i
       s.issues 0 0 task i (opWord 7) ∧ memxAddr task (memxDesc op) = some 0 ∧ task.span 0 64 = some 0 ∧ mxLines (memxDesc op) = 1
       ∧ memxIs s op task (opWord 7) = true)
    ∧ (∀ op ∈ [0, 1], let i : Image := { memxs := [radioMemx op], ops := [opWord 7] }
       let s : State := { withTask radioTask i with mesh := { slots := flows } }
       s.issues 0 0 radioTask i (opWord 7) ∧ memxAddr radioTask (radioMemx op) = some 0 ∧ (s.planMemx radioTask 0 (radioMemx op)).isSome = true) := by
  simp only [State.issues, List.forall_mem_cons, List.not_mem_nil, false_implies, implies_true, and_true]; and_intros <;> decide +kernel

/-- An image with one radio window on tile 0 at the start of each period of 120 memory frames. -/
def windowed (start : Nat := 0) : Image := { recs := [leBytes 32 (2 ^ 80)], wins := [leBytes 16 (2 ^ 16 * start + 2 ^ 32)] }

/-- Slice 0 holding an image. -/
def radioOn (i : Image) : State := { on with ctl := { slices := on.ctl.slices.set 0 { image := some i } }, tiles := on.tiles.set 0 { alloc := [(0, (0, 1))] } }

/-- ContextsComplete. -/
theorem witness_contexts :
    (let s := radioOn (windowed)
     (s.opening 0).map (fun x => (x.1.slice, x.2)) = some ((0 : Fin 64), s.now + 8192) ∧ s.imageAt s.now 0 = some windowed
     ∧ (startTask (leBytes 32 (2 ^ 80)) 0 (.slice 0) 0 0 1 {} {} s.now).isSome = true)
    ∧ (let k := { radioTask with closes := on.now + 1, last := on.now }
       let s := oneOp k {} (opWord 0)
       s.ctx 0 0 = some k ∧ s.nextOp k = some (opWord 0) ∧ k.ended = none ∧ s.now + 1 = k.closes
       ∧ k.closes ≤ k.last + BitVec.ofNat 64 (seqDelta (opWord 0)))
    ∧ ((withTask { task with timer := 5 } {}).ctx 0 0 = some { task with timer := 5 } ∧ task.timeout ≤ 5)
    ∧ (let i : Image := { recs := [leBytes 32 0] }
       let s := { withTask task i with ctl := { pend := [{ set := .slice 0, x := on.now + 983040, accepted := 0, settings := [.image i []] }] } }
       s.reclaimDue 0 0 = true ∧ s.ctx 0 0 = some task)
    ∧ (let k := { task with ended := some 0, live := false, busyAt := on.now - 1 }
       (withTask k {}).ctx 0 0 = some k ∧ (withTask k {}).releasable 0 0 = true)
    ∧ mayTile (.m0) 0 = true := by decide +kernel

/-! ## Arrays, engines and compare units -/

/-- A pass descriptor: INT8, one element, operands and result in the window's first rows. -/
def passD : Bytes := leBytes 32 (2 ^ 8 + 2 ^ 16 + 2 ^ 30 + 2 ^ 135 + 2 ^ 168 + 2 ^ 198)

/-- A tenant pass that runs on partition 0. -/
def running : Pass := { part := 0, ctx := 0, owner := 0x40, radio := false, desc := passD, descPtr := 0, start := on.now, kc := 1 }

/-- A freeze that a suspend began 200 cycles ago. -/
def frozen : Freeze := { start := on.now - 200, closes := none, recordDue := false }

/-- ArrayCompletes. -/
theorem witness_array :
    (∀ k ∈ [task, radioTask], let i : Image := { passes := [passD] }
     let q : PendPass := { part := 0, ctx := 0, radio := k.radio, idx := 0, plan := 0, kc := 1, planLast := 0, earliest := on.now }
     let s := withTask k i { arr := { pend := [q] } }
     ((s.arr 0).pend.find? fun p => decide (p.part = 0)) = some q ∧ s.ctx 0 q.ctx = some k ∧ s.passDesc k q.idx = some (passD, 0) ∧ s.now = (s.arr 0).readyAt q (dChain passD)
     ∧ s.fget (treg .arrCtrl 0) 1 1 = 0 ∧ (s.arr 0).free 0 (dChain passD) = true
     ∧ (s.tenantStopped 0 = false ∧ s.passHeld 0 passD = false ∧ s.passThrottled 0 0 = false) ∧ dFault k 0 (tfind (lastKey q.radio 0) (s.arr 0).last) passD = none)
    ∧ (let s : State := { withTask task {} { arr := { run := [running] } } with ten := { suspendAt := some on.now } }
       (s.arr 0).freeze = none ∧ (s.arr 0).run.any Pass.freezable = true ∧ s.ten.suspendAt = some s.now)
    ∧ (let s : State := { radioOn (windowed 1) with time := { on.time with now := on.now + 8032 } }
       s.ten.suspendAt ≠ some s.now ∧ (s.nextSpan 0 s.now).map (fun x => (x.1 - s.now, x.2)) = some (160, on.now + 16384))
    ∧ (let s := withTask task {} { arr := { freeze := some frozen } }
       (s.arr 0).freeze = some frozen ∧ frozen.restore = none ∧ 129 ≤ (s.now - frozen.start).toNat ∧ s.resumeDue 0 = true)
    ∧ (let s := withTask task {} { arr := { run := [running] } }
       ((s.arr 0).run.filter fun p => coversQ p.part.val (quarterOf 3 5)).head? = some running) := by decide +kernel

/-- An engine word: opcode, mode, immediate; registers 0. -/
def engWord (op mode : Nat) (imm : Nat := 0) : W64 := BitVec.ofNat 64 (op + 256 * mode + 2 ^ 40 * imm)

/-- A word for each engine instruction, in a mode and with an immediate that it accepts. -/
def engWords : List W64 :=
  ([0x00, 0x01, 0x02, 0x03, 0x04, 0x06, 0x10, 0x11, 0x18, 0x19, 0x1A, 0x1B, 0x1C, 0x1D, 0x1E, 0x1F, 0x20, 0x30, 0x31, 0x32, 0x33, 0x34, 0x35, 0x36].map fun op => engWord op 0)
    ++ ([0x05, 0x12, 0x13, 0x14, 0x15, 0x17, 0x37, 0x39, 0x3D].map fun op => engWord op 1)
    ++ ([0x16, 0x3A, 0x3B].map fun op => engWord op 2) ++ [engWord 0x33 0 (16384 + 32), engWord 0x38 0 1, engWord 0x3C 0]

/-- What EngineIssues asks of a word, in a tenant's task or in a radio task. -/
def engReady (k : TaskCtx) (p : Bool) (w : W64) : Bool :=
  let b : SgeBlock := { ctx := 0, radio := k.radio, todo := [(0, w, false)], earliest := on.now }
  let s := withTask k {} { eng := { pend := [b], owner := some k.owner } }
  let e := s.eng 0
  let plan := engPlan e b.ctx w (if opOf w = 0x34 then s.freeCount else 0)
  (engineCmd 0 p w).isSome && decide ((s.eng 0).head = some (b, false) ∧ s.ctx 0 b.ctx = some k) && decide (s.now = later b.earliest (s.eng 0).next)
    && !s.engBlocked 0 b false && wordOk w && plan.inWindow k && !e.clash w (s.engDue w)

/-- EngineIssues: for each of its commands, a tenant's instruction and a radio one. -/
theorem witness_engine :
    (engWords.all fun w => engReady task false w) = true ∧ engReady radioTask false (engWord 0x10 0) = true
    ∧ engReady task true (engWord 0x10 0) = true
    ∧ mayTile .m0 0 = true := by decide +kernel

/-- EngineLanes and EngineWritesBack: each operation gives a vector, and no S3. -/
theorem witness_lanes :
    ([0x10, 0x11, 0x18, 0x19, 0x1A, 0x1B, 0x1C, 0x1D, 0x1E].all fun op => (engCompute (engWord op 0) {}).vec.isSome && (engCompute (engWord op 0) {}).s3.isNone) = true
    ∧ ([0x10, 0x11, 0x1A, 0x1B].all fun op => (engCompute (engWord op 1) {}).vec.isSome) = true
    ∧ (engCompute (engWord 0x10 0 32768) {}).vec.isSome = true := by decide +kernel

/-- A pad operation descriptor: CMPCNT and CMPINC of bytes from offset 64. -/
def padD (op : Nat) : Bytes := leBytes 32 (op + 2 ^ 70 + 2 ^ 96 + (if op = 2 then 2 ^ 224 else 0))

/-- CompareStarts. -/
theorem witness_compare :
    ∀ op ∈ [1, 2], ∀ k ∈ [task, radioTask], let o : PadOp := { ctx := 0, owner := k.owner, radio := k.radio, desc := padD op, earliest := on.now }
      let s := withTask k {} { cmp := { pend := [o] } }
      (s.cmp 0).head = some o ∧ s.ctx 0 o.ctx = some k ∧ s.now = o.earliest ∧ (s.cmp 0).run = none ∧ poFault k o.desc = none
      ∧ s.poHeld 0 (poT k.base o.desc) = false ∧ poOp o.desc = op := by decide +kernel

/-! ## Pads, zones, flits and links -/

/-- A state with a pad changed. -/
def withPad (f : Pad → Pad) : State := { on with pads := on.pads.set 0 (f (on.pads.get 0)) }

/-- Tile 0's pad in the default map is physical tile 0. -/
theorem witness_pads :
    (on.ptile 0 = 0 ∧ (on.pad 0).sweep = none ∧ bit (0x140 : W64) 8 = true ∧ bits (0x140 : W64) 6 0 ≠ 0x7F)
    ∧ (let s := withPad fun p => { p with sweep := some (0x40, on.now - 3072) }
       (s.pads.get 0).sweep = some (0x40, on.now - 3072) ∧ s.now = on.now - 3072 + 3072)
    ∧ (let s := withPad fun p => { p with held := [0x40], sweepFree := on.now }
       (s.pads.get 0).held = [0x40] ∧ (s.pads.get 0).sweep = none ∧ s.now = (s.pads.get 0).sweepFree)
    ∧ (let s := withReg on .padCtrl 1
       patrolDue 0 s = true ∧ let r := ((s.pad 0).row (s.pad 0).patrol).upset 1 0
       r.metaBad ≠ 2 ∧ rsDecode r.code = .corrected 0)
    ∧ (let s := withPad fun p => { p with failing := [rowOfBank 3 5] }
       regrowDue 0 3 5 s = true ∧ (s.pad 0).bankSpares 3 < 32)
    ∧ ({ regrow := some (5, on.now, {}) } : Pad).writes = [] := by decide +kernel

/-- PAD_LZ_CFG of a ring of four units of tag 0, fed by stop code 0. -/
def zoneV : W64 := BitVec.ofNat 64 (2 ^ 56 + 4 * 2 ^ 18)

/-- A flit that has landed. -/
def landed (p : Payload) : Flit := { id := 0, due := 0, payload := p }

/-- ZonesComplete. -/
theorem witness_zones :
    (let s := withReg on .padLzCfg zoneV
     let c := s.rget (zcfg 0 0)
     let rd := BitVec.ofNat 32 (s.fget (zrd 0 0) 31 0)
     nackReason c rd 0 0 0 = none ∧ nackReason c rd 0 0 1 = some 2 ∧ nackReason c rd (0xFFFFFFFF#32) 0 0 = some 4 ∧ nackReason c rd 4 0 0 = some 3
     ∧ nackReason c rd 0 1 0 = some 5 ∧ nackReason 0 rd 0 0 0 = some 1 ∧ s.landRows 0 ≤ 4 ∧ zTenant c = false)
    ∧ (landed (.nack 0 (some (0, 0)) 1)).due ≤ on.now ∧ (landed (.grant 3 0 0 4)).due ≤ on.now
    ∧ (on.mayZone .m0 0 (zOwner (on.rget (zcfg 0 0))) (zOwner zoneV) = true
       ∧ on.ctl.moved.any (fun m => m.1 == on.now && m.2.contains 0) = false ∧ zEn (on.rget (zcfg 0 0)) = false
       ∧ let v := (zcfg 0 0).store (on.rget (zcfg 0 0)) zoneV
         zEn v = true ∧ zUnits v ≠ 0 ∧ zBase v + 256 * zUnits v ≤ 0xC00000)
    ∧ (let s := withReg on .padLzCfg zoneV
       let old := BitVec.ofNat 32 (s.fget (zrd 0 0) 31 0)
       (4#32 - old).toNat ≠ 0 ∧ (4#32 - old).toNat ≤ zUnits (s.rget (zcfg 0 0))) := by decide +kernel

/-- A queued radio send of tile 0 to tile 1, a queued leg, a flushed record and a tenant transfer. -/
def sendQ : RadioQ := { flow := .declared 0 0, tile := 0, ctx := 0, owner := 0, dest := 1, zone := 0, unit := 0, addr := 0, left := 1, earliest := 0 }
def legQ : RadioQ := { sendQ with flow := .leg 0 0 0, dest := 0, memx := some (7, 0) }
def legM (op : Fin 4) : MemX := { id := 7, tile := 0, ctx := 0, owner := 0, radio := true, op := op, addr := 0, pad := 0, lines := 160, issued := 0 }
def recQ : ZoneRec := { tile := 0, zone := 0, rim := 0, owner := 0, earliest := on.now, units := [(0, 0)] }
def xferQ : Xfer := { id := 3, tile := 0, ctx := 0, owner := 0x40, dest := 1, zone := 0, unit := 0, addr := 0, left := 1, issued := 0 }

/-- FlitsLeave. -/
theorem witness_flits :
    (let q := { sendQ with earliest := on.now }
     let s : State := { on with mesh := { slots := flows, radioQ := [q], grants := [(grantKey 0 1 0, 1)] } }
     s.mesh.crossings.any (·.of (.declared 0 0)) = false ∧ (s.flowOf (.declared 0 0)).map (·.phases) = some [0]
     ∧ s.now = s.firstOwned [0] (later q.earliest (s.freeAt (.declared 0 0))) ∧ s.readLeg q = false ∧ q.memx = none ∧ 0 < q.left
     ∧ s.hasCredit q.tile.val q.dest q.zone q.unit = true)
    ∧ (let q := { legQ with earliest := on.now + 1 }
       let s : State := { on with time := { on.time with now := on.now + 1 }, mesh := { slots := flows, radioQ := [q] }, mem := { memx := [legM 1] } }
       (s.flowOf (.leg 0 0 0)).map (·.phases) = some [1] ∧ s.now = s.firstOwned [1] (later q.earliest (s.freeAt (.leg 0 0 0)))
       ∧ (s.mem.memx.find? fun m => decide (m.id = 7)) = some (legM 1) ∧ s.readLeg q = false ∧ q.memx = some (7, 0))
    ∧ (let x : Crossing := { rim := 0, flow := .declared 0 0, zone := some (0, 0), tile := 0, nominal := on.now, sent := on.now - 24, payload := .landing [] }
       let s : State := { on with mesh := { slots := flows, crossings := [x] } }
       x.of (.zone 0 0) = true ∧ s.now = s.firstOwned [0] (later (x.sent + 24) (s.freeAt x.flow)) ∧ ¬ x.nominal + 64 < s.now)
    ∧ (let fl : FlowSlot := { flow := .declared 0 0, src := 64, dest := 0, rate := 1, phases := [0] }
       let s : State := { on with mesh := { slots := [fl], grants := [(grantKey 64 0 0, 1)] }, radio := { zoneQ := [recQ] } }
       s.nextRecord fl = some (recQ, []) ∧ ¬ s.now + 24 < recQ.earliest ∧ s.hasCredit (64 + recQ.rim.val) recQ.tile.val recQ.zone.val 0 = true)
    ∧ (∀ r ∈ [none, some 0], let x := { xferQ with next := on.now, rim := r }
       let s : State := { on with mesh := { xfers := [x], grants := [(grantKey 0 1 0, 1)] } }
       s.xferTurn 3 = true ∧ 0 < x.left ∧ x.next = s.now ∧ s.open_ (outPort (stopOf (s.ptile x.tile))) s.now = true
       ∧ s.hasCredit x.tile.val x.dest x.zone x.unit = true) := by decide +kernel

/-- LinksComplete. -/
theorem witness_links :
    (on.boot.dies = false ∧ (on.link (linkKey 1 5)).retrain = none)
    ∧ (let s : State := { on with mesh := { links := [(linkKey 1 5, { replays := 3, replayAt := on.now - 64 })] } }
       s.now = (s.link (linkKey 1 5)).replayAt + 64 ∧ (s.link (linkKey 1 5)).replays + 1 = 4 ∧ (s.link (linkKey 1 5)).retrain = none)
    ∧ (let s := withReg on .fabPeer 2
       s.peerBit (s.chipAt 0) 1 = true ∧ ¬ s.now = (s.link 288).replayAt + 64)
    ∧ (let s : State := { on with mesh := { links := [(linkKey 1 5, { retrain := some on.now })] } }
       (s.link (linkKey 1 5)).retrain = some on.now)
    ∧ (let x : Flit := { id := 0, due := on.now, deadline := some (on.now - 1), payload := .egress 0 0 0 0 0 [] }
       on.lateAt (.declared 0 0) x = some 0)
    ∧ (let c : Crossing := { rim := 0, flow := .declared 0 0, tile := 0, nominal := on.now - 65, sent := on.now - 89, payload := .landing [] }
       c.of (.declared 0 0) = true ∧ on.now = c.nominal + 65) := by decide +kernel

/-- EventsComplete. -/
theorem witness_events :
    (let k := { task with fence := some 0 }
     (withTask k {}).ctx 0 0 = some k ∧ (withTask k {}).busy 0 0 = false)
    ∧ (withTask { task with fence := some 1 } {}).frtAny 0 0 true = false
    ∧ bit (3 : BitVec 16) 15 = false
    ∧ ((withTask task {}).ten.tag = 0x40 ∧ (withTask task {}).ten.state ≠ .closed)
    ∧ (let r : Ring := { base := 0, cons := 0, prod := 0, entries := 4, vec := 0, irq := false, compl := true }
       r.entries ≠ 0 ∧ r.full = false) := by decide +kernel

/-! ## External memory -/

/-- A fabric transfer of one line, a read whose line has come or a write handed to the agent. -/
def frt (write : Bool) : FrtRun :=
  { id := 5, tile := 0, ctx := 0, owner := 0x40, entry := leBytes 32 ((if write then 2 else 0) + 2 ^ 16), stage := 1, got := [(0, (7, false))] }

/-- A line request of a gather half. -/
def lineQ (op : LineOp) : LineReq := { id := 1, src := .gather 0, line := 0, op := op, dest := .gather 0 0, issued := 0 }

/-- FabricBurstCompletes, for both directions, and MemoryCompletes. -/
theorem witness_memory :
    (let s : State := { withTask task {} with time := { on.time with now := on.now + 320 }, fab := { frts := [frt false] } }
     (s.fab.frts.find? fun r => decide (r.id = 5)) = some (frt false) ∧ s.ten.state ≠ .closing ∧ s.ten.state ≠ .closed ∧ frWrite (frt false).entry = false
     ∧ frLines (frt false).entry ≤ (frt false).got.length ∧ s.frBase (frt false).entry + frLines (frt false).entry ≤ memLines
     ∧ (∀ w ∈ [false, true], s.canMove (span (s.frBase (frt false).entry) (frLines (frt false).entry) w) = true))
    ∧ (frWrite (frt true).entry = true ∧ (frt true).stage = 1)
    ∧ (let s : State := { on with mem := { want := [lineQ .read] } }
       chanOf (lineQ .read).line = 0 ∧ nextSource (s.chan 0).rr ((s.mem.want.filter fun x => decide (chanOf x.line = 0)).map fun x => srcNum x.src) = some 512
       ∧ (s.chan 0).accepted.length < 52 ∧ s.orderedMode = false)
    ∧ (∀ q ∈ [lineQ .read, lineQ (.write 7 false), lineQ (.accInt 7), lineQ (.accFp 7), { lineQ (.accInt 7) with second := some (7, false, 0) }],
        let s : State := { on with time := { on.time with now := on.now + 320 }, mem := { chans := on.mem.chans.set 0 { accepted := [q] } } }
        let v := (s.strike 0 0 0).inGroup 0
        (v.chan 0).used < s.openSlots s.now ∧ s.mem.scrub = none ∧ v.mem.hasRoom q.line = true
        ∧ pickOp (s.groupStart s.now) (tenantGroup (s.groupOf s.now)) [] (v.chan 0).accepted = some q
        ∧ rsDecode (v.mem.word q.line) = .clean 0 ∧ rsDecode (s.mem.word 0 ^^^ 0) = .clean 0 ∧ rsDecode (s.mem.word 0 ^^^ 1) = .corrected 0)
    ∧ (let e : ChkEntry := { valid := 1 }
       let s : State := { on with time := { on.time with now := on.now + 320 }, mem := { cache := [(2 ^ 20 * 41 + 3, e)] } }
       tfind (2 ^ 20 * 41 + 3) s.mem.cache = some e ∧ 41 / 40 = 1 ∧ e.dirty = true ∧ e.valid ≠ 0xFFFFFFFF ∧ ((s.inGroup 41).chan 41).wb + 2 ≤ s.wbSlots)
    ∧ (∀ used ∈ [0, 1675], let s : State := { on with mem := { chans := on.mem.chans.set 0 { failing := [9], sparesUsed := used } } }
       (s.chan 0).repair = none ∧ (s.chan 0).failing = [9])
    ∧ (mayMem .m0 = true ∧ bit (0x100000900 : W64) 32 = true ∧ bits (0x100000900 : W64) 7 0 < 160 ∧ bits (0x100000900 : W64) 26 8 < 486606)
    ∧ (bit (1 : W64) 0 = true ∧ on.mem.scrub = none)
    ∧ (({ on with mem := { scrub := some ([(0, 160)], 0) } } : State).mem.scrub = some ([(0, 160)], 0)) := by decide +kernel

/-- MemoryCompletes: the steps of a row repair, reads and writes. -/
theorem witness_repair :
    ∀ step ∈ [0, 31, 32, 63, 64], let r : RowRepair := { row := 9, spare := 486606, step := step }
      let s : State := { on with time := { on.time with now := on.now + 320 }, mem := { chans := on.mem.chans.set 0 { repair := some r } } }
      let v := s.inGroup 0
      (s.chan 0).repair = some r ∧ (v.chan 0).repair = some r ∧ tenantGroup (s.groupOf s.now) = true ∧ s.mem.scrub = none
      ∧ (step < 32 → (rowLine 0 9 step).any fun line => decide ((v.chan 0).used + 2 ≤ s.openSlots s.now ∧ rsDecode (v.mem.word line) = .clean 0))
      ∧ (32 ≤ step → step < 64 → (v.chan 0).used + 1 ≤ s.openSlots s.now) := by decide +kernel

/-! ## Fronthaul and the ports -/

/-- A part with fronthaul port 0 on lane 0, its link up, and stream 0 of rim 0. -/
def fhOn : State :=
  withReg (withReg (withReg { on with radio := { rims := on.radio.rims.set 0 { streams := [(0, {})] } } } .fhpStatus 3) .fhpCfg 1) .radFkey (BitVec.ofNat 64 (2 ^ 34))

/-- A U-plane frame without sections whose air instant is the cycle of `on`. -/
def fhF (ts16 : Nat) : FhFrame :=
  { port := 0, ts16 := ts16, len := 64, tagged := false, vid := 0, eaxc := 0, seqId := 0, frameId := 0, subframeId := 0, slotId := 0, symbolId := 0,
    downlink := false, sections := [] }

/-- The fronthaul part some cycles later. -/
def fhLater (n : W64) : State := { fhOn with time := { on.time with now := on.now + n } }

/-- FronthaulCompletes: ports, frames that the MAC counts, a frame early, in its window and late, a frame of no stream; a record and a gain
decision due. -/
theorem witness_fronthaul :
    ((fhOn.lane 1 0).isSome = true ∧ bit (fhOn.rget ⟨.fhpStatus, fhOn.fhLane 0, 0⟩) 0 = true ∧ fhOn.rimOfFh 0 = 0 ∧ fhOn.fget ⟨.atbTscorr, 0, 0⟩ 15 0 = 0)
    ∧ (∀ d ∈ [0, 1], let ts := 16 * on.now.toNat + d
       let s := fhLater 226
       s.parsedNow (fhF ts) = true ∧ 64 ≤ (fhF ts).len ∧ (fhF ts).len ≤ s.maxFrame (s.fhLane 0) ∧ headFault (fhF ts) = none
       ∧ s.classify 0 (fhF ts) ts = some (0, s.streamRegs 0 0, some on.now)
       ∧ sectionsFault (s.streamRegs 0 0) (appOffset (fhF ts) + 4) [] = none ∧ 16 * (on.now.toNat + bits (s.streamRegs 0 0).ftime 20 0) ≤ ts
       ∧ (d = 0 → ts ≤ 16 * (on.now.toNat + bits (s.streamRegs 0 0).ftime 41 21)) ∧ (d = 1 → 16 * (on.now.toNat + bits (s.streamRegs 0 0).ftime 41 21) < ts))
    ∧ (let ts := 16 * on.now.toNat - 16
       let s := fhLater 225
       s.parsedNow (fhF ts) = true ∧ s.classify 0 (fhF ts) ts = some (0, s.streamRegs 0 0, some on.now) ∧ ts < 16 * (on.now.toNat + bits (s.streamRegs 0 0).ftime 20 0))
    ∧ (let f := { fhF (16 * on.now.toNat) with fcsOk := false, len := 63, etherType := 0x8808, revision := 2, eaxc := 1 }
       let g := { f with len := 64 }
       (fhLater 226).parsedNow f = true ∧ (fhLater 226).parsedNow g = true ∧ f.len < 64 ∧ headFault f = some 14 ∧ (fhLater 226).classify 0 f 0 = none)
    ∧ (tget {} (fhOn.radio.rims.get 0).streams 0).seq = none
    ∧ (fhOn.radio.rims.get 0).clsWaiting on.now < 512 ∧ 512 ≤ ({ clsFree := on.now + 1025 } : RimSt).clsWaiting on.now
    ∧ flushDue 0 0 on.now { fhOn with time := { on.time with now := on.now + 622 } } = true
    ∧ gainDue 0 0 { fhOn with time := { on.time with now := on.now - 70144 + 623 } } = true := by decide +kernel

/-- A message header of a one-byte message, on time or late, and the ring that holds it. -/
def msgHead (air : Nat) : Bytes := leBytes 64 (2 ^ 32 + 2 ^ 64 * air)
def ringOn (air st : Nat) : State :=
  withReg { fhOn with
      radio := { rims := on.radio.rims.set 0 { templates := [(0, (0, leBytes 16 0))], rings := [(0, [(BitVec.ofNat 2048 (2 ^ 32 + 2 ^ 64 * air), on.now - 32)])] } }
      ctl := { slices := on.ctl.slices.set 0 { cells := [(0, { payload := leBytes 64 0, st := st })] } }
      ports := [(0, { ucells := [(0, 0)] })] } .fhpQ (BitVec.ofNat 64 (2 ^ 21 + 2 ^ 24)) 0 64

/-- EgressMessageCompletes: in time, too late, and in a muted cell. -/
theorem witness_egress :
    (∀ air ∈ [0, 1000000000000000000], ∀ st ∈ [1, 2], let s := ringOn air st
     s.ringWith 0 0 (msgHead air) [0] = some 0 ∧ tfind (fld (msgHead air) 0 2) (s.radio.rims.get 0).templates = some (0, leBytes 16 0)
     ∧ (tfind (tmplCell (leBytes 16 0)) (s.ctl.slices.get 0).cells).map (·.st) = some st ∧ fld (leBytes 16 0) 3 1 % 2 = 0
     ∧ fld (msgHead air) 2 1 ≤ 1 ∧ ([0] : Bytes).length + 42 ≤ s.maxFrame (s.fhLane 0))
    ∧ (let s := ringOn 1000000000000000000 1
       let b := State.egressFrame (leBytes 16 0) false true (s.off 1000000000000000000) 0 [0]
       ((s.portSt 0).ucells.findIdx? fun x => decide (x = ((0 : Fin 64), (0 : Fin 512)))).getD 64 = 0 ∧ s.isEthernet 0 = true ∧ bit (s.qReg 0 64) 21 = true
       ∧ heldBytes (tget [] (s.portAll 0).queues 64) + wireLen b ≤ 1024
       ∧ (0 : W64) + BitVec.ofNat 64 (fld (leBytes 64 0) 24 4) ≤ 1000000000000000000 ∧ (1000000000000000000 : W64) < 1000000000000000001
       ∧ wireLen b ≤ 1024 ∧ ¬ (1000000000000000000 : W64) ≤ s.now + BitVec.ofNat 64 (s.occupancy 0 (s.cost 0 b))) := by decide +kernel

/-- A port whose queue 0 holds a frame. -/
def queued (quantum : Nat) : State :=
  withReg { fhOn with ports := [(0, { queues := [(0, [leBytes 60 0])], cur := [0] })] } .fhpQ (BitVec.ofNat 64 (2 ^ 21 + quantum))

/-- The fronthaul part with a transmit window at the start of each slot. -/
def windowOn (s : State) : State := withReg s .fhpTtw (BitVec.ofNat 64 (2 ^ 44 + 20000 * 2 ^ 21))

/-- PortsComplete. -/
theorem witness_ports :
    (fhOn.isEthernet 0 = true ∧ bit ((queued 2000).qReg 0 0) 21 = true)
    ∧ (windowOn fhOn).ttwAt 0 0 on.now = some (on.now, on.now + 20000)
    ∧ (let s : State := { windowOn fhOn with time := { on.time with now := on.now + 20000 } }
       s.ttwAt 0 0 (s.now - 1) = some (on.now, s.now))
    ∧ (let s := windowOn (queued 2000)
       let t := s.now + 128
       s.isEthernet 0 = true ∧ bit (s.rget ⟨.fhpStatus, 0, 0⟩) 0 = true ∧ s.txIdle t = false ∧ (s.portSt 0).freeAt ≤ t
       ∧ (s.ttwOpen 0 t).map (·.2) = some (on.now + 20000)
       ∧ ((s.portSt 0).queues.find? fun x => decide (0 ≤ x.1 ∧ x.1 ≤ 0)) = some (0, [leBytes 60 0])
       ∧ t + BitVec.ofNat 64 (s.occupancy 0 (s.cost 0 (leBytes 60 0))) ≤ on.now + 20000)
    ∧ (let s := queued 2000
       s.ttwOpen 0 (s.now + 128) = none ∧ (s.drrPick 0 2400000).1 = some (0, leBytes 60 0) ∧ s.ttwNext 0 (s.now + 128) = none)
    ∧ (fhOn.isPort 0 = true ∧ bit ((withReg fhOn .fhpStatus 0).rget ⟨.fhpStatus, 0, 0⟩) 0 = false ∧ (withReg fhOn .fhpStatus 0).isPort 0 = true) := by decide +kernel

/-! ## Messages -/

/-- A message of a sender in slot 0 of PF0. -/
def msg (op : Nat) (payload : Bytes := []) (sender : Sender := .manager) (slot : SlotId := .pf0 0) : Msg :=
  { slot := slot, seq := 1, opcode := op, vec := none, pasid := 0, wpasid := none, sender := sender, raddr := 0, rlen := 1024, payload := payload, taken := on.now }

/-- A state in which the message is the only one taken. -/
def sent (s : State) (m : Msg) : State := { s with mbx := { s.mbx with taken := [m] } }

/-- A read of two registers and a write of the second name one object; a write of the next does not (R444). -/
theorem test_sameObject : sameObject 0x0701 (leBytes 8 0x4100000000 ++ leBytes 8 2) 0x0702 (leBytes 8 0x4100000008 ++ leBytes 8 0) = true
    ∧ sameObject 0x0701 (leBytes 8 0x4100000000 ++ leBytes 8 2) 0x0702 (leBytes 8 0x4100000010 ++ leBytes 8 0) = false := by decide +kernel

/-- `State.msg` holds of a message that is alone, in every state without one. -/
theorem witness_msg (s : State) (m : Msg) (ht : s.mbx.taken = []) (hw : s.mbx.waiting = []) : (sent s m).msg m.opcode m.slot m s := by
  refine ⟨rfl, rfl, [], [], rfl, by simp, by simp [sent, hw], by simp, ?_⟩
  cases s with
  | mk r t ti p tm me mem ten ctl mbx co lg po ra fa bo sp pc pk te bd o f pe => cases mbx; simp_all [sent]

/-- A tenant image of one record, one END and one kernel entry, with its digest. -/
def tenantBody : Bytes :=
  leBytes 16 (1 + 192 * 2 ^ 32 + 32 * 2 ^ 64 + 2 ^ 96) ++ leBytes 16 (2 + 256 * 2 ^ 32 + 8 * 2 ^ 64 + 2 ^ 96) ++ leBytes 16 (10 + 320 * 2 ^ 32 + 16 * 2 ^ 64 + 2 ^ 96) ++ leBytes 16 0
    ++ leBytes 64 (1 + 0xFF * 2 ^ 16 + 64 * 2 ^ 64 + 0xFFFF * 2 ^ 112 + 2 ^ 160) ++ leBytes 64 0x10F ++ leBytes 64 0
def tenantImage : Bytes := leBytes 16 (0x49535649 + 2 ^ 32 + 2 ^ 48 + 0xB1 * 2 ^ 56 + 384 * 2 ^ 64 + 3 * 2 ^ 96) ++ hash48 tenantBody ++ leBytes 64 0 ++ tenantBody

/-- The digest that the image gives is that of its bytes 128 on. -/
theorem tenantImage_hash : slice tenantImage 16 48 = hash48 (slice tenantImage 128 (fld tenantImage 8 4 - 128)) := by
  have h : slice tenantImage 128 (fld tenantImage 8 4 - 128) = tenantBody := by decide +kernel
  rw [h]; rfl

/-- The image holds against R188. -/
theorem tenantImage_ok : imageBad tenantImage true false = [] := by
  have h : headerBad tenantImage true false tenantImage.length = [] := by
    unfold headerBad
    simp only [tenantImage_hash, decide_true]
    decide +kernel
  unfold imageBad
  simp only [h]
  decide +kernel

/-! ## The tenant's epoch -/

/-- An epoch in a state, with an image of one record for any tile and a part of the run list. -/
def epoch (st : EpochState) (l : List RunEntry := []) : State :=
  { on with ten := { state := st, tag := 0x40, image := some { recs := [leBytes 32 (1 + 0xFF * 2 ^ 8 + 64 * 2 ^ 64)] }, runList := l } }

/-- EpochMessagesComplete. -/
theorem witness_epoch :
    (on.ten.state = .closed ∧ on.mem.scrub = none ∧ on.sweeping on.nextTag = false ∧ on.openBad { win0 := winOf [] 16, win1 := winOf [] 24 } = [] ∧ on.offsetPending = false)
    ∧ ((epoch .opened).ten.unsealFailed = false ∧ (epoch .opened).ten.unsealing = none ∧ (epoch .opened).ten.ordered = false)
    ∧ (let p := leBytes 24 1
       fld p 0 2 = 1 ∧ (((epoch .loaded).ten.image.bind fun i => i.recs[fld p 12 4]?).any recTenant) = true ∧ (epoch .loaded).ten.runList = [])
    ∧ ((epoch .loaded).ten.suspendAt = none ∧ (epoch .suspended).mayResume = true)
    ∧ ((msg 0x0502).sender = .manager ∧ SlotId.pf0 0 ∉ on.mbx.lostReports) := by decide +kernel

/-- The source buffer of the image's length holds the image. -/
theorem tenantImage_bytes : imageBytes tenantImage 384 = tenantImage := by
  have h : tenantImage.take 384 = tenantImage := List.take_of_length_le (by decide +kernel)
  have n : fld tenantImage 8 4 = 384 := by decide +kernel
  unfold imageBytes
  simp only [h, n, ite_self]

/-- EpochMessagesComplete: IMAGE_LOAD takes the image. -/
theorem witness_imageLoad : imageBytes tenantImage 384 = tenantImage ∧ imageBad tenantImage true false = [] ∧ overBound 3 (imageOfBytes tenantImage) = [] :=
  ⟨tenantImage_bytes, tenantImage_ok, by decide +kernel⟩

/-- EpochEventsComplete. -/
theorem witness_epochEvents :
    (let e : RunEntry := { entry := 7, recIdx := 0, in1 := none, in2 := none }
     let s : State := { epoch .loaded [e] with tiles := on.tiles.set 5 { tenAlloc := some (0, 1) } }
     let r := leBytes 32 (1 + 5 * 2 ^ 8 + 64 * 2 ^ 64)
     (s.ten.runList.find? fun e => decide (e.entry = 7)) = some e ∧ s.ten.suspendAt = none ∧ s.level ≠ 15 ∧ s.inputDone e.in1 = true
     ∧ (s.place e r).1 = some 5 ∧ s.freeCtx 5 = some 0 ∧ (s.tiles.get 5).tenAlloc = some (0, 1) ∧ (s.tiles.get 5).swapHold = false
     ∧ bit (s.rget (treg .schCtrl 5)) 0 = false ∧ (startTask r 0 .epoch 0x40 0 1 {} {} s.now).isSome = true)
    ∧ (let s : State := { epoch .loaded [{ entry := 7, recIdx := 0, in1 := none, in2 := none, running := some (0, 0) }] with
         tiles := on.tiles.set 0 { ctx := (Vector.replicate 8 none).set 0 (some { task with entry := some 7, timer := 9000 }) } }
       noProgress 7 s = some 0)
    ∧ 2048 ≤ (on.now - xferQ.issued).toNat ∧ xferQ.dead = false ∧ task.dropped = false
    ∧ 196608 ≤ (on.now - (on.now - 196608)).toNat
    ∧ ((withReg (epoch .loaded) .tenEnd on.now).rget (creg .tenEnd) ≤ on.now)
    ∧ drainOver { on with ten := { state := .closing, closeAt := some (on.now - 5) } } = true
    ∧ ((some on.now).any (fun v => decide (v ≤ on.now))) = true
    ∧ (let s := withReg (epoch .loaded) .padLzCfg (BitVec.ofNat 64 (2 ^ 39)) 3 0
       let v : State := { s with mesh := { grants := [(grantKey 68 3 0, 4)] } }
       v.commandHeld 3 = false ∧ zTenant (v.rget (zcfg 3 0)) = true ∧ v.hasCredit 68 3 0 (0 + BitVec.ofNat 32 0) = true)
    ∧ (∀ n ∈ [0, 33 * scrubUnits [(0, 160)]], let s : State := { on with mem := { scrub := some ([(0, 160)], n), scrubEpoch := true }, ten := { state := .closing } }
       s.mem.scrub = some ([(0, 160)], n) ∧ s.ten.state = .closing ∧ (n = 0 → n < 33 * scrubUnits [(0, 160)])) := by decide +kernel

/-- PowerCompletes. -/
theorem witness_power :
    on.cores.m0Up = true ∧ 1966080 ≤ (on.now - on.ten.powerAt).toNat
    ∧ (let s : State := { on with ten := { therm := 3 } }
       s.ten.therm = 3 ∧ s.ten.shedAt = none)
    ∧ ({ radioOn {} with ten := { therm := 3 } } : State).shedNext = [] := by decide +kernel

/-- A gather job of a kind: table 0, one index in zone 0 of tile 0, rows to zone 1. -/
def job (kind : Nat) : Bytes := leBytes 32 (kind + 2 ^ 32 + 2 ^ 136)

/-- A loaded epoch with a table of four rows in window 0 and a running job. -/
def gatherOn (kind : Nat) (next : Nat := 0) : State :=
  withReg { on with ten := { state := .loaded, tag := 0x40, cfg := { win0 := { base := 0, bound := 1, valid := true } }, halves := on.ten.halves.set 0 { jobs := [{ desc := job kind, next := next }] } },
                    mesh := { grants := [(grantKey (128 + halfStop 0) 0 1, 4)] } } .tenGtab (BitVec.ofNat 64 (2 ^ 61 + 4 * 2 ^ 32))

/-- GatherCompletes. -/
theorem witness_gather :
    (mayTen .m0 = true ∧ gjHalf (job 1) = 0 ∧ (gatherOn 1).jobFull (job 1) = false)
    ∧ (∀ k ∈ [1, 2, 3, 4, 5], let s := gatherOn k
       s.runningJob 0 = some { desc := job k } ∧ 0 < gjCount (job k) ∧ (s.jobIndex 0 (job k) 0).1 = 0 ∧ (s.gtLine (s.rget (creg .tenGtab 0)) 0).isSome = true
       ∧ gjKind (job k) = k ∧ s.rowCredit 0 (job k) ((gjDst (job k)).2.2 + 0 * gtUnits (s.rget (creg .tenGtab 0))) (gtUnits (s.rget (creg .tenGtab 0))) = true
       ∧ s.dirFind 0 0 = none ∧ (s.dirWays (dirSet 0 0)).all (·.isSome) = false)
    ∧ ((gatherOn 1 1).runningJob 0 = some { desc := job 1, next := 1 } ∧ gjCount (job 1) ≤ 1) := by decide +kernel

/-- A loaded or suspended epoch with key 0 and a seal or an unseal under way. -/
def keyed (st : EpochState) (run : Option SealRun := none) (back : Option UnsealRun := none) : State :=
  { on with ten := { (epoch st).ten with keys := on.ten.keys.set 0 (some { key := 0, genNum := 0 }), sealing := run, unsealing := back, wrap := some 0 } }

/-- SealsComplete and KeysComplete. -/
theorem witness_seals :
    ((keyed .loaded).gen (keyed .loaded).curGen = some { key := 0, genNum := 0 } ∧ (keyed .loaded).ten.image.isSome = true)
    ∧ (∀ len ∈ [0, 1000], let r : SealRun := { slot := .pf0 0, gen := 0, id := 0, todo := some [.head 0 [7]], addr := 0, len := len }
       let s := keyed .suspended (some r)
       s.ten.sealing = some r ∧ s.ten.state = .suspended ∧ s.saving = false ∧ s.sealTodo r = [.head 0 [7]] ∧ s.gen r.gen = some { key := 0, genNum := 0 }
       ∧ (SealPart.head 0 [7]).home.any s.commandHeld = false ∧ s.partOpen (.head 0 [7]) = true)
    ∧ ({ keyed .suspended with time := { on.time with now := on.now + 320 } } : State).partOpen (.dram 0 0 1024) = true
    ∧ ((epoch .opened).ten.sealing = none ∧ (epoch .opened).ten.unsealing = none)
    ∧ (let r : UnsealRun := { slot := .pf0 0, addr := 0, len := 10 }
       (keyed .opened none (some r)).ten.unsealing = some r ∧ (chunkHome (leBytes 81 0)).any (keyed .opened none (some r)).commandHeld = false
       ∧ r.len < r.done + (leBytes 81 0).length)
    ∧ ((keyed .loaded).ten.wrap = some 0 ∧ (keyed .loaded).gen 1 = none ∧ ((keyed .loaded).gen 0).isSome = true)
    ∧ (let s := withReg (keyed .loaded) .tenKeys (BitVec.ofNat 64 16)
       s.curGen ≠ 0 ∧ s.genBusy 0 = false) := by decide +kernel

/-! ## Settings and accesses -/

/-- A fabric request table entry: a read of one line of this chip's window 0. -/
def frtEntry : Bytes := leBytes 32 (1 + 2 ^ 16 + 2 ^ 108)

/-- SettingsComplete. -/
theorem witness_settings :
    (let s : State := { on with ctl := { slices := on.ctl.slices.set 3 { nslot := 1, vec0 := 8, nvec := 2 } } }
     fld (msg 0x0104 (leBytes 40 0) (.slice 3)).payload 28 2 % 2048 < (s.vectors (.slice 3)).2)
    ∧ (let s : State := { epoch .loaded with board := { members := 1 }, ten := { (epoch .loaded).ten with cfg := { win0 := { base := 0, bound := 1, valid := true } } } }
       ∀ i ∈ s.ten.image.toList, s.frtBad i 0 frtEntry = [])
    ∧ regWidens (on.rget (creg .fabReg 0)) ((creg .fabReg 0).store (on.rget (creg .fabReg 0)) 0x1FF) = true
    ∧ (let s := withReg on .fabReg (BitVec.ofNat 64 (2 ^ 64 - 1))
       regWidens (s.rget (creg .fabReg 0)) ((creg .fabReg 0).store (s.rget (creg .fabReg 0)) 0) = false ∧ s.fab.callBack = none)
    ∧ ((on.pad 0).bankSpares 0 < 32 ∧ (on.ctl.swap.any fun c => decide (c.1 = 0)) = false ∧ (on.chan 0).sparesUsed < 1675) := by decide +kernel

/-- AccessesComplete. -/
theorem witness_accesses :
    ([RegName.arrSave, .arrCtrl, .padCtrl, .schCtrl, .memCtrl, .memScrubWin, .fabGw, .fabOkey, .fabLmap, .atbServo, .atbHold, .tenTherm, .tenCtrl, .pciB4base, .pciDbgwin].all
      fun n => (Reg.ofAddr (creg n).addr == some (creg n)) && mayWrite .m0 (creg n)) = true
    ∧ Reg.ofAddr (creg .atbNow).addr = some (creg .atbNow)
    ∧ mgmtReg .atbServo = true
    ∧ (on.bar4Addr 0 + 64 ≤ 0x2400000000 ∧ on.scrubRef (on.bar4Addr 0) 64 = false ∧ on.bar4Addr 0 % 64 = 0)
    ∧ (let w := (withReg on .pciDbgwin (BitVec.ofNat 64 (2 ^ 48))).rget (creg .pciDbgwin)
       bit w 48 = true ∧ bits w 47 24 * 2 ^ 24 + 0 % 2 ^ 24 < 0x2400000000)
    ∧ (let s : State := { on with time := { on.time with now := on.now + 320 } }
       s.canMove (dramSpan 0 4096) = true ∧ s.memReadOpen (msg 0x0703 (leBytes 16 (64 * 2 ^ 64))) = true ∧ s.canMove (span (s.bar4Addr 0 / 64) 1 false) = true
       ∧ s.canMove (writeOps (s.bar4Addr 0) (leBytes 64 0)) = true ∧ on.log.mgmtAt ≠ some on.now) := by decide +kernel

/-! ## The clutch and the gateway -/

/-- Chip 0 of a clutch of chips 0 and 1, whose link at port 0 is up, with region entry 0 open to every chip and the gateway under key 7. -/
def clutchOn (f : Fabric := {}) : State :=
  withReg (withReg (withReg { on with board := { members := 3 }, fab := f } .fabPeer 2 0 1) .fabClink (BitVec.ofNat 64 (2 ^ 24))) .fabReg
    (BitVec.ofNat 64 (2 ^ 8 * 0xFFF + 7 * 2 ^ 32))

/-- A frame of chip 1 for line 0. -/
def frameOf (hasData : Bool := false) : KFrame := { src := 1, dst := 0, hasData := hasData, poison := false, relay := false, key := 7, tag := 1, addr := 0, data := 9 }

/-- The clutch chip in a tenant group of its memory (R252). -/
def homeOn (f : Fabric := {}) : State := { clutchOn f with time := { on.time with now := on.now + 320 } }

/-- HomeFramesComplete. -/
theorem witness_home :
    (let s := homeOn
     s.takesFrame 0 1 frameOf = true ∧ s.takesFrame 0 2 frameOf = true ∧ s.takesFrame 0 3 (frameOf true) = true ∧ s.takesFrame 0 4 (frameOf true) = true
     ∧ s.takesFrame 0 5 frameOf = true ∧ (∀ k ∈ [KReq.rd, .rdx, .wr], s.homeOpen (requestOf frameOf k) = true) ∧ frameOf.src ≠ s.chip ∧ s.peerBit 1 1 = true
     ∧ (s.dirOf 0).owner = none ∧ (s.fab.dir.filter fun e => decide (e.1 % 65536 = 0)).length < 16 ∧ putBit (s.dirOf 0).holders 1 false = 0
     ∧ (s.dirOf 0).holders = 0 ∧ frameOf.addr / 64 < memLines ∧ s.fabOpen 0 true = true)
    ∧ (let s := homeOn { dir := [(0, { holders := 2, owner := some 1 })] }
       s.homeOpen (requestOf frameOf .rdx) = true ∧ putBit (s.dirOf 0).holders 1 false = 0 ∧ (tfind 0 s.fab.dir).isSome = true) := by decide +kernel

/-- An outstanding read of a fabric transfer, and a write. -/
def outQ (k : KReq) : COut := { dst := 1, kind := k, line := 0, key := 7, why := .frt 5 0, sent := some (1, on.now) }

/-- HolderFramesComplete. -/
theorem witness_holder :
    (∀ st ∈ [CState.m, .o, .e], let s := clutchOn { cache := [(cline 1 0, { st := st, key := 7, data := 9 })] }
     s.takesFrame 0 6 { frameOf with src := 1 } = true ∧ s.takesFrame 0 7 frameOf = true ∧ (tfind (cline (s.chipAt 0) 0) s.fab.cache).map (·.st) = some st ∧ s.chipAt 0 = 1)
    ∧ (let s := withReg (withReg { clutchOn { cache := [(cline 2 0, { st := .m, key := 7, data := 9 })] } with board := { members := 7 } } .fabClink (BitVec.ofNat 64 (2 ^ 25))) .fabPeer 2 0 2
       s.takesFrame 0 6 frameOf = true ∧ s.chipAt 0 = 2 ∧ (tfind (cline (s.chipAt 0) 0) s.fab.cache).isSome = true ∧ frameOf.src ≠ s.chipAt 0 ∧ s.peerBit 1 1 = true)
    ∧ (let s := clutchOn { outs := [outQ .rd], frts := [frt false] }
       s.takesFrame 0 8 (frameOf true) = true ∧ (s.reqOf 1 0 fun o => o.dst ≠ s.chip && o.kind != .wr) = some (outQ .rd)
       ∧ (s.reqOf 1 0 fun o => decide (o.dst = 1)) = some (outQ .rd) ∧ (s.reqOf 1 0 fun o => decide (o.dst = 1) && !o.accepted) = some (outQ .rd)
       ∧ s.takesFrame 0 10 frameOf = true ∧ s.takesFrame 0 11 frameOf = true)
    ∧ (let s := clutchOn { outs := [outQ .wr] }
       s.takesFrame 0 9 frameOf = true ∧ (s.reqOf 1 0 fun o => decide (o.dst = 1) && o.kind == .wr) = some (outQ .wr)) := by decide +kernel

/-- ClutchEventsComplete. -/
theorem witness_clutch :
    (let s := withReg { clutchOn with board := { members := 3, leader := 1 } } .atbCtrl 3
     s.follows 0 = true ∧ s.chipAt 0 = s.board.leader ∧ s.peerBit (s.chipAt 0) 1 = true ∧ s.boot.dies = false
     ∧ s.member 1 = true ∧ s.pcsUp 0 = true ∧ s.heartless 0 = true)
    ∧ (clutchOn.follows 0 = false ∧ clutchOn.board.leader = clutchOn.chip)
    ∧ (∀ re ∈ [false, true], let q := { outQ .rd with reissued := re, sent := some (1, on.now - 1000000) }
       let s := clutchOn { outs := [q] }
       (s.fab.outs.find? fun o => decide (o.dst = 1 ∧ o.sent.map (·.1) = some 1) && !o.accepted && !o.held) = some q ∧ s.cto ≤ (s.now - (s.now - 1000000)).toNat
       ∧ s.peerBit 1 2 = false)
    ∧ (clutchOn { waiting := [requestOf frameOf .rd] }).isBusy (0 / 64) = false ∧ (requestOf frameOf .rd).line = 0 / 64
    ∧ deadDue 1 clutchOn = true ∧ isolationDue clutchOn = true
    ∧ (let x : CellSt := { payload := [], standby := some { peer := 1, pslice := 0, ctxOff := 0, ctxLen := 64, destOff := 0 } }
       let s : State := { homeOn with ctl := { slices := on.ctl.slices.set 0 { win0 := { base := 0, bound := 1, valid := true }, cells := [(0, x)] } } }
       tfind 0 (s.ctl.slices.get 0).cells = some x ∧ s.mirrorDue 0 x = true ∧ (s.fab.outs.any fun o => decide (o.why = .mirror 0 0)) = false
       ∧ (s.ctl.slices.get 0).win0.lo + 0 + 64 ≤ (s.ctl.slices.get 0).win0.hi
       ∧ s.canMove (span (((s.ctl.slices.get 0).win0.lo + 0) / 64) (64 / 64) false) = true)
    ∧ (({ outQ .wr with why := .mirror 0 0 } : COut).why = .mirror 0 0) := by decide +kernel

/-- A barrier register pair: instant and mask; armed (1) or with GO received (2). -/
def barOn (x : W64) (st : Nat) (mask : Nat := 1) (b : Barrier := {}) : State :=
  withReg (withReg (clutchOn { bars := [(0, b)] }) .fabBarA x) .fabBarB (BitVec.ofNat 64 (st + 2 ^ 8 * mask))

/-- LockstepCompletes. -/
theorem witness_lockstep :
    (let s := withReg { clutchOn with ten := { runList := [{ entry := 5, recIdx := 0, in1 := none, in2 := none }] } } .atbState 2
     s.now.toNat + 524288 ≤ (s.now + 600000).toNat ∧ s.servoState = stLocked ∧ s.barState 0 ≠ 1 ∧ s.barState 0 ≠ 2 ∧ (1 : BitVec 8).getLsbD s.chip.val = true
     ∧ (1 : BitVec 8) &&& ~~~s.board.members = 0)
    ∧ (let s := barOn (on.now + 300000) 1
       s.boot.dies = false ∧ s.peerBit (s.chipAt 0) 1 = true ∧ s.member 1 = true ∧ s.barState 0 = 1 ∧ s.coordinator 0 = some s.chip ∧ s.now ≤ s.barX 0 - 262144)
    ∧ (let s := barOn (on.now + 300000) 1 2
       s.coordinator 0 = some 1 ∧ s.now ≤ s.barX 0 - 16384)
    ∧ (let s := barOn (on.now + 262144) 1 1 { arrived := 1 }
       s.barMask 0 &&& ~~~(s.barOf 0).arrived = 0 ∧ (s.barOf 0).decided = false ∧ s.coordinator 0 = some s.chip ∧ s.now = s.barX 0 - 262144)
    ∧ (let s := barOn (on.now + 262144) 1
       s.barMask 0 &&& ~~~(s.barOf 0).arrived ≠ 0 ∧ s.now = s.barX 0 - 262144)
    ∧ (let s := barOn (on.now + 16384) 1
       s.barState 0 = 1 ∧ s.barX 0 - 16384 ≤ s.now)
    ∧ (let s := barOn on.now 2
       s.barState 0 = 2 ∧ s.now = s.barX 0)
    ∧ (let r : TwinRec := { kernel := 4, tile := 0, count := 0, record := [], hashes := [], at_ := on.now - 19660800 }
       let s := withReg (clutchOn { twinMine := [r] }) .fabCtrl 3
       s.twin = some (s.chipAt 0) ∧ s.fab.twinMine.find? (sameKernel { r with at_ := s.now }) = some r ∧ s.fab.twinMine.find? (sameKernel { r with kernel := 5 }) = none
       ∧ (s.fab.twinMine.find? fun r => decide (r.kernel = 4 ∧ r.tile = 0 ∧ 19660800 ≤ (s.now - r.at_).toNat)) = some r)
    ∧ mayMem .m0 = true := by decide +kernel

/-- A packet of peer 0 for the chip's first block. -/
def packet (mask : BitVec 64 := 0) (lines : List Row := []) (status : Nat := 0) : LPacket :=
  { valid := true, peer := 0, key := 7, credit := 4, tag := 1, status := status, addr := 0, mask := mask, pmask := 0, lines := lines }

/-- A part with gateway port 0 on lane 0 and peer 0 valid. -/
def gwOn (f : Fabric := {}) : State :=
  withReg (withReg (withReg (clutchOn f) .fhpCfg 3) .fhpStatus 3) .fabLpeerC (BitVec.ofNat 64 (2 ^ 16))

/-- GatewayCompletes. -/
theorem witness_gateway :
    (let s := gwOn
     s.takesPacket packet = true ∧ s.takesPacket (packet 1 [9]) = true ∧ (tget {} s.fab.tags 8).judge 1 = 0 ∧ s.gwHeld 0 < tget 4 s.fab.offered 0
     ∧ s.gwBlock 0 = some (s.chip, 0) ∧ s.fab.waiting = [] ∧ s.mem.scrub = none ∧ s.admits { kind := .rd, org := .gw 0, tag := 1, key := 7, line := 0 } = true
     ∧ s.admits { kind := .wr, org := .gw 0, tag := 1, key := 7, line := 0 } = true)
    ∧ (∀ w ∈ [false, true], let g : GOut := { peer := 0, tag := some 1, write := w, block := 0, key := 7, owner := 0x40 }
       let s := gwOn { gouts := [g] }
       (s.gwMatch packet fun _ => true) = some g ∧ (w = false → (s.gwMatch packet fun g => !g.write && decide (g.tag.isSome)) = some g)
       ∧ (w = true → (s.gwMatch packet fun g => g.write) = some g) ∧ (s.fab.gouts.find? fun g => decide (g.peer = 0 ∧ g.tag = some 1) && !g.held) = some g
       ∧ 19660800 ≤ (s.now - g.first).toNat)
    ∧ (let s := gwOn
       s.gwRto ≤ (s.now - (on.now - 1000000)).toNat ∧ (s.now - (on.now - 1000000)).toNat < 19660800)
    ∧ (let r : Recall := { reg := 0, value := 5, at_ := on.now - 65536, lines := [] }
       let s := clutchOn { callBack := some r }
       s.fab.callBack = some r ∧ 65536 ≤ (s.now - r.at_).toNat ∧ s.gibLines (s.fget (creg .fabReg r.reg) 7 0) = []) := by decide +kernel

/-! ## Slices, commits and cores -/

/-- Slice 0 in a state, with a cell. -/
def sliceOn (st : SliceState) : State := { on with ctl := { slices := on.ctl.slices.set 0 { st := st, cells := [(0, { payload := [] })] } } }

/-- The registers of a stream of fronthaul port 0. -/
def streamG : StreamRegs := ⟨BitVec.ofNat 64 (2 ^ 34), 0, 0, 0⟩

/-- StagingCompletes and SliceMessagesComplete. -/
theorem witness_staging :
    ((on.ctl.slices.get 0).st = .free ∧ on.sweeping 0 = false ∧ on.pendOf (.slice 0) = none ∧ on.pendOf .device = none)
    ∧ (∀ st ∈ [SliceState.staged, .serving, .deleting], ((sliceOn st).ctl.slices.get 0).st = st)
    ∧ (sliceOn .serving).streamIndex ((sliceOn .serving).rimOfFh (bits streamG.key 3 0)) [] streamG = some 0
    ∧ (fhOn.lane 1 (fld [] 0 1 % 16) = some 0 ∧ fld [] 2 2 ≤ fhOn.maxFrame 0 - 4 ∧ fhOn.isEthernet 0 = true)
    ∧ (tfind 0 ((sliceOn .serving).ctl.slices.get 0).cells).isSome = true := by decide +kernel

/-- StagingCompletes: a byte string whose section table fits is staged, whatever else it breaks. -/
theorem witness_imageStage : (imageBad (imageBytes tenantImage 384) false false).contains (1, 0, 12) = false := by
  have h : headerBad tenantImage false false tenantImage.length = [6] := by
    unfold headerBad
    simp only [tenantImage_hash, decide_true]
    decide +kernel
  rw [tenantImage_bytes]
  unfold imageBad
  simp only [h]
  decide +kernel

/-- A pending commit of the device set. -/
def pendOn (x : W64) (l : List Setting) (accepted : W64 := 0) (swap : Option (LTile × PTile × PTile × Nat) := none) : State :=
  { on with ctl := { pend := [{ set := .device, x := x, accepted := accepted, settings := l }], swap := swap } }

/-- CommitMessagesComplete and CommitEventsComplete. -/
theorem witness_commits :
    (let s : State := { on with ctl := { device := [.frameOffset 5] } }
     let l := s.placed .device (s.stagedOf .device)
     setOf 255 = .device ∧ s.pendOf .device = none ∧ s.stagedOf .device ≠ [] ∧ s.hostPend.length < 16 ∧ s.judge .device l (s.now + 3932160) = none)
    ∧ (let s := pendOn (on.now + 1966081) [.frameOffset 5]
       let w : Pending := { set := .device, x := on.now + 1966081, accepted := 0, settings := [.frameOffset 5] }
       s.pendOf .device = some w ∧ s.now + 1966080 < w.x ∧ s.leansOn w = [])
    ∧ (on.unitTurn (.pf0 0) = true ∧ ({ on with ctl := { mgmtAt := some on.now } } : State).unitTurn (.pf1 0) = true)
    ∧ ((pendOn on.now [.frameOffset 5]).ctl.pend.map (·.x) = [on.now])
    ∧ (let s := pendOn (on.now + 983040) [.tileSwap 3 4]
       ∃ p ∈ s.ctl.pend, p.x = s.now + 983040 ∧ .tileSwap 3 4 ∈ p.settings)
    ∧ (let s := pendOn (on.now + 983040) [.tileSwap 3 4] (on.now - 196608) (some (3, 3, 4, 0))
       s.ctl.swap = some (3, 3, 4, 0) ∧ ∃ p ∈ s.ctl.pend, .tileSwap 3 4 ∈ p.settings ∧ s.now = p.accepted + 196608) := by decide +kernel

/-- A part whose Fenen runs. -/
def up : State := withReg on .secStatus 12

/-- CoresComplete. -/
theorem witness_cores :
    (up.beats 3 = true ∧ beatMissed 3 up = true)
    ∧ (pendOn (on.now + 983040) [.roleMove 3 7]).ctl.pend.map (·.x) = [up.now + 983040]
    ∧ (let s : State := { up with cores := { up.cores with moult := some (.confirm 3 2000, 3), heldFenen := some {}, heldM0 := some {} } }
       s.cores.moult = some (.confirm 3 2000, 3) ∧ s.cores.heldFenen.isSome = true ∧ s.cores.heldM0.isSome = true ∧ s.boot.fwcnt ≤ ({} : FwImage).rollback)
    ∧ (({ on with cores := { restart := some 5 } } : State).cores.restart.isSome = true ∧ on.boot.held = false ∧ on.cores.m0Up = true ∧ on.cores.moult = none) := by decide +kernel

/-! ## Slots, boot, pins, sensors, PCIe and SPDM -/

/-- A message header in a slot of PF1: SYS_TIME with a reply of 64 bytes. -/
def header : BitVec 512 := BitVec.ofNat 512 (1 + 2 ^ 32 + 0x0102 * 2 ^ 48 + 64 * 2 ^ 192)

/-- Slot 0 of PF1 armed with a header. -/
def armed : State := { up with mbx := { slots := [(256, { hdr := header, armed := some (on.now - 2) })] } }

/-- SlotsComplete. -/
theorem witness_slots :
    on.boot.held = false ∧ (on.slot (.pf1 0)).armed = none
    ∧ (on.off on.now % 2048 = 0 ∧ (armed.slot (.pf1 0)).armed = some (on.now - 2) ∧ on.now - 2 < on.now ∧ armed.served (.pf1 0) = true
       ∧ armed.slotOwner (.pf1 0) = some .mgmt ∧ (armed.slot (.pf1 0)).kept = none ∧ bits header 191 128 % 64 = 0 ∧ bits header 223 192 = 64
       ∧ bits header 115 96 = 0 ∧ checkMsg armed (.pf1 0) .mgmt (bits header 63 48) (bits header 79 64) (bits header 90 80) header [] = none) := by decide +kernel

/-- A part in boot, at a stage. -/
def booting (n : Nat) : State := withReg { on with boot := { held := false, running := true } } .secStatus (BitVec.ofNat 64 n)

/-- ObjectsComplete, BootCompletes and PinsComplete. -/
theorem witness_boot :
    (let s : State := { booting 4 with boot := { (booting 4).boot with recovery := true, running := false } }
     s.boot.recovery = true ∧ kindStage 3 ≤ s.stage + 1)
    ∧ (∀ n ∈ [0, 1, 3], let s := booting n
       s.boot.running = true ∧ s.boot.held = false ∧ s.stage = n ∧ s.stageWaits (n + 1) = false ∧ s.stageBad (n + 1) = none)
    ∧ (∀ n ∈ [1, 2, 3, 5, 6, 7, 8, 9, 10, 11, 12], stageReasons n ≠ [])
    ∧ bit ((withReg (booting 7) .pkgStatus 6).rget (creg .pkgStatus)) 1 = true
    ∧ State.reset.boot.held = true
    ∧ (let s := withReg on .pkgStatus 5
       bit (s.rget (creg .pkgStatus)) 2 = true ∧ bit (s.rget (creg .pkgStatus)) 1 = false ∧ s.boot.held = false)
    ∧ bit ((withReg on .pkgClk 4).rget (creg .pkgClk)) 2 = true := by decide +kernel

/-- SensorsComplete. -/
theorem witness_sensors :
    (on.cores.m0Up = true ∧ 9 ≤ up.stage)
    ∧ ({ on with board := { eye := 10 } } : State).log.limits = []
    ∧ ((on.pads.get 4).stat ≠ .service ∧ on.swapTarget 4 = false ∧ on.tests = [])
    ∧ (let t : SelfTest := { id := 4, kind := 1, target := 4, start := on.now - 983040, running := true }
       ({ on with tests := [t] } : State).testOver 4 = some t) := by decide +kernel

/-- PcieCompletes. -/
theorem witness_pcie :
    (∀ op ∈ [0x0305, 0x0503, 0x0606, 0x0801, 0x0802], (sent on (msg op)).msgOf (.pf0 0) = some (msg op))
    ∧ (let s : State := sent { on with time := { on.time with now := on.now + 9830400 } } (msg 0x0801)
       s.msgOf (.pf0 0) = some (msg 0x0801) ∧ 9830400 ≤ (s.now - (msg 0x0801).taken).toNat)
    ∧ (({ on with pci := { ide := on.pci.ide.set 0 { on := true } } } : State).pci.ide.get 0).on = true := by decide +kernel

/-- An SPDM connection in its last phase, with session 0. -/
def spdmOn (x : Option Session := none) (chunk : Bytes := []) : State :=
  { on with spdm := { pcie := { phase := 3, sessions := on.spdm.pcie.sessions.set 0 x, chunkOut := chunk } } }

/-- SpdmCompletes. -/
theorem witness_spdm :
    (on.spdmOpen .pcie 0 ∧ (spdmOn).spdmOpen .pcie 3)
    ∧ ((spdmOn).session .pcie 0 = none)
    ∧ (∀ e ∈ [false, true], ((spdmOn (some { key := [], established := e })).session .pcie 0).map (·.established) = some e)
    ∧ ((spdmOn none [7]).conn .pcie).chunkOut ≠ [] := by
  unfold State.spdmOpen; decide +kernel

/-! ## Frames and rules of the whole part -/

/-- TileFrames, PathFrames, FabricFrames, ControlFrames: a command of each group is answered with a next state. -/
theorem witness_frames :
    (∃ u, (Instr.arrPark 0 .m0).group = .tile ∧ (Instr.arrPark 0 .m0).tile = some 0 ∧ exec (.arrPark 0 .m0) on = .next u ∧ u ≠ on)
    ∧ (∃ u, Instr.atbMirrorRead.group = .path ∧ exec .atbMirrorRead on = .next u)
    ∧ (∃ u, (Instr.heartTimeout 0).group = .fabric ∧ exec (.heartTimeout 0) on = .next u)
    ∧ (∃ u, (Instr.msixUnmask 0).group = .control ∧ (Instr.msixUnmask 0).stores = false ∧ exec (.msixUnmask 0) on = .next u)
    ∧ (∃ u, exec (.bar4Write 64 [1] false) on = .next u ∧ 0 < on.bar4Addr 64 / 64) :=
  ⟨⟨_, rfl, rfl, rfl, by decide +kernel⟩, ⟨_, rfl, rfl⟩, ⟨_, rfl, rfl⟩, ⟨_, rfl, rfl, rfl⟩, ⟨_, rfl, by decide +kernel⟩⟩

/-- TileFrames: landings, patrol visits and sweeps, beside another pad. -/
theorem witness_pads_frame :
    (1 : PTile) ≠ on.ptile 0 ∧ (∃ u, exec (.landingWrite 0 0 0 0xF 0 0 0) on = .next u) ∧ (∃ u, exec (.patrolVisit 0 0 0) on = .next u)
    ∧ ∃ u, exec (.padSweep 0 .m0 0x140) on = .next u :=
  ⟨by decide +kernel, ⟨_, rfl⟩, ⟨_, rfl⟩, ⟨_, rfl⟩⟩

/-- AtbAdvances and PpsRises. -/
theorem witness_atb :
    on.boot.dies = false ∧ (∃ u, Instr.schPark 0 .m0 ≠ .atbTick ∧ exec (.schPark 0 .m0) on = .next u)
    ∧ (let s := withReg { on with time := { on.time with now := 1966080000 } } .atbState 2
       (s.now - BitVec.ofNat 64 s.board.ppsOut).toNat % 1966080000 = 0 ∧ s.servoState = stLocked ∧ s.time.ppsOut = false) :=
  ⟨rfl, ⟨_, by decide, rfl⟩, by decide +kernel⟩

/-- WritesTakeEffectLater: two writes of one row in one cycle, of which the drain of partition 0 remains. -/
theorem witness_writes :
    let w (rank : Nat) : PadWrite := { row := 3, rank := rank, tag := 0, data := 0, mask := fullMask }
    let p : Pad := { writes := [w rankOther, w (rankDrain 0)] }
    winner p.writes 3 = some (w (rankDrain 0)) ∧ (∀ x ∈ p.writes, p.place x.row = p.place 3 → x.row = 3) ∧ p.regrow = none := by decide +kernel

/-- DebugReadsAnyRow, ReadOnlyBlocks, RolesMoveAtCommits and StepKeepsMemories. -/
theorem witness_rules :
    (0 < 0xC00000 ∧ ∃ u, exec (.debugWindowRead 0x1000000 64) on = .next u)
    ∧ (∀ n ∈ [RegName.mbxStat, .secStatus, .pkgStatus], Reg.ofAddr (creg n).addr = some (creg n))
    ∧ findLimit ⟨.num 0x0405, 0, (creg .mbxStat).addr⟩ on.log.limits = none
    ∧ (∃ u, exec .stageCommitApply (pendOn on.now [.roleMove 3 7]) = .next u ∧ u.holder 3 ≠ on.holder 3)
    ∧ (State.reset.memWf = true ∧ ∃ u, step State.reset = .next u) := by
  refine ⟨⟨by decide, ⟨_, rfl⟩⟩, by decide +kernel, by decide +kernel, ⟨_, rfl, by decide +kernel⟩, by decide +kernel, ⟨_, rfl⟩⟩

/-- StepRunsFront: a command in front of another, and an empty queue. -/
theorem witness_step : ({ on with pending := [.ppsOutRise, .atbTick] } : State).pending = .ppsOutRise :: [.atbTick] ∧ on.pending = [] := ⟨rfl, rfl⟩

/-! ## Small checks of figures of the spec -/

/-- R312's worked example: the widths of its three groups, and the three sections they make. -/
theorem test_groupWidth : (groupWidth 14 20000 13, groupWidth 14 400 11, groupWidth 14 50 6) = (8, 9, 6) ∧ widthSections 3 [8, 9, 6] = [(1, 8), (1, 9), (1, 6)] := by decide +kernel

/-- No row of the table has bits: no word spells a command. -/
theorem test_decode : decodeTableWord 32 0x12345678 = none ∧ decodeTableWord 0 0 = none := ⟨rfl, rfl⟩

/-- An ill-formed command for each check of WellFormed, which refuses it. -/
theorem test_illFormed :
  let k : KFrame := { frameOf with addr := 8 }
  let p : LPacket := packet 0 (List.replicate 65 0)
  ∀ c ∈ [Instr.landingWrite 0 128 0 0 0 0 0, .egressMessagePlace 0 0 [] [1], .egressMessagePlace 0 0 (leBytes 64 0) (leBytes 9175 0), .egressFrameEnqueue 0 0 (leBytes 59 0),
   .egressFrameEnqueue 0 0 (leBytes 9213 0), .checkLineWriteback 0 40 0, .checkLineWriteback 1 40 (2 ^ 20), .creditedRemoteWrite 0 0 0 (List.replicate 17 0),
   .unsealChunk (leBytes 65617 0), .krovbemRd 0 k, .krovbemRdx 0 k, .krovbemWr 0 k, .krovbemWb 0 k, .krovbemEv 0 k, .krovbemFwd 0 k, .krovbemInv 0 k, .krovbemData 0 k,
   .krovbemAck 0 k, .krovbemNack 0 k 1, .krovbemAccept 0 k, .leapfrogRdreq p, .leapfrogRddata p, .leapfrogWrite p, .leapfrogDone p, .leapfrogNack p, .leapfrogKeepalive p,
   .mailboxSlotWrite (.pf0 0) 4090 (leBytes 7 0), .bar4Read (2 ^ 63) 1, .bar4Write (2 ^ 63) [1] false, .debugWindowRead (2 ^ 26) 1, .registerWrite .m0 4 0,
   .registerReadClear .m0 12, .spdmGetCertificate .pcie 8 0 0, .atsInvalidateRequest 2 1], c.wf = false := by
  simp only [List.forall_mem_cons, List.not_mem_nil, false_implies, implies_true, and_true]; and_intros <;> decide +kernel

theorem test_wellFormed : (Instr.egressFrameEnqueue 0 0 (leBytes 60 0)).wf = true ∧ (Instr.mailboxSlotWrite (.pf0 0) 4089 (leBytes 7 0)).wf = true ∧ Instr.atbTick.wf = true := by
  decide +kernel

/-- R37: G is the GPS epoch in ATB cycles. -/
theorem test_epoch : 315964819 * 1966080000 = 621212111339520000 ∧ on.off 621212111339520000 = 0 := by decide +kernel

/-- R19: logical tiles 0, 4 and 63 stand at stops (0, 0), (0, 1) and (8, 7). -/
theorem test_map : (defaultStop 0, defaultStop 4, defaultStop 63) = ((0, 0), (0, 1), (8, 7)) := by decide

/-- R13: floor division and saturation. -/
theorem test_arith : floorShift (-1) 1 = -1 ∧ sat 300 (-128) 127 = 127 ∧ sat (-300) (-128) 127 = -128 := by decide

/-- R276: a frame at the default MAXFRAME occupies a 400GbE port for 365 cy, as D_F of R298 has it. -/
theorem test_occupancy : (withReg (withReg on .fhpCfg (BitVec.ofNat 64 (2 ^ 3 + 2 ^ 4 + 1))) .fhpStatus 3).occupancy 0 9236 = 365 := by decide +kernel

/-- R41: a mirror read is answered in the cycle it names. -/
theorem test_mirror : (match exec .atbMirrorRead on with | .next u => decide (u.rget (creg .atbSnapNow) = on.now ∧ u.out = [.hostData (toBytes on.now 8)]) | _ => false) = true := by decide +kernel

end Sys2Proof.Tests
end

section
/-!
Proofs about accesses by the host: what holds up a read of the debug window (R252, R508, R509), and the refutation of O31.
-/
namespace Sys2Proof.Machine

/-- No line moves while a scrub runs, not even an empty list of lines (log entry 23). -/
theorem State.canMove_of_scrub {s : State} (h : s.mem.scrub.isSome = true) (ops : List (Nat × Bool)) : s.canMove ops = false := by
  have hn : s.mem.scrub.isNone = false := by rw [← Option.not_isSome, h]; rfl
  rw [State.canMove, hn, Bool.false_and, Bool.false_and]

/-- The debug window takes every read that it contains, the empty one at its first byte with them (R508). -/
theorem bar0Read_of_window {off len : Nat} (hoff : 0x1000000 ≤ off) (hend : off + len ≤ 0x2000000) (s : State) :
    bar0Read off len s = debugWindow off len s := by
  rw [bar0Read, if_pos ⟨hoff, hend⟩]

/-- A read of the debug window that reaches local DRAM waits while the lines of its span cannot move (R252, R509). -/
theorem debugWindow_of_held {s : State} {off len : Nat} (hen : bit (s.rget (creg .pciDbgwin)) 48 = true)
    (hdram : bits (s.rget (creg .pciDbgwin)) 47 24 * 2 ^ 24 + off % 2 ^ 24 < 0x2400000000)
    (hheld : s.canMove (dramSpan (bits (s.rget (creg .pciDbgwin)) 47 24 * 2 ^ 24 + off % 2 ^ 24) len) = false) :
    debugWindow off len s = s := by
  simp only [debugWindow, hen, hdram, hheld, decide_true, Bool.true_or, and_self, if_true, Bool.not_false]

/-- During a scrub the debug window answers no read of local DRAM, whatever its length. -/
theorem debugWindowRead_of_scrub {s : State} {off len : Nat} (hscrub : s.mem.scrub.isSome = true) (hoff : 0x1000000 ≤ off) (hend : off + len ≤ 0x2000000)
    (hen : bit (s.rget (creg .pciDbgwin)) 48 = true) (hdram : bits (s.rget (creg .pciDbgwin)) 47 24 * 2 ^ 24 + off % 2 ^ 24 < 0x2400000000) :
    exec (.debugWindowRead off len) s = .next s := by
  change Host.Outcome.next (bar0Read off len s) = _
  rw [bar0Read_of_window hoff hend, debugWindow_of_held hen hdram (State.canMove_of_scrub hscrub _)]

/-- A part that scrubs its first 160 lines, with the debug window enabled on device address 0. -/
def scrubbingWithWindow : State :=
  (State.reset.modMem fun m => { m with scrub := some ([(0, 160)], 0) }).rset (creg .pciDbgwin) (BitVec.ofNat 64 (2 ^ 48))

end Sys2Proof.Machine

open Sys2Proof Sys2Proof.Machine

/-- Refutes O31. Its clause on reads of BAR0 that end at or below 0x100_0000 says that the read is answered in every state, and it
takes in the read of no bytes at 0x100_0000 itself. That read lies in the debug window (R508), where a read of local DRAM waits
while a scrub runs: with a scrub in progress and PCI_DBGWIN enabled on address 0 nothing is sent. -/
theorem not_accessesComplete : ¬ Obligations.AccessesComplete := by
  unfold Obligations.AccessesComplete
  rintro ⟨-, -, -, -, -, -, hbar0, -⟩
  obtain ⟨u, hu, hout⟩ := hbar0 scrubbingWithWindow 0x1000000 0 (by decide)
  have hwaits : exec (.debugWindowRead 0x1000000 0) scrubbingWithWindow = .next scrubbingWithWindow :=
    debugWindowRead_of_scrub rfl (by decide) (by decide) (by decide +kernel) (by decide +kernel)
  obtain rfl : u = scrubbingWithWindow := by rw [hwaits] at hu; injection hu with hu; exact hu.symm
  have hsilent : scrubbingWithWindow.out = [] := rfl
  exact List.cons_ne_nil _ _ (hout.symm.trans hsilent)
end

section
/-!
Proofs about the state after reset, and O60.
-/
namespace Sys2Proof.Machine

/-- A register reads its reset value after reset. -/
theorem State.reset_rget (r : Reg) : State.reset.rget r = r.reset := rfl

/-- A pad after reset lists no row; it is a spare where the default map leaves it out (R19). -/
theorem State.reset_pads_get (p : PTile) : State.reset.pads.get p = if p.val ∈ defaultSpares then { stat := .spare } else {} := by
  change resetPads.get p = _
  rw [resetPads, Vector.get_eq_getElem, Vector.getElem_ofFn]

@[simp] theorem State.reset_pads_rows (p : PTile) : (State.reset.pads.get p).rows = [] := by
  rw [State.reset_pads_get]
  split <;> rfl

/-- Every row of every pad reads as an unlisted one (R159, log entry 6). -/
@[simp] theorem State.reset_row (p : PTile) (r : Nat) : (State.reset.pads.get p).row r = {} := by
  rw [Pad.row, State.reset_pads_rows, tget_nil]

/-- The default tile map names no spare (R19). -/
theorem State.reset_ptile_not_spare (t : LTile) : (State.reset.ptile t).val ∉ defaultSpares := by
  revert t
  decide +kernel

theorem State.reset_memWf : State.reset.memWf = true := by
  rw [State.memWf_iff]
  refine ⟨rfl, fun p => ?_⟩
  rw [Pad.wf, State.reset_pads_rows]
  rfl

end Sys2Proof.Machine

open Sys2Proof Sys2Proof.Machine

/-- Settles O60: each register that it names reads its reset value, no pad lists a row, and the default map leaves out the spares. -/
theorem resetState : Obligations.ResetState := by
  unfold Obligations.ResetState
  have hspare : ∀ p ∈ [4, 13, 54, 63], (State.reset.pads.get (fin 68 p)).stat = .spare := by decide +kernel
  have hservice : ∀ t : LTile, (State.reset.pad t).stat = .service := fun t => by
    rw [State.pad, State.reset_pads_get, if_neg (State.reset_ptile_not_spare t)]
  have hrow : ∀ (p : PTile) r, ((State.reset.pads.get p).row r).tag = 0x7F ∧ ((State.reset.pads.get p).row r).poison = false := fun p r => by
    rw [State.reset_row]
    exact ⟨rfl, rfl⟩
  have hid : ∀ t : LTile, State.reset.rget (treg .arrId t) = BitVec.ofNat 64 (256 * t.val) := fun t => by
    rw [State.reset_rget, Nat.mul_comm]
    rfl
  exact ⟨State.reset_memWf, rfl, rfl, rfl, hspare, hservice, hrow, fun _ => rfl, fun t => ⟨hid t, rfl, rfl⟩, rfl, rfl, rfl, rfl, rfl, rfl⟩
end

section
/-!
What replies, the closing of an epoch and the action stage set leave to the cores: their state and the messages they have taken.
-/
namespace Sys2Proof.Machine

/-- The cores and the messages they have taken are as before. -/
structure State.SameWork (s u : State) : Prop where
  cores : u.cores = s.cores
  taken : u.mbx.taken = s.mbx.taken

theorem State.SameWork.refl (s : State) : s.SameWork s := ⟨rfl, rfl⟩

theorem State.SameWork.trans {s u v : State} (h : s.SameWork u) (k : u.SameWork v) : s.SameWork v :=
  ⟨k.cores.trans h.cores, k.taken.trans h.taken⟩

/-- What keeps the cores' work from `t` on keeps it from `s` on, where `t` is `s` with other parts changed. -/
theorem State.SameWork.of_same {s t u : State} (k : t.SameWork u) (hc : t.cores = s.cores) (ht : t.mbx.taken = s.mbx.taken) : s.SameWork u :=
  ⟨k.cores.trans hc, k.taken.trans ht⟩

theorem State.SameWork.foldl {α : Type} {f : State → α → State} (hf : ∀ (s : State) (a : α), s.SameWork (f s a)) :
    ∀ (l : List α) (s : State), s.SameWork (l.foldl f s)
  | [], s => .refl s
  | a :: l, s => (hf s a).trans (State.SameWork.foldl hf l (f s a))

/-! ## Records and replies (R445, R481) -/

theorem State.sameWork_logRec (s : State) (r : Rec) : s.SameWork (s.logRec r) := ⟨s.logRec_cores r, by rw [s.logRec_mbx r]⟩

theorem State.sameWork_reply (s : State) (m : Msg) (status detail : Nat) (b : Bytes) : s.SameWork (s.reply m status detail b) := by
  obtain ⟨r, sl, p, new, h, -⟩ := s.reply_only m status detail b
  rw [h]
  exact ⟨rfl, rfl⟩

theorem State.sameWork_answerAll (s : State) (w : WaitFor) {f : Msg → State → State} (hf : ∀ (m : Msg) (u : State), u.SameWork (f m u)) : s.SameWork (s.answerAll w f) := by
  unfold State.answerAll
  exact (State.SameWork.foldl (fun u (x : Msg × WaitFor) => hf x.1 u) _ _).of_same rfl rfl

/-! ## A close that begins (R360, R453) -/

theorem State.sameWork_beginClose (s : State) (byUf : Bool) : s.SameWork (s.beginClose byUf) := by
  have aborted (w : WaitFor) (u : State) : u.SameWork (u.answerAll w fun m v => v.reply m stAborted) :=
    u.sameWork_answerAll w fun m v => v.sameWork_reply m stAborted 0 []
  unfold State.beginClose
  split
  · exact .refl s
  · dsimp only
    exact (((aborted .suspend _).trans (aborted .seal _)).trans (aborted .unseal _)).of_same rfl rfl

/-- A UF record is noted by the cores (R468), and a close that it begins leaves them so. -/
theorem State.sameWork_ufRec (s : State) (r : Rec) :
    State.SameWork { s with cores := { s.cores with uf := some (s.cores.uf.getD s.now) } } (s.ufRec r) := by
  unfold State.ufRec
  rw [if_neg Bool.false_ne_true]
  refine (State.sameWork_beginClose _ true).of_same ?_ ?_
  · simp only [State.now, State.logRec_cores, State.logRec_time]
  · rw [State.logRec_mbx]

/-! ## The action stage set (R420, R422, R425) -/

theorem State.sameWork_accept (s : State) (id : SetId) (x : W64) (l : List Setting) : s.SameWork (s.accept id x l) := by
  unfold State.accept
  refine (State.SameWork.foldl (fun u y => ?_) l _).of_same rfl rfl
  cases y <;> exact ⟨rfl, rfl⟩

theorem State.sameWork_withdraw (s : State) (w : Pending) : s.SameWork (s.withdraw w) := ⟨rfl, rfl⟩

theorem State.sameWork_withdrawFor (s : State) (k : Fin 4) (id : SetId) (l : List Setting) (x : W64) : s.SameWork (s.withdrawFor k id l x) :=
  State.SameWork.foldl (fun u p => (u.sameWork_withdraw p).trans (State.sameWork_logRec _ _)) _ s

/-- An action is accepted, joins its kind's pending commit, waits for it, or finds no slot start; no case concerns the cores. -/
theorem State.sameWork_action (s : State) (k : Fin 4) (x : Setting) (lead : Nat) : s.SameWork (s.action k x lead) := by
  unfold State.action
  dsimp only
  split
  · split
    · exact (s.sameWork_withdrawFor _ _ _ _).trans (State.sameWork_accept _ _ _ _)
    · exact .refl s
  · split
    · have withdrawn := State.sameWork_withdrawFor
      exact ⟨(withdrawn _ _ _ _ _).cores, (withdrawn _ _ _ _ _).taken⟩
    · exact ⟨rfl, rfl⟩

end Sys2Proof.Machine
end

section
/-!
Heartbeats, handovers and the moult: what their functions do to the cores (R413, R430-R434, R450), and what a restart of M0 keeps.
-/
namespace Sys2Proof.Machine

/-! ## Heartbeats (R32, R413, R433, R450) -/

@[simp] theorem vset_get_self {α : Type} {n : Nat} (v : Vector α n) (i : Fin n) (x : α) : (v.set i x).get i = x := by
  rw [Vector.get_eq_getElem, Vector.getElem_set_self]

/-- A heartbeat is the next count, modulo the width of its field. -/
theorem heartbeatWrite_count (r : Fin 8) (s : State) :
    (heartbeatWrite r s).fget (creg .ctlHb (s.holder r).val) 31 0 = (s.fget (creg .ctlHb (s.holder r).val) 31 0 + 1) % 2 ^ 32 :=
  s.fget_fset (creg .ctlHb (s.holder r).val) _ (by decide) (by decide)

/-- Whether a role serves a message on PF0 (R442). -/
def Msg.servedBy (r : Fin 8) (m : Msg) : Bool := !isPf1 m.slot && servingRole m.opcode m.payload == r

theorem Msg.servedBy_eq_false {r : Fin 8} {m : Msg} (h : m.servedBy r = false) (hpf : isPf1 m.slot = false) : servingRole m.opcode m.payload ≠ r := by
  simpa [Msg.servedBy, hpf] using h

/-- Answering a failed role's messages takes them from those taken, and nothing else from the cores (R450). -/
theorem State.failMessages_work (s : State) (r : Fin 8) :
    State.SameWork { s with mbx := { s.mbx with taken := s.mbx.taken.filter fun m => !m.servedBy r } } (s.failMessages r) :=
  State.SameWork.foldl (fun u m => u.sameWork_reply m stCoreFailed 0 []) _ _

/-- After a missed heartbeat the role's position is out of service and no taken message is left to the role, whether the moult
ends, the role moves to the spare, or no spare is left (R32, R433, R450, R468). -/
theorem beatTimeout_work (r : Fin 8) (s : State) :
    (beatTimeout r s).cores.failed = putBit s.cores.failed (s.holder r).val true
      ∧ (beatTimeout r s).mbx.taken = s.mbx.taken.filter fun m => !m.servedBy r := by
  unfold beatTimeout
  dsimp only
  have answered := State.failMessages_work { s with cores := { s.cores with failed := putBit s.cores.failed (s.holder r).val true } } r
  generalize State.failMessages _ r = v at answered ⊢
  have done {t u : State} (k : t.SameWork u) (hf : t.cores.failed = v.cores.failed) (ht : t.mbx.taken = v.mbx.taken) :
      u.cores.failed = putBit s.cores.failed (s.holder r).val true ∧ u.mbx.taken = s.mbx.taken.filter fun m => !m.servedBy r :=
    ⟨by rw [k.cores, hf, answered.cores], by rw [k.taken, ht, answered.taken]⟩
  split
  · split
    · exact done (State.sameWork_action _ _ _ _) rfl rfl
    · exact done (.refl v) rfl rfl
  · split
    · exact done (v.sameWork_logRec _) rfl rfl
    · split
      · exact done (v.sameWork_ufRec _) rfl rfl
      · exact done ((v.sameWork_logRec _).trans (State.sameWork_action _ _ _ _)) rfl rfl

/-! ## Handovers (R431, R432) -/

/-- What the preparation of a handover does for one setting of a commit: a role that moves sweeps no new slot. -/
def State.leave (s : State) : Setting → State
  | .roleMove k _ => { s with cores := { s.cores with away := putBit s.cores.away k.val true } }
  | _ => s

theorem handoverPrepare_eq (s : State) :
    handoverPrepare s = (s.ctl.pend.flatMap fun p => if p.x = s.now + 983040 then p.settings else []).foldl State.leave s := rfl

theorem State.leave_roleMove_away (s : State) (j pos k : Fin 8) :
    (s.leave (.roleMove j pos)).cores.away.getLsbD k.val = if k.val = j.val then true else s.cores.away.getLsbD k.val :=
  bit_putBit s.cores.away j.val true k.val k.isLt

theorem State.leave_away {s : State} {k : Fin 8} (h : s.cores.away.getLsbD k.val = true) (x : Setting) : (s.leave x).cores.away.getLsbD k.val = true := by
  cases x with
  | roleMove j pos => rw [State.leave_roleMove_away, h, ite_self]
  | _ => exact h

theorem State.foldl_leave_away {k : Fin 8} (l : List Setting) {s : State} (h : s.cores.away.getLsbD k.val = true) :
    (l.foldl State.leave s).cores.away.getLsbD k.val = true := by
  induction l generalizing s with
  | nil => exact h
  | cons x l ih =>
    rw [List.foldl_cons]
    exact ih (State.leave_away h x)

theorem State.foldl_leave_of_mem {k pos : Fin 8} {l : List Setting} (s : State) (h : .roleMove k pos ∈ l) :
    (l.foldl State.leave s).cores.away.getLsbD k.val = true := by
  induction l generalizing s with
  | nil => simp at h
  | cons x l ih =>
    rw [List.foldl_cons]
    rcases List.mem_cons.mp h with hx | h
    · subst hx
      exact State.foldl_leave_away l (by rw [State.leave_roleMove_away, if_pos rfl])
    · exact ih (s.leave x) h

/-- A role that a commit moves 983,040 cycles from now takes no new slot (R431). -/
theorem handoverPrepare_away {s : State} {p : Pending} {k pos : Fin 8} (hp : p ∈ s.ctl.pend) (hx : p.x = s.now + 983040)
    (hm : .roleMove k pos ∈ p.settings) : (handoverPrepare s).cores.away.getLsbD k.val = true := by
  rw [handoverPrepare_eq]
  refine State.foldl_leave_of_mem (pos := pos) s (List.mem_flatMap.mpr ⟨p, hp, ?_⟩)
  rwa [if_pos hx]

/-- Step 5 of a handover after its heartbeats (R431, R432). -/
theorem handoverConfirm_of_confirm {s : State} {h k : Fin 8} {n : Nat} (hm : s.cores.moult = some (.confirm h n, k)) (hn : 2000 ≤ n) :
    handoverConfirm s = { s with cores := { s.cores with spareLoaded := false, moult := some (if k.val < 6 then (.load, k + 1) else (.finish, k)) } } := by
  simp only [handoverConfirm, hm, Nat.not_lt.mpr hn, if_false]

/-- The cores after the spare has loaded the image of a moult: it beats, and the role's move is an action (R431). -/
theorem spareLoaded_of_load {s : State} {k : Fin 8} {i : FwImage} (hm : s.cores.moult = some (.load, k)) (hi : s.cores.heldFenen = some i) :
    (spareLoaded s).cores = { s.cores with
      image := s.cores.image.set (s.holder 7) i, spareLoaded := true, moult := some (.moving, k), beatAt := s.cores.beatAt.set (s.holder 7) s.now } := by
  simp only [spareLoaded, hm, hi]
  exact (State.sameWork_action _ _ _ _).cores

/-- The last spare has loaded: the flash and the counter are written (R432, R492). -/
theorem spareLoaded_of_finish {s : State} {k : Fin 8} {i j : FwImage} (hm : s.cores.moult = some (.finish, k)) (hi : s.cores.heldFenen = some i)
    (hj : s.cores.heldM0 = some j) :
    spareLoaded s = { s with
      cores := { s.cores with image := s.cores.image.set (s.holder 7) i, flashFenen := i, moult := some (.m0, k) }
      boot := { s.boot with fwcnt := Nat.max s.boot.fwcnt (Nat.min i.rollback j.rollback) } } := by
  simp only [spareLoaded, hm, hi, hj]

/-! ## M0 stops and runs again (R42, R49, R52, R54, R434, R469, R500) -/

/-- The cores, and whether the loss timers are paused, are as before. -/
structure State.SameM0 (s u : State) : Prop where
  cores : u.cores = s.cores
  paused : u.time.src.paused = s.time.src.paused

theorem State.SameM0.refl (s : State) : s.SameM0 s := ⟨rfl, rfl⟩

theorem State.SameM0.trans {s u v : State} (h : s.SameM0 u) (k : u.SameM0 v) : s.SameM0 v :=
  ⟨k.cores.trans h.cores, k.paused.trans h.paused⟩

theorem State.SameM0.fset {s u : State} (h : s.SameM0 u) (r : Reg) (hi lo v : Nat) : s.SameM0 (u.fset r hi lo v) :=
  ⟨(u.fset_cores r hi lo v).trans h.cores, by rw [u.fset_time r hi lo v, h.paused]⟩

theorem State.SameM0.ite {s u v : State} {c : Prop} [Decidable c] (h : s.SameM0 u) (k : s.SameM0 v) : s.SameM0 (if c then u else v) := by
  split
  · exact h
  · exact k

theorem State.keepFreq_only (s : State) : ∃ r, s.keepFreq = { s with regs := r } := by
  unfold State.keepFreq
  split
  · exact ⟨s.regs, rfl⟩
  · exact ⟨_, rfl⟩

theorem State.sameM0_ppsLow (s : State) : s.SameM0 s.ppsLow := by
  unfold State.ppsLow
  split <;> exact ⟨rfl, rfl⟩

theorem State.sameM0_toServo (s : State) (n : Nat) : s.SameM0 (s.toServo n) := by
  obtain ⟨r, hr⟩ := s.keepFreq_only
  unfold State.toServo
  rw [hr]
  dsimp only
  refine .trans (.ite (.fset ?_ _ _ _ _) (.fset (.fset ?_ _ _ _ _) _ _ _ _)) (State.sameM0_ppsLow _) <;> exact ⟨rfl, rfl⟩

theorem State.sameM0_srcRec (s : State) (code : BitVec 16) : s.SameM0 (s.srcRec code) := by
  unfold State.srcRec
  constructor
  · rw [State.logRec_cores, State.finc_cores]
  · rw [State.logRec_time, State.finc_time]

theorem State.sameM0_timeLost (s : State) (code : BitVec 16) : s.SameM0 (s.timeLost code) := by
  unfold State.timeLost
  refine (s.sameM0_srcRec code).trans ?_
  dsimp only
  generalize s.srcRec code = v
  have lost := State.SameM0.fset (s := v) (u := { v with time := { v.time with src :=
    { v.time.src with timeOk := false, selected := none, masters := [], ppsGood := 0, ppsBad := 0 } } }) ⟨rfl, rfl⟩ (creg .atbState) 6 4 0
  generalize State.fset _ (creg .atbState) 6 4 0 = u at lost ⊢
  exact .ite (.ite (lost.trans (u.sameM0_toServo _)) (lost.trans (u.sameM0_toServo _))) (.ite (lost.trans (u.sameM0_toServo _)) lost)

theorem State.sameM0_refreshPort (s : State) (p : Fin 16) : s.SameM0 (s.refreshPort p) := by
  unfold State.refreshPort
  split <;> exact ⟨rfl, rfl⟩

theorem State.sameM0_refreshQl (s : State) : s.SameM0 s.refreshQl := by
  unfold State.refreshQl
  split
  · exact .refl s
  · exact List.foldlRecOn _ _ (.refl s) fun u h p _ => h.trans (u.sameM0_refreshPort p)

theorem State.sameM0_leaderCheck (s : State) : s.SameM0 s.leaderCheck := by
  unfold State.leaderCheck
  refine .trans ?_ (State.sameM0_refreshQl _)
  split
  · exact s.sameM0_timeLost _
  · exact .refl s

/-- A restart of M0's island changes the correction in force, and stops M0, its loss timers and its SPDM connections. -/
theorem State.m0Down_eq (s : State) : ∃ r, s.m0Down = { s with
    regs := r, cores := { s.cores with m0Up := false, restart := some s.now },
    time := { s.time with src := { s.time.src with paused := true } }, spdm := { s.spdm with pcie := {}, i3c := {} } } := by
  obtain ⟨r, hr⟩ := s.keepFreq_only
  refine ⟨r, ?_⟩
  rw [State.m0Down, hr]

/-- M0 moults itself by a restart from the held image (R434). -/
theorem m0Moult_of_m0 {s : State} {k : Fin 8} {j : FwImage} (hm : s.cores.moult = some (.m0, k)) (hj : s.cores.heldM0 = some j) :
    m0Moult s = State.m0Down { s with cores := { s.cores with m0 := j, flashM0 := j, heldM0 := none, heldFenen := none, moult := none } } := by
  simp only [m0Moult, hm, hj]

/-- M0 runs again, with its loss timers (R54, R434). -/
theorem m0Restarted_runs (s : State) :
    (m0Restarted s).cores = { s.cores with m0Up := true, restart := none } ∧ (m0Restarted s).time.src.paused = false :=
  have same := State.sameM0_leaderCheck _
  ⟨same.cores, same.paused⟩

/-! ## Messages of the moult (R430, R436, R454) -/

/-- The state in which a message is executed differs in the messages taken only. -/
theorem State.msg_only {s v : State} {op : Nat} {i : SlotId} {m : Msg} (h : s.msg op i m v) : ∃ t, v = { s with mbx := { s.mbx with taken := t } } := by
  obtain ⟨-, -, before, after, -, -, -, -, hv⟩ := h
  exact ⟨_, hv⟩

/-- MOULT_START with images held, whose anti-rollback values stand, while no moult runs: the running image judges the format. -/
theorem moultStart_of_held {s : State} {i j : FwImage} (m : Msg) (hi : s.cores.heldFenen = some i) (hj : s.cores.heldM0 = some j)
    (hm : s.cores.moult = none) (hri : s.boot.fwcnt ≤ i.rollback) (hrj : s.boot.fwcnt ≤ j.rollback) :
    moultStart m s = if Config.formatAccepted (s.cores.image.get (s.holder 0)).format i.format = true then
        State.reply { s with cores := { s.cores with moult := some (.load, 0), aborted := false, spareLoaded := false } } m stOk
      else s.reply m stBadState := by
  have hroll : ¬ (i.rollback < s.boot.fwcnt ∨ j.rollback < s.boot.fwcnt) := by omega
  simp only [moultStart, hi, hj, hm, Option.isSome_none, Bool.false_eq_true, if_false, if_neg hroll]
  cases Config.formatAccepted (s.cores.image.get (s.holder 0)).format i.format <;> rfl

/-- MOULT_STATUS while no moult runs names no role. -/
theorem moultStatus_of_none {s : State} (m : Msg) (hm : s.cores.moult = none) :
    moultStatus m s = s.reply m stOk 0 (toBytes s.ctlStatus 8 ++ leBytes 1 0xFF ++ leBytes 7 0) := by
  simp only [moultStatus, hm]

theorem State.msg_cores {s v : State} {op : Nat} {i : SlotId} {m : Msg} (h : s.msg op i m v) : v.cores = s.cores := by
  obtain ⟨t, rfl⟩ := State.msg_only h
  rfl

theorem State.msg_boot {s v : State} {op : Nat} {i : SlotId} {m : Msg} (h : s.msg op i m v) : v.boot = s.boot := by
  obtain ⟨t, rfl⟩ := State.msg_only h
  rfl

theorem State.msg_holder {s v : State} {op : Nat} {i : SlotId} {m : Msg} (h : s.msg op i m v) (r : Fin 8) : v.holder r = s.holder r := by
  obtain ⟨t, rfl⟩ := State.msg_only h
  rfl

theorem State.msg_ctlStatus {s v : State} {op : Nat} {i : SlotId} {m : Msg} (h : s.msg op i m v) : v.ctlStatus = s.ctlStatus := by
  obtain ⟨t, rfl⟩ := State.msg_only h
  rfl

/-- A reply given in the state in which its message is executed, or with other cores in it, answers the message. -/
theorem State.msg_answered {s v : State} {op : Nat} {i : SlotId} {m : Msg} (h : s.msg op i m v) (c : Cores) (status : Nat) (b : Bytes) :
    s.answered (State.reply { v with cores := c } m status 0 b) m status 0 b := by
  refine State.answered_later (old := []) ?_ ?_ (State.answered_reply _ _ _ _ _)
  all_goals
    obtain ⟨t, rfl⟩ := State.msg_only h
    rfl

end Sys2Proof.Machine

open Sys2Proof Sys2Proof.Machine

/-- Settles O41, clause by clause in its order: each command runs its function, whose effect on the cores is given above. -/
theorem coresComplete : Obligations.CoresComplete := by
  unfold Obligations.CoresComplete
  refine ⟨?_, ?_, ?_, ?_, ?_, ?_, ?_, ?_, ?_, ?_, ?_⟩
  -- HEARTBEAT_WRITE
  · intro s r h
    exact ⟨heartbeatWrite r s, guarded_true h _ s, heartbeatWrite_count r s, vset_get_self _ _ _⟩
  -- HEARTBEAT_TIMEOUT
  · intro s r h
    obtain ⟨hfailed, htaken⟩ := beatTimeout_work r s
    refine ⟨beatTimeout r s, guarded_true h _ s, ?_, fun m hm => ?_⟩
    · rw [hfailed]
      exact (bit_putBit _ _ true _ (s.holder r).isLt).trans (if_pos rfl)
    · rw [htaken, List.mem_filter, Bool.not_eq_true'] at hm
      exact Msg.servedBy_eq_false hm.2
  -- HANDOVER_PREPARE
  · intro s p k pos hp hx hm
    exact ⟨handoverPrepare s, rfl, handoverPrepare_away hp hx hm⟩
  -- HANDOVER_CONFIRM
  · intro s h n k hm hn
    refine ⟨handoverConfirm s, rfl, ?_⟩
    rw [handoverConfirm_of_confirm hm hn]
    exact ⟨rfl, rfl⟩
  -- SPARE_IMAGE_LOADED, of a role in handover
  · intro s k i hm hi
    have hcores := spareLoaded_of_load hm hi
    exact ⟨spareLoaded s, rfl, by rw [hcores, vset_get_self], by rw [hcores], by rw [hcores]⟩
  -- SPARE_IMAGE_LOADED, of the last spare
  · intro s k i j hm hi hj
    refine ⟨spareLoaded s, rfl, ?_⟩
    rw [spareLoaded_of_finish hm hi hj]
    exact ⟨vset_get_self _ _ _, rfl, rfl, rfl⟩
  -- M0_MOULT
  · intro s k j hm hj
    refine ⟨m0Moult s, rfl, ?_⟩
    rw [m0Moult_of_m0 hm hj]
    obtain ⟨r, hr⟩ := State.m0Down_eq { s with cores := { s.cores with m0 := j, flashM0 := j, heldM0 := none, heldFenen := none, moult := none } }
    rw [hr]
    exact ⟨rfl, rfl, rfl, rfl, rfl⟩
  -- M0_RESTART_COMPLETE
  · intro s hr hheld
    obtain ⟨hcores, hpaused⟩ := m0Restarted_runs s
    refine ⟨m0Restarted s, guarded_true (by simp [hr, hheld]) _ s, ?_, ?_, hpaused⟩ <;> rw [hcores]
  -- M0_WATCHDOG_EXPIRY
  · intro s h
    obtain ⟨r, hr⟩ := s.m0Down_eq
    refine ⟨s.m0Down, guarded_true h _ s, ?_⟩
    rw [hr]
    exact ⟨rfl, rfl, rfl, rfl, rfl⟩
  -- MOULT_START
  · intro s v i m f j h hf hj hm hrf hrj
    refine ⟨moultStart m v, message_of_msg h moultStart, ?_⟩
    have hcores := State.msg_cores h
    rw [← State.msg_boot h] at hrf hrj
    rw [moultStart_of_held m (hcores ▸ hf) (hcores ▸ hj) (hcores ▸ hm) hrf hrj, ← hcores, ← State.msg_holder h]
    by_cases hformat : Config.formatAccepted (v.cores.image.get (v.holder 0)).format f.format = true
    · simp only [if_pos hformat]
      have same := State.sameWork_reply { v with cores := { v.cores with moult := some (.load, 0), aborted := false, spareLoaded := false } } m stOk 0 []
      exact ⟨by rw [same.cores], by rw [same.cores], State.msg_answered h _ stOk []⟩
    · simp only [if_neg hformat]
      exact ⟨(v.sameWork_reply m stBadState 0 []).cores, State.msg_answered h v.cores stBadState []⟩
  -- MOULT_STATUS
  · intro s v i m h hm
    refine ⟨moultStatus m v, message_of_msg h moultStatus, ?_⟩
    have hcores := State.msg_cores h
    rw [moultStatus_of_none m (hcores ▸ hm), ← hcores, ← State.msg_ctlStatus h]
    exact ⟨(v.sameWork_reply m stOk 0 _).cores, State.msg_answered h v.cores stOk _⟩
end

section
/-!
What an operation may change: components, registers by name, and one tile with its blocks. The rules that the frames of the
tile commands are built from.
-/
-- one declaration after another, here and below: threads for hundreds of proofs at once do not fit the check's memory limit
set_option Elab.async false
namespace Sys2Proof.Machine

/-! ## The relation -/

/-- Whether a list of register names has a name; no list has every name. -/
def allows (ns : Option (List RegName)) (n : RegName) : Bool := ns.all (·.contains n)

/-- Whether a list of register names has every name of another. -/
def allowsAll (ns : Option (List RegName)) : Option (List RegName) → Bool
  | some l => l.all (allows ns)
  | none => ns.isNone

theorem allows_of_allowsAll {ns ms : Option (List RegName)} (h : allowsAll ns ms = true) {n : RegName} (hn : allows ms n = true) : allows ns n = true := by
  cases ms with
  | none => rw [Option.isNone_iff_eq_none.mp h]; rfl
  | some l => exact List.all_eq_true.mp h n (List.contains_iff_mem.mp hn)

theorem mem_of_all_contains {l cs : List Comp} (h : l.all cs.contains = true) {k : Comp} (hk : k ∈ l) : k ∈ cs :=
  List.contains_iff_mem.mp (List.all_eq_true.mp h k hk)

/-- From `s` to `u` only the components `cs` change, and only registers with the names `ns`; where a tile is given, no other
tile changes, and no register of another block number. -/
structure State.Alters (cs : List Comp) (ns : Option (List RegName)) (here : Option LTile) (s u : State) : Prop where
  comp : ∀ k, k ∉ cs → k.same s u
  reg : ∀ r : Reg, allows ns r.name = false → u.rget r = s.rget r
  tile : ∀ t, here = some t → ∀ t', t' ≠ t → u.tiles.get t' = s.tiles.get t'
  block : ∀ t, here = some t → ∀ r : Reg, r.blk ≠ t.val → u.rget r = s.rget r

section
variable {cs cs' : List Comp} {ns ns' : Option (List RegName)} {here here' : Option LTile} {s u v : State}

theorem Comp.same_trans {s u v : State} {k : Sys2Proof.Comp} (h : k.same s u) (h' : k.same u v) : k.same s v := by
  cases k <;> exact Eq.trans h' h

theorem State.Alters.refl (s : State) : s.Alters cs ns here s :=
  ⟨fun k _ => by cases k <;> rfl, fun _ _ => rfl, fun _ _ _ _ => rfl, fun _ _ _ _ => rfl⟩

theorem State.Alters.trans (h : s.Alters cs ns here u) (k : u.Alters cs ns here v) : s.Alters cs ns here v :=
  ⟨fun c hc => Comp.same_trans (h.comp c hc) (k.comp c hc), fun r hr => (k.reg r hr).trans (h.reg r hr),
    fun t ht t' hne => (k.tile t ht t' hne).trans (h.tile t ht t' hne), fun t ht r hne => (k.block t ht r hne).trans (h.block t ht r hne)⟩

/-- What alters less alters no more than what is allowed. -/
theorem State.Alters.widen (h : s.Alters cs' ns' here' u) (hc : cs'.all cs.contains = true := by rfl) (hn : allowsAll ns ns' = true := by rfl)
    (hh : ∀ t, here = some t → here' = some t := by simp) : s.Alters cs ns here u :=
  ⟨fun k hk => h.comp k fun hk' => hk (mem_of_all_contains hc hk'),
    fun r hr => h.reg r (Bool.eq_false_iff.mpr fun e => Bool.eq_false_iff.mp hr (allows_of_allowsAll hn e)),
    fun t ht => h.tile t (hh t ht), fun t ht => h.block t (hh t ht)⟩

/-- A further operation, which alters no more than what is allowed. -/
theorem State.Alters.next (h : s.Alters cs ns here u) (k : u.Alters cs' ns' here' v) (hc : cs'.all cs.contains = true := by rfl)
    (hn : allowsAll ns ns' = true := by rfl) (hh : ∀ t, here = some t → here' = some t := by simp) : s.Alters cs ns here v :=
  h.trans (k.widen hc hn hh)

theorem State.Alters.ite {c : Prop} [Decidable c] (h : s.Alters cs ns here u) (k : s.Alters cs ns here v) :
    s.Alters cs ns here (if c then u else v) := by
  split
  · exact h
  · exact k

theorem State.Alters.iteSnd {α : Type} {c : Prop} [Decidable c] {x y : α × State} (h : s.Alters cs ns here x.2) (k : s.Alters cs ns here y.2) :
    s.Alters cs ns here (if c then x else y).2 := by
  split
  · exact h
  · exact k

/-- A further operation under a condition. -/
theorem State.Alters.onlyIf {c : Prop} [Decidable c] (h : s.Alters cs ns here u) (k : s.Alters cs ns here u → s.Alters cs ns here v) :
    s.Alters cs ns here (if c then v else u) := .ite (k h) h

/-- A further operation but under a condition. -/
theorem State.Alters.unless {c : Prop} [Decidable c] (h : s.Alters cs ns here u) (k : s.Alters cs ns here u → s.Alters cs ns here v) :
    s.Alters cs ns here (if c then u else v) := .ite h (k h)

/-- A fold whose accumulator holds a state. -/
theorem State.Alters.foldOn {α β : Type} (g : β → State) {f : β → α → β} (hf : ∀ b a, (g b).Alters cs ns here (g (f b a))) {b : β}
    (h : s.Alters cs ns here (g b)) (l : List α) : s.Alters cs ns here (g (l.foldl f b)) := by
  induction l generalizing b with
  | nil => exact h
  | cons a l ih => exact ih (h.trans (hf b a))

theorem State.Alters.fold {α : Type} {f : State → α → State} (hf : ∀ (s : State) (a : α), s.Alters cs ns here (f s a)) (h : s.Alters cs ns here u)
    (l : List α) : s.Alters cs ns here (l.foldl f u) := State.Alters.foldOn id hf h l

/-! ## The rules of the named updates -/

theorem State.Alters.rset (h : s.Alters cs ns here u) (r : Reg) (x : W64) (hc : cs.contains .regs = true := by rfl)
    (hn : allows ns r.name = true := by rfl) (hh : ∀ t, here = some t → r.blk = t.val := by simp) : s.Alters cs ns here (u.rset r x) := by
  have other (q : Reg) (hq : q ≠ r) : (u.rset r x).rget q = u.rget q := by rw [State.rget_rset, if_neg hq]
  refine h.trans ⟨fun k hk => ?_, fun q hq => other q ?_, fun _ _ _ _ => rfl, fun t ht q hne => other q ?_⟩
  · cases k
    case regs => exact absurd (List.contains_iff_mem.mp hc) hk
    all_goals rfl
  · rintro rfl
    exact Bool.eq_false_iff.mp hq hn
  · rintro rfl
    exact hne (hh t ht)

theorem State.Alters.fset (h : s.Alters cs ns here u) (r : Reg) (hi lo x : Nat) (hc : cs.contains .regs = true := by rfl)
    (hn : allows ns r.name = true := by rfl) (hh : ∀ t, here = some t → r.blk = t.val := by simp) : s.Alters cs ns here (u.fset r hi lo x) :=
  h.rset r _ hc hn hh

theorem State.Alters.finc (h : s.Alters cs ns here u) (r : Reg) (hi lo k : Nat) (hc : cs.contains .regs = true := by rfl)
    (hn : allows ns r.name = true := by rfl) (hh : ∀ t, here = some t → r.blk = t.val := by simp) : s.Alters cs ns here (u.finc r hi lo k) :=
  h.rset r _ hc hn hh

theorem State.Alters.modTile (h : s.Alters cs ns here u) (t : LTile) (f : Tile → Tile) (hc : cs.contains .tiles = true := by rfl)
    (hh : ∀ t', here = some t' → t = t' := by simp) : s.Alters cs ns here (u.modTile t f) := by
  refine h.trans ⟨fun k hk => ?_, fun _ _ => rfl, fun t' h' q hne => ?_, fun _ _ _ _ => rfl⟩
  · cases k
    case tiles => exact absurd (List.contains_iff_mem.mp hc) hk
    all_goals rfl
  · rw [State.modTile_tiles, vmod_get, if_neg (hh t' h' ▸ hne)]

theorem State.Alters.setCtx (h : s.Alters cs ns here u) (t : LTile) (c : CtxNo) (k : Option TaskCtx) (hc : cs.contains .tiles = true := by rfl)
    (hh : ∀ t', here = some t' → t = t' := by simp) : s.Alters cs ns here (u.setCtx t c k) := h.modTile t _ hc hh

theorem State.Alters.modCtx (h : s.Alters cs ns here u) (t : LTile) (c : CtxNo) (f : TaskCtx → TaskCtx) (hc : cs.contains .tiles = true := by rfl)
    (hh : ∀ t', here = some t' → t = t' := by simp) : s.Alters cs ns here (u.modCtx t c f) := by
  unfold State.modCtx
  split
  · exact h.setCtx t c _ hc hh
  · exact h

/-- A change of components other than the registers and the tiles. -/
theorem State.Alters.parts (h : s.Alters cs ns here u) (l : List Comp) (hk : ∀ k, k ∉ l → k.same u v := by intro k hk; cases k <;> trivial)
    (hr : v.regs = u.regs := by rfl) (ht : v.tiles = u.tiles := by rfl) (hl : l.all cs.contains = true := by rfl) : s.Alters cs ns here v :=
  h.trans ⟨fun k hk' => hk k fun e => hk' (mem_of_all_contains hl e), fun r _ => State.rget_congr hr r, fun _ _ _ _ => by rw [ht],
    fun _ _ r _ => State.rget_congr hr r⟩

theorem State.Alters.ten (h : s.Alters cs ns here u) (x : Tenancy) (hc : cs.contains .ten = true := by rfl) : s.Alters cs ns here { u with ten := x } :=
  h.parts [.ten] (hl := by simpa using hc)

theorem State.Alters.logRec (h : s.Alters cs ns here u) (r : Rec) (hc : cs.contains .log = true := by rfl) : s.Alters cs ns here (u.logRec r) := by
  obtain ⟨l, e⟩ := u.logRec_log_only r
  rw [e]
  exact h.parts [.log] (hl := by simpa using hc)

end
end Sys2Proof.Machine
end

section
/-!
What tasks, and the operations that a sequencer issues, may change (R201, R206-R212, R475).
-/
set_option Elab.async false
namespace Sys2Proof.Machine

/-! ## The ends of tasks -/

theorem State.schFault_alters (s : State) (t : LTile) (c : CtxNo) (kind : Nat) : s.Alters [.regs] (some [.schFault]) (some t) (s.schFault t c kind) := by
  unfold State.schFault
  split
  · exact .refl s
  · exact .rset (.refl s) _ _

theorem State.endTask_alters (s : State) (t : LTile) (c : CtxNo) (code : Nat) : s.Alters [.tiles] (some []) (some t) (s.endTask t c code) :=
  .modCtx (.refl s) _ _ _

theorem State.dropTask_alters (s : State) (t : LTile) (c : CtxNo) (code : Nat) : s.Alters [.tiles] (some []) (some t) (s.dropTask t c code) := by
  unfold State.dropTask
  split
  · exact .refl s
  · exact .ite (.refl s) (.modCtx (.modTile (.refl s) _ _) _ _ _)

theorem State.failTask_alters (s : State) (t : LTile) (c : CtxNo) (code : Nat) : s.Alters [.tiles, .log] (some []) (some t) (s.failTask t c code) := by
  unfold State.failTask
  split
  · exact .refl s
  · exact .ite (.widen (s.dropTask_alters t c code)) (.ite (.refl s) (.next (.logRec (.refl s) _) (State.endTask_alters _ t c code)))

theorem State.seqFault_alters (s : State) (t : LTile) (c : CtxNo) (kind : Nat) :
    s.Alters [.regs, .tiles, .log] (some [.schFault]) (some t) (s.seqFault t c kind) :=
  .next (.widen (s.schFault_alters t c kind)) (State.failTask_alters _ t c 3)

theorem State.refuse_alters (s : State) (t : LTile) (c : CtxNo) :
    s.Alters [.regs, .tiles, .log] (some [.schFault, .schStat]) (some t) (s.refuse t c) := by
  unfold State.refuse
  split
  · exact .refl s
  · exact .next (.onlyIf (.modTile (.logRec (.finc (.widen (s.schFault_alters t c 2)) _ _ _ _) _) _ _) fun h => .logRec h _) (State.endTask_alters _ t c 12)

theorem State.flag_alters (s : State) (t : LTile) (c : CtxNo) (sat nan poison : Bool) : s.Alters [.tiles] (some []) (some t) (s.flag t c sat nan poison) :=
  .modCtx (.refl s) _ _ _

/-! ## The issue of an operation -/

theorem State.holdOp_alters (s : State) (t : LTile) (c : CtxNo) (k : TaskCtx) :
    s.Alters [.regs, .tiles] (some [.schStat]) (some t) (s.holdOp t c k) := by
  unfold State.holdOp
  exact .ite (.refl s) (.setCtx (.finc (.refl s) _ _ _ _) _ _ _)

theorem State.advance_alters (s : State) (t : LTile) (c : CtxNo) (k : TaskCtx) (le : W64) : s.Alters [.tiles] (some []) (some t) (s.advance t c k le) :=
  .modTile (.setCtx (.refl s) _ _ _) _ _

/-- The issue of an operation alters the task and its fault registers, and what its effect alters (R201, R206, R209). -/
theorem seqIssue_alters {cs : List Comp} {l : List RegName} {eff : Image → TaskCtx → W64 → State → State} {t : LTile}
    {here : Option LTile} (heff : ∀ i k w (v : State), v.Alters cs (some l) here (eff i k w v)) (mine : TaskCtx → W64 → Bool) (c : CtxNo) (s : State)
    (hc : [Comp.regs, .tiles, .log].all cs.contains = true := by rfl) (hl : allowsAll (some l) (some [.schFault, .schStat]) = true := by rfl)
    (hh : ∀ t', here = some t' → t = t' := by simp) : s.Alters cs (some l) here (seqIssue mine eff t c s) := by
  have here' (t' : LTile) (e : here = some t') : some t = some t' := congrArg some (hh t' e)
  have used {v : State} (h : s.Alters [.regs, .tiles, .log] (some [.schFault, .schStat]) (some t) v) :
      s.Alters cs (some l) here (v.modTile t fun x => { x with issued := true }) := .widen (.modTile h t _) hc hl here'
  have hk := seqIssue_cases mine eff t c s
  dsimp only at hk
  rcases hk with e | ⟨k, -, e⟩ | e | e | ⟨k, e⟩ | e | ⟨k, i, w, -, -, e⟩ <;> rw [e]
  · exact .refl s
  · exact (State.Alters.widen (s.holdOp_alters t c k) : s.Alters [.regs, .tiles, .log] (some [.schFault, .schStat]) (some t) _).widen hc hl here'
  · exact used (.widen (s.seqFault_alters t c 1))
  · exact used (.widen (s.seqFault_alters t c 3))
  · exact used (.ite (.widen (s.failTask_alters t c 3)) (.widen (s.dropTask_alters t c 10)))
  · exact used (s.refuse_alters t c)
  · exact .trans (.widen (s.advance_alters t c k _) (by simp_all) rfl here') (heff i k w _)

end Sys2Proof.Machine
end

section
/-!
What the effects of a sequencer's operations may change (R201, R206-R212, R243-R247, R382, R405).
-/
set_option Elab.async false
namespace Sys2Proof.Machine

/-! ## Handing work to a tile's units (R209) -/

theorem State.arrFault_alters (s : State) (t : LTile) (c : CtxNo) (part kind : Nat) (tag : BitVec 16) :
    s.Alters [.regs] (some [.arrFault]) (some t) (s.arrFault t c part kind tag) := .rset (.refl s) _ _

theorem passEff_alters (t : LTile) (c : CtxNo) (i : Image) (k : TaskCtx) (w : W64) (s : State) :
    s.Alters [.regs, .tiles, .log] (some [.arrFault]) (some t) (passEff t c i k w s) := by
  unfold passEff
  dsimp only
  split
  · exact .refl s
  · exact .ite (.next (.widen (s.arrFault_alters t c _ _ _)) (State.failTask_alters _ t c 3)) (.modTile (.refl s) _ _)

theorem sgeEff_alters (t : LTile) (c : CtxNo) (i : Image) (k : TaskCtx) (w : W64) (s : State) :
    s.Alters [.tiles] (some []) (some t) (sgeEff t c i k w s) := .modTile (.refl s) _ _

theorem padopEff_alters (t : LTile) (c : CtxNo) (i : Image) (k : TaskCtx) (w : W64) (s : State) :
    s.Alters [.tiles] (some []) (some t) (padopEff t c i k w s) := by
  unfold padopEff
  split
  · exact .refl s
  · exact .modTile (.refl s) _ _

theorem State.inNext_alters (s : State) (t : LTile) (l : Later) : s.Alters [.tiles] (some []) (some t) (s.inNext t l) := .modTile (.refl s) _ _

theorem endEff_alters (t : LTile) (c : CtxNo) (i : Image) (k : TaskCtx) (w : W64) (s : State) :
    s.Alters [.tiles] (some []) (some t) (endEff t c i k w s) := by
  unfold endEff
  exact .next (.onlyIf (.refl s) fun h => .modTile h _ _) (State.endTask_alters _ t c 0)

/-! ## Sends and posts (R194, R207, R221, R382) -/

theorem State.flit_alters (s : State) (due : W64) (p : Payload) (d : Option W64) (x : Option (Fin 4 × W64)) (w : Option (LTile × CtxNo)) (b : W64)
    (here : Option LTile) : s.Alters [.mesh] (some []) here (s.flit due p d x w b) := .parts (.refl s) [.mesh]

theorem State.xfer_alters (s : State) (x : Xfer) (here : Option LTile) : s.Alters [.mesh] (some []) here (s.xfer x) := .parts (.refl s) [.mesh]

theorem sendRadioEff_alters (t : LTile) (c : CtxNo) (i : Image) (k : TaskCtx) (w : W64) (s : State) :
    s.Alters [.tiles, .mesh] (some []) (some t) (sendRadioEff t c i k w s) := by
  unfold sendRadioEff
  split
  · exact .refl s
  · exact .unless (.modTile (.refl s) _ _) fun h => h.parts [.mesh]

theorem sendTenantEff_alters (t : LTile) (c : CtxNo) (i : Image) (k : TaskCtx) (w : W64) (s : State) :
    s.Alters [.tiles, .mesh] (some []) (some t) (sendTenantEff t c i k w s) := by
  unfold sendTenantEff
  split
  · exact .refl s
  · exact .fold (fun v _ => .widen (v.xfer_alters _ (some t))) (.modTile (.refl s) _ _) _

theorem postEff_alters (t : LTile) (c : CtxNo) (i : Image) (k : TaskCtx) (w : W64) (s : State) (here : Option LTile) :
    s.Alters [.mesh] (some []) here (postEff t c i k w s) := s.flit_alters _ _ _ _ _ _ here

theorem State.frtCount_alters (s : State) (t : LTile) (c : CtxNo) (f : Nat → Nat) (here : Option LTile) :
    s.Alters [.ten] (some []) here (s.frtCount t c f) := .parts (.refl s) [.ten]

/-! ## MEMX (R243-R247) -/

theorem State.ask_alters (s : State) (src : MemSource) (ops : List (Nat × LineOp × ReplyTo)) (here : Option LTile) :
    s.Alters [.mem] (some []) here (s.ask src ops) := .parts (.refl s) [.mem]

theorem memxTenant_alters (t : LTile) (c : CtxNo) (k : TaskCtx) (d : Bytes) (addr pad : Nat) (s : State) (here : Option LTile) :
    s.Alters [.mesh, .mem] (some []) here (memxTenant t c k d addr pad s) := by
  unfold memxTenant
  dsimp only
  split
  · exact .next (.parts (.refl s) [.mesh, .mem]) (State.ask_alters _ _ _ here)
  · exact .fold (fun v _ => .widen (v.xfer_alters _ here)) (.parts (.refl s) [.mesh, .mem]) _

theorem memxEff_alters (t : LTile) (c : CtxNo) (i : Image) (k : TaskCtx) (w : W64) (s : State) (here : Option LTile) :
    s.Alters [.mesh, .mem] (some []) here (memxEff t c i k w s) := by
  unfold memxEff
  dsimp only
  split
  · exact .refl s
  · split
    · split
      · split
        · exact .parts (.refl s) [.mesh, .mem]
        · exact .refl s
      · exact memxTenant_alters t c k _ _ _ s here
    · exact .refl s

/-! ## The end of a kernel (R211, R405, R406) -/

theorem State.queueK_alters (s : State) (p : Fin 7) (m : KMsg) : s.Alters [.fab] (some []) none (s.queueK p m) := .parts (.refl s) [.fab]

theorem State.handK_alters (s : State) (n : Fin 8) (m : KMsg) : s.Alters [.fab] (some []) none (s.handK n m) := by
  rcases s.handK_only n m with e | e <;> rw [e]
  · exact .refl s
  · exact s.queueK_alters _ m

theorem State.mapTiles_alters (s : State) (f : Tile → Tile) : s.Alters [.tiles] (some []) none { s with tiles := s.tiles.map f } :=
  ⟨fun k hk => by cases k <;> trivial, fun _ _ => rfl, fun _ => nofun, fun _ => nofun⟩

theorem State.beginSuspend_alters (s : State) : s.Alters [.tiles, .ten] (some []) none s.beginSuspend := by
  unfold State.beginSuspend
  exact .unless (.refl s) fun h => .next (.parts h [.ten]) (State.mapTiles_alters _ _)

theorem State.mismatch_alters (s : State) (kind : Nat) (r : TwinRec) (pass : Nat) :
    s.Alters [.regs, .tiles, .ten, .log] (some [.fabTwin]) none (s.mismatch kind r pass) := by
  unfold State.mismatch
  exact .onlyIf (.logRec (.unless (.refl s) fun h => .rset h _ _) _) fun h => .parts (.next h (State.beginSuspend_alters _)) [.ten]

theorem State.compareTwins_alters (s : State) (mine theirs : TwinRec) :
    s.Alters [.regs, .tiles, .ten, .log, .fab] (some [.fabTwin]) none (s.compareTwins mine theirs) := by
  unfold State.compareTwins
  exact .unless (.parts (.refl s) [.fab]) fun h => .next h (State.mismatch_alters _ _ _ _)

theorem State.twinKernel_alters (s : State) (t : LTile) (k : TaskCtx) (record : List W64) :
    s.Alters [.regs, .tiles, .ten, .log, .fab] (some [.fabTwin]) none (s.twinKernel t k record) := by
  unfold State.twinKernel
  split
  · exact .refl s
  · dsimp only
    split
    · exact .next (.widen (s.handK_alters _ _)) (State.compareTwins_alters _ _ _)
    · exact .parts (.widen (s.handK_alters _ _)) [.fab]

theorem kernelEnd_alters (t : LTile) (c : CtxNo) (i : Image) (k : TaskCtx) (w : W64) (s : State) :
    s.Alters [.regs, .tiles, .ten, .log, .fab] (some [.arrHash, .fabTwin]) none (kernelEnd t c i k w s) := by
  unfold kernelEnd kbndEff
  exact .modCtx (.fold (fun v q => .rset (.refl v) _ _) (.modCtx (.unless (.refl s) fun h => .next h (s.twinKernel_alters t k _)) _ _ _) _) _ _ _
end Sys2Proof.Machine
end

section
/-!
What a tile's array, engine, compare unit and pads may change in a command (R75-R88, R112-R143, R144-R185).
-/
set_option Elab.async false
namespace Sys2Proof.Machine

/-! ## Pads: writes, reads and records (R117, R178, R180) -/

theorem State.padWrite_alters (s : State) (t : LTile) (w : PadWrite) (here : Option LTile) : s.Alters [.pads] (some []) here (s.padWrite t w) :=
  .parts (.refl s) [.pads]

theorem State.modPad_alters (s : State) (p : PTile) (f : Pad → Pad) (here : Option LTile) : s.Alters [.pads] (some []) here (s.modPad p f) :=
  .parts (.refl s) [.pads]

theorem State.padStore_alters (s : State) (t : LTile) (rank tag addr : Nat) (b : Bytes) (here : Option LTile) :
    s.Alters [.pads] (some []) here (s.padStore t rank tag addr b) := by
  unfold State.padStore
  exact .unless (.refl s) fun h => .fold (fun v _ => v.padWrite_alters t _ here) h _

theorem State.noteRead_alters (s : State) (t : LTile) (r tag : Nat) :
    s.Alters [.regs, .pads, .log] (some [.padEcc]) (some t) (s.noteRead t r tag) := by
  unfold State.noteRead
  dsimp only
  have counted {u : State} (h : s.Alters [.regs, .pads, .log] (some [.padEcc]) (some t) u) (hi lo : Nat) :
      s.Alters [.regs, .pads, .log] (some [.padEcc]) (some t) (u.finc (treg .padEcc t) hi lo) := .finc h _ _ _ _
  have fails {u : State} (h : s.Alters [.regs, .pads, .log] (some [.padEcc]) (some t) u) {c : Prop} [Decidable c] :
      s.Alters [.regs, .pads, .log] (some [.padEcc]) (some t) (if c then u.modPad (u.ptile t) (·.fail r) else u) :=
    .onlyIf h fun h => h.next (u.modPad_alters _ _ (some t))
  refine .ite (fails (.logRec (.unless (.refl s) fun h => counted h _ _) _)) ?_
  split
  · exact .unless (.unless (.refl s) fun h => counted h _ _) fun h => .unless (counted h _ _) fun h => h.logRec _
  · exact counted (.unless (.refl s) fun h => counted h _ _) _ _
  · exact fails (.unless (counted (.unless (.refl s) fun h => counted h _ _) _ _) fun h => h.logRec _)

theorem State.padReads_alters (t : LTile) (tag n : Nat) : ∀ (s : State) (r : Nat),
    s.Alters [.regs, .pads, .log] (some [.padEcc]) (some t) (s.padReads t tag r n).2 := by
  induction n with
  | zero => exact fun s r => .refl s
  | succ n ih => exact fun s r => (s.noteRead_alters t r tag).trans (ih _ _)

theorem State.swapCandidate_alters (s : State) (t : LTile) (unit : Nat) (code : Code) (limit : Option (Nat × Nat × Nat)) (object : Nat) (detail : Bytes)
    (here : Option LTile) : s.Alters [.log] (some []) here (s.swapCandidate t unit code limit object detail) := by
  unfold State.swapCandidate
  exact .unless (.logRec (.refl s) _) fun h => .fold (fun v _ => .logRec (.refl v) _) h _

/-! ## The array (R75-R88, R333-R338) -/

theorem State.markRecord_alters (s : State) (t : LTile) (p : Pass) (here : Option LTile) : s.Alters [.pads] (some []) here (s.markRecord t p) := by
  unfold State.markRecord
  split
  · exact .onlyIf (.refl s) fun h => h.next (s.padStore_alters t _ _ _ _ here)
  · exact .refl s

theorem State.poisonPass_alters (s : State) (t : LTile) (part : Fin 7) (start : W64) (kind : Nat) :
    s.Alters [.regs, .tiles, .pads] (some [.arrFault]) (some t) (s.poisonPass t part start kind) := by
  unfold State.poisonPass
  split
  · exact .refl s
  · exact .modTile (.next (.widen (s.arrFault_alters t _ _ _ _)) (State.markRecord_alters _ t _ (some t))) _ _

theorem arrayParity_alters (t : LTile) (kind : ParityKind) (row col : Nat) (s : State) :
    s.Alters [.regs, .tiles, .pads, .log] (some [.arrFault]) (some t) (arrayParity t kind row col s) := by
  unfold arrayParity
  dsimp only
  refine .onlyIf (.modTile ?_ _ _) fun h => h.next (State.swapCandidate_alters _ t _ _ _ _ _ (some t))
  split
  · exact .refl s
  · exact .widen (s.poisonPass_alters t _ _ _)

theorem State.countHold_alters (s : State) (t : LTile) (thr : Bool) : s.Alters [.regs] (some [.schStat, .tenStat]) none (s.countHold t thr) := by
  unfold State.countHold
  exact .onlyIf (.finc (.refl s) _ _ _ _) fun h => h.finc _ _ _ _

theorem State.holdPass_alters (s : State) (t : LTile) (q : PendPass) (parked thr : Bool) :
    s.Alters [.regs, .tiles] (some [.schStat, .tenStat]) none (s.holdPass t q parked thr) := by
  unfold State.holdPass
  exact .unless (.refl s) fun h => .modTile (.unless h fun h => h.next (s.countHold_alters t thr)) _ _

theorem startPass_alters (t : LTile) (q : PendPass) (d : Bytes) (ptr : Nat) (k : TaskCtx) (s : State) :
    s.Alters [.regs, .tiles, .log] (some [.arrFault]) (some t) (startPass t q d ptr k s) := by
  unfold startPass
  dsimp only
  split
  · exact .next (.next (.modTile (.refl s) _ _) (State.arrFault_alters _ t _ _ _ _)) (State.failTask_alters _ t _ 3)
  · exact .modTile (.modTile (.refl s) _ _) _ _

theorem passStart_alters (t : LTile) (part : Fin 7) (s : State) :
    s.Alters [.regs, .tiles, .log] (some [.arrFault, .schStat, .tenStat]) none (passStart t part s) := by
  have hold (q : PendPass) (parked thr : Bool) : s.Alters [.regs, .tiles, .log] (some [.arrFault, .schStat, .tenStat]) none (s.holdPass t q parked thr) :=
    .widen (s.holdPass_alters t q parked thr)
  have start (q : PendPass) (d : Bytes) (ptr : Nat) (k : TaskCtx) :
      s.Alters [.regs, .tiles, .log] (some [.arrFault, .schStat, .tenStat]) none (startPass t q d ptr k s) := .widen (startPass_alters t q d ptr k s)
  unfold passStart
  dsimp only
  split
  · exact .refl s
  · split
    · exact .refl s
    · split
      · exact .refl s
      · exact .ite (.refl s) (.ite (hold _ _ _) (.ite (start _ _ _ _) (.ite (hold _ _ _) (start _ _ _ _))))

theorem State.freezeNow_alters (s : State) (t : LTile) (closes : Option W64) :
    s.Alters [.regs, .tiles, .ten] (some [.arrPreempt, .tenMeter]) none (s.freezeNow t closes) := by
  unfold State.freezeNow
  exact .unless (.refl s) fun h => .finc (.ten (.finc (.modTile h _ _) _ _ _ _) _) _ _ _ _

theorem preemptFreeze_alters (t : LTile) (s : State) : s.Alters [.regs, .tiles, .ten] (some [.arrPreempt, .tenMeter]) none (preemptFreeze t s) := by
  unfold preemptFreeze
  refine .ite (.refl s) (.ite (s.freezeNow_alters t none) ?_)
  split
  · exact .ite (s.freezeNow_alters t _) (.refl s)
  · exact .refl s

theorem preemptRestore_alters (t : LTile) (s : State) : s.Alters [.tiles] (some []) none (preemptRestore t s) := by
  unfold preemptRestore
  split
  · exact .refl s
  · exact .onlyIf (.refl s) fun h => h.modTile _ _

/-- A write of PARK alters its register, or only the log (R22, R75). -/
theorem parkReg_alters (n : RegName) (i : Nat) (t : LTile) (a : Agent) (s : State) :
    s.Alters [.regs, .log] (some [n]) (some t) (parkReg (treg n t) i t a s) := by
  rw [parkReg_cases]
  exact .ite (.fset (.refl s) _ _ _ _ (hn := by simp [allows])) (.logRec (.refl s) _)

/-! ## The engine (R112-R116, R140-R143) -/

theorem State.sgeFault_alters (s : State) (t : LTile) (c : CtxNo) (kind idx op : Nat) :
    s.Alters [.regs] (some [.sgeFault]) (some t) (s.sgeFault t c kind idx op) := .rset (.refl s) _ _

theorem engFault_alters (t : LTile) (c : CtxNo) (kind idx : Nat) (w : W64) (s : State) :
    s.Alters [.regs, .tiles, .log] (some [.sgeFault]) (some t) (engFault t c kind idx w s) :=
  .modTile (.next (.widen (s.sgeFault_alters t c kind idx _)) (State.failTask_alters _ t c 2)) _ _

theorem engIssue1_alters (t : LTile) (parity : Bool) (b : SgeBlock) (idx : Nat) (w : W64) (rest : List (Nat × W64 × Bool)) (k : TaskCtx) (s : State) :
    s.Alters [.regs, .tiles, .ten, .log, .freeCount] (some [.sgeFault, .sgeIcount]) (some t) (engIssue1 t parity b idx w rest k s) := by
  unfold engIssue1
  dsimp only
  have drawn : s.Alters [.regs, .tiles, .ten, .log, .freeCount] (some [.sgeFault, .sgeIcount]) (some t) (if opOf w = 0x34 then s.draw else (0, s)).2 := by
    split
    · exact .parts (.refl s) [.freeCount]
    · exact .refl s
  generalize (if opOf w = 0x34 then s.draw else (0, s)) = x at drawn ⊢
  refine .ite (drawn.next (engFault_alters t _ _ _ _ _)) (.ite (drawn.next (engFault_alters t _ _ _ _ _)) (.modTile ?_ _ _))
  exact .onlyIf (.unless (drawn.finc _ _ _ _) fun h => h.parts [.ten]) fun h => h.next (State.sgeFault_alters _ t _ _ _ _)

theorem engIssue_alters (mine : W64 → Bool) (t : LTile) (parity : Bool) (s : State) :
    s.Alters [.regs, .tiles, .ten, .log, .freeCount] (some [.sgeFault, .sgeIcount]) (some t) (engIssue mine t parity s) := by
  rcases engIssue_cases mine t parity s with e | ⟨c, idx, w, e⟩ | ⟨b, idx, w, rest, k, -, -, e⟩ <;> rw [e]
  · exact .refl s
  · exact .widen (engFault_alters t c 4 idx w s)
  · exact engIssue1_alters t parity b idx w rest k s

/-! ## The compare unit (R170-R176) -/

theorem State.poFaultReg_alters (s : State) (t : LTile) (c : CtxNo) (kind op : Nat) :
    s.Alters [.regs] (some [.padOpfault]) (some t) (s.poFaultReg t c kind op) := .rset (.refl s) _ _

theorem poStart_alters (mine : Nat → Bool) (t : LTile) (s : State) :
    s.Alters [.regs, .tiles, .log] (some [.padOpfault]) (some t) (poStart mine t s) := by
  unfold poStart
  split
  · exact .refl s
  · split
    · exact .refl s
    · refine .unless (.refl s) fun h => ?_
      split
      · exact .next (.next (.modTile h _ _) (State.poFaultReg_alters _ t _ _ _)) (State.failTask_alters _ t _ 3)
      · exact .unless h fun h => h.modTile _ _

/-! ## Patrol and regrow (R179-R183) -/

theorem patrol_alters (t : LTile) (x : BitVec 528) (m : BitVec 13) (s : State) :
    s.Alters [.regs, .pads, .log] (some [.padEcc]) (some t) (patrol t x m s) := by
  unfold patrol
  dsimp only
  have noted (f : Pad → Pad) (n tag : Nat) : s.Alters [.regs, .pads, .log] (some [.padEcc]) (some t) ((s.modPad (s.ptile t) f).noteRead t n tag) :=
    .next (.widen (s.modPad_alters _ f (some t))) (State.noteRead_alters _ t n tag)
  refine .ite (noted _ _ _) ?_
  split
  · exact (noted _ _ _).next (State.modPad_alters _ _ _ (some t))
  · exact .onlyIf ((noted _ _ _).next (State.modPad_alters _ _ _ (some t))) fun h => h.next (State.modPad_alters _ _ _ (some t))
  · exact (noted _ _ _).next (State.modPad_alters _ _ _ (some t))

theorem regrowRow_alters (t : LTile) (bank row : Nat) (s : State) :
    s.Alters [.regs, .pads, .log] (some [.padEcc]) (some t) (regrowRow t bank row s) := by
  unfold regrowRow
  exact .ite (.next (.widen (s.modPad_alters _ _ (some t))) (State.swapCandidate_alters _ t _ _ _ _ _ (some t)))
    (.finc (.next (.widen (s.modPad_alters _ _ (some t))) (State.modPad_alters _ _ _ (some t))) _ _ _ _)

end Sys2Proof.Machine
end

section
/-!
The matrix arrays' commands: pass starts, freezes, restores and parity errors (R62, R68, R71, R79-R86, R338).
-/
set_option Elab.async false
namespace Sys2Proof.Machine

@[simp] theorem State.arr_modArr (s : State) (t : LTile) (f : MArray → MArray) : (s.modArr t f).arr t = f (s.arr t) := by
  simp [State.arr]

theorem State.arr_congr {s u : State} (h : u.tiles = s.tiles) (t : LTile) : u.arr t = s.arr t := by
  rw [State.arr, h, State.arr]

/-- A pass whose descriptor holds is the newest of the running passes once it starts (R68, R78). -/
theorem startPass_run {t : LTile} {q : PendPass} {d : Bytes} {ptr : Nat} {k : TaskCtx} {s : State}
    (h : dFault k q.ctx (tfind (lastKey q.radio q.part.val) (s.arr t).last) d = none) :
    ((startPass t q d ptr k s).arr t).run =
      { part := q.part, ctx := q.ctx, owner := k.owner, radio := k.radio, desc := d, descPtr := ptr, start := s.now, kc := dKc d } :: (s.arr t).run := by
  simp [startPass, h, State.now]

/-- A pending pass starts in its earliest cycle where its array is not parked, its partition is free and, for a tenant pass,
nothing holds it (R62, R68, R71, R79). -/
theorem passStart_eq_startPass {t : LTile} {part : Fin 7} {s : State} {q : PendPass} {k : TaskCtx} {d : Bytes} {ptr : Nat}
    (hq : ((s.arr t).pend.find? fun p => decide (p.part = part)) = some q) (hk : s.ctx t q.ctx = some k) (hd : s.passDesc k q.idx = some (d, ptr))
    (hnow : s.now = (s.arr t).readyAt q (dChain d)) (hpark : s.fget (treg .arrCtrl t) 1 1 = 0) (hfree : (s.arr t).free part.val (dChain d) = true)
    (hgo : k.radio = true ∨ (s.tenantStopped t = false ∧ s.passHeld t d = false ∧ s.passThrottled t part.val = false)) :
    passStart t part s = startPass t q d ptr k s := by
  have comes : q.comes (s.arr t) (dChain d) s.now = true := by simp [PendPass.comes, ← hnow]
  simp only [passStart, hq, hk, hd, comes, hfree, hpark]
  rcases hgo with hr | ⟨hs, hh, ht⟩
  · simp [hr]
  · simp [hs, hh, ht]

/-- A freeze takes its tile's freezable passes, and counts (R80). -/
theorem State.freezeNow_arr {s : State} {t : LTile} (h : (s.arr t).run.any Pass.freezable = true) (closes : Option W64) :
    (s.freezeNow t closes).arr t = { s.arr t with
        freeze := some { start := s.now, closes := closes, rows := (List.range 128).map (rawRow ((s.arr t).run.filter (·.freezable))) }
        run := mapIf (·.freezable) (fun p => { p with events := p.eventsNow, frozen := true }) (s.arr t).run }
      ∧ (s.freezeNow t closes).ten.freezes = s.ten.freezes + 1 := by
  have some_freezable : (s.arr t).run.filter (·.freezable) ≠ [] := by simpa [List.filter_eq_nil_iff] using h
  simp only [State.freezeNow, some_freezable, if_false]
  exact ⟨by simp [State.arr], by simp⟩

/-- No pass is freezable once the freezable ones are frozen. -/
theorem any_freezable_mapIf_frozen (l : List Pass) :
    (mapIf (·.freezable) (fun p => { p with events := p.eventsNow, frozen := true }) l).any Pass.freezable = false := by
  simp only [mapIf, List.any_map, List.any_eq_false, Function.comp_apply]
  intro p _
  split
  · simp [Pass.freezable]
  · assumption

/-- A freeze begins with a suspend, or 160 cycles before the tile's next span (R80, R335, R336). -/
theorem preemptFreeze_eq_freezeNow {s : State} {t : LTile} {closes : Option W64} (h : (s.arr t).freeze = none)
    (due : s.ten.suspendAt = some s.now ∧ closes = none
      ∨ s.ten.suspendAt ≠ some s.now ∧ ∃ o c, s.nextSpan t s.now = some (o, c) ∧ o - s.now = 160 ∧ closes = some c) :
    preemptFreeze t s = s.freezeNow t closes := by
  rcases due with ⟨hs, rfl⟩ | ⟨hs, o, c, hspan, ho, rfl⟩
  · simp [preemptFreeze, h, hs]
  · simp [preemptFreeze, h, hs, hspan, ho]

/-- A restore begins once the save is over and its cycle has come (R82, R338). -/
theorem preemptRestore_freeze {s : State} {t : LTile} {f : Freeze} (hf : (s.arr t).freeze = some f) (hr : f.restore = none)
    (hsave : 129 ≤ (s.now - f.start).toNat) (due : f.closes = some s.now ∨ f.closes = none ∧ s.resumeDue t = true) :
    ((preemptRestore t s).arr t).freeze = some { f with restore := some s.now } := by
  rcases due with hc | ⟨hc, hd⟩
  · simp [preemptRestore, hf, hr, hc, hsave, -BitVec.toNat_sub]
  · simp [preemptRestore, hf, hr, hc, hd, hsave, -BitVec.toNat_sub]

/-! ## Parity errors (R85, R86) -/

/-- The marks in the array that a poisoned pass leaves (R85). -/
theorem State.poisonPass_arr (s : State) (t : LTile) (part : Fin 7) (start : W64) (kind : Nat) :
    (s.poisonPass t part start kind).arr t = { s.arr t with
      run := mapIf (fun q => decide (q.part = part ∧ q.start = start)) (fun q => { q with poison := true }) (s.arr t).run } := by
  unfold State.poisonPass
  split
  · rename_i h
    have same : mapIf (fun q => decide (q.part = part ∧ q.start = start)) (fun q : Pass => { q with poison := true }) (s.arr t).run = (s.arr t).run := by
      refine (List.map_congr_left fun q hq => if_neg ?_).trans (List.map_id _)
      simpa using List.find?_eq_none.mp h q hq
    rw [same]
  · rename_i p _
    have marked (u : State) : (u.markRecord t p).arr t = u.arr t := State.arr_congr ((u.markRecord_alters t p none).comp .tiles (by simp)) t
    rw [State.arr_modArr, marked]
    rfl

/-- A running pass that is poisoned still runs. -/
theorem mem_run_poisonPass {s : State} {t : LTile} {p : Pass} (h : p ∈ (s.arr t).run) (kind : Nat) :
    { p with poison := true } ∈ ((s.poisonPass t p.part p.start kind).arr t).run := by
  rw [State.poisonPass_arr]
  exact List.mem_map.mpr ⟨p, h, by simp⟩

/-- The running pass that a parity error in a quarter meets: for a cell the newest, for a latch the oldest (R85). -/
def parityHit (kind : ParityKind) (run : List Pass) (q : Nat) : Option Pass :=
  let mine := run.filter fun p => coversQ p.part.val q
  match kind with | .cell => mine.head? | .latch => mine.getLast?

/-- The state once a parity error has poisoned the pass that it meets (R85). -/
def parityPoison (t : LTile) (kind : ParityKind) (q : Nat) (s : State) : State :=
  match parityHit kind (s.arr t).run q with
  | none => s
  | some p => s.poisonPass t p.part p.start (match kind with | .cell => 2 | .latch => 3)

theorem parityPoison_cases (t : LTile) (kind : ParityKind) (q : Nat) (s : State) :
    parityPoison t kind q s = s ∨ ∃ p n, parityHit kind (s.arr t).run q = some p ∧ parityPoison t kind q s = s.poisonPass t p.part p.start n := by
  unfold parityPoison
  split
  · exact .inl rfl
  · next p h => exact .inr ⟨p, _, h, rfl⟩

@[simp] theorem parityPoison_parity (t : LTile) (kind : ParityKind) (q : Nat) (s : State) :
    ((parityPoison t kind q s).arr t).parity = (s.arr t).parity := by
  rcases parityPoison_cases t kind q s with e | ⟨p, n, -, e⟩ <;> rw [e]
  rw [State.poisonPass_arr]

@[simp] theorem parityPoison_now (t : LTile) (kind : ParityKind) (q : Nat) (s : State) : (parityPoison t kind q s).now = s.now := by
  rcases parityPoison_cases t kind q s with e | ⟨p, n, -, e⟩ <;> rw [e]
  exact congrArg TimeState.now ((s.poisonPass_alters t p.part p.start n).comp .time (by simp))

/-- The pass that a parity error meets runs on, poisoned (R85). -/
theorem parityHit_poisoned {t : LTile} {kind : ParityKind} {q : Nat} {s : State} {p : Pass} (h : parityHit kind (s.arr t).run q = some p) :
    { p with poison := true } ∈ ((parityPoison t kind q s).arr t).run := by
  have runs : p ∈ (s.arr t).run := by
    cases kind
    · exact List.mem_of_mem_filter (List.mem_of_mem_head? h)
    · exact List.mem_of_mem_filter (List.mem_of_mem_getLast? h)
  simp only [parityPoison, h]
  exact mem_run_poisonPass runs _

/-- A parity error is counted for its quarter, in the interval it occurs in (R86). -/
theorem arrayParity_arr (t : LTile) (kind : ParityKind) (row col : Nat) (s : State) :
    let q := quarterOf row col
    let i := interval s.now 1
    let old := tget (i, 0) (s.arr t).parity q
    (arrayParity t kind row col s).arr t =
      { (parityPoison t kind q s).arr t with parity := tput q (i, if old.1 = i then old.2 + 1 else 1) (s.arr t).parity } := by
  intro q i old
  have counted : (match tfind q (s.arr t).parity with | some (j, n) => if j = i then n + 1 else 1 | none => 1)
      = if old.1 = i then old.2 + 1 else 1 := by
    simp only [old, tget]
    cases tfind q (s.arr t).parity <;> simp
  have reported {c : Prop} [Decidable c] (u : State) : (if c then u.swapCandidate t 1 (.rule 86 0) none q else u).arr t = u.arr t := by
    split
    · exact State.arr_congr ((u.swapCandidate_alters t 1 (.rule 86 0) none q [] none).comp .tiles (by simp)) t
    · rfl
  refine (reported _).trans ((State.arr_modArr _ t _).trans ?_)
  rw [← counted, ← parityPoison_parity t kind q s]
  simp only [i, ← parityPoison_now t kind q s]
  rfl

end Sys2Proof.Machine
open Sys2Proof Sys2Proof.Machine

/-- Settles O8: each command by the rule of its function, on the array that it leaves. -/
theorem arrayCompletes : Obligations.ArrayCompletes := by
  unfold Obligations.ArrayCompletes
  refine ⟨?_, ?_, ?_, ?_⟩
  · intro s t part q k d ptr hq hk hd hnow hpark hfree hgo hf
    have hpart : q.part = part := by simpa using List.find?_some hq
    have run := startPass_run (ptr := ptr) (hpart ▸ hf : dFault k q.ctx (tfind (lastKey q.radio q.part.val) (s.arr t).last) d = none)
    rw [← passStart_eq_startPass hq hk hd hnow hpark hfree hgo] at run
    exact ⟨_, rfl, _, run ▸ List.mem_cons_self, hpart, rfl, rfl, rfl, rfl, rfl, rfl, rfl, rfl, rfl⟩
  · intro s t closes h hany due
    obtain ⟨harr, hcount⟩ := State.freezeNow_arr hany closes
    rw [← preemptFreeze_eq_freezeNow h due] at harr hcount
    refine ⟨_, rfl, ?_, ?_, hcount⟩
    · exact ⟨_, congrArg MArray.freeze harr, rfl, rfl, rfl⟩
    · exact (congrArg (·.run.any Pass.freezable) harr).trans (any_freezable_mapIf_frozen _)
  · intro s t f hf hr hsave due
    exact ⟨_, rfl, preemptRestore_freeze hf hr hsave due⟩
  · intro s t kind row col q i old
    have harr := arrayParity_arr t kind row.val col.val s
    refine ⟨_, rfl, ?_, ?_⟩
    · exact (congrArg (tfind q ·.parity) harr).trans ((tfind_tput q q _ _).trans (if_pos rfl))
    · intro p on hit
      have met : parityHit kind (s.arr t).run q = some p := by
        rw [← hit]
        cases kind <;> rfl
      have runs : { p with poison := true } ∈ ((arrayParity t kind row.val col.val s).arr t).run := by
        rw [harr]
        exact parityHit_poisoned met
      exact ⟨_, runs, rfl, rfl, rfl, rfl⟩
end

section
/-!
What landing zones, the mesh and radio windows may change in a command (R162-R169, R189-R202, R207, R217).
-/
set_option Elab.async false
namespace Sys2Proof.Machine

/-! ## Flits (R189, R207) -/

theorem State.transit_alters (s : State) (a b : Nat) (v : W64) (here : Option LTile) : s.Alters [.mesh] (some []) here (s.transit a b v).2 :=
  .parts (.refl s) [.mesh]

theorem State.sendOn_alters (s : State) (tenant : Bool) (a b : Nat) (p : Payload) (here : Option LTile) :
    s.Alters [.mesh] (some []) here (s.sendOn tenant a b p) := by
  unfold State.sendOn
  exact .ite ((s.transit_alters a b _ here).trans (State.flit_alters _ _ _ _ _ _ _ here)) (s.flit_alters _ _ _ _ _ _ here)

theorem State.noteOutputs_alters (s : State) (sender : Option (LTile × CtxNo)) (l : List Put) (here : Option LTile) :
    s.Alters [.mesh] (some []) here (s.noteOutputs sender l) := by
  unfold State.noteOutputs
  split
  · exact .onlyIf (.refl s) fun h => h.parts [.mesh]
  · exact .refl s

theorem State.takeFlit_alters {s u : State} {f : Flit → Bool} {x : Flit} (h : s.takeFlit f = some (x, u)) (here : Option LTile) :
    s.Alters [.mesh] (some []) here u := by
  rw [State.takeFlit, Option.map_eq_some_iff] at h
  obtain ⟨⟨y, l⟩, -, h⟩ := h
  cases h
  exact .parts (.refl s) [.mesh]

/-! ## Landing zones (R162-R169) -/

theorem State.sendGrant_alters (s : State) (t : LTile) (z : Nat) : s.Alters [.regs, .mesh] (some [.padLzState]) (some t) (s.sendGrant t z) :=
  .next (.fset (.refl s) (zstate t z) 63 32 _) (State.sendOn_alters _ _ _ _ _ (some t))

theorem State.advanceRd_alters (s : State) (t : LTile) (z : Nat) (rd : BitVec 32) :
    s.Alters [.regs, .mesh] (some [.padLzState, .padLzRd]) (some t) (s.advanceRd t z rd) := by
  unfold State.advanceRd
  exact .onlyIf (.fset (.fset (.refl s) _ _ _ _) _ _ _ _) fun h => h.next (State.sendGrant_alters _ t z)

theorem State.setRd_alters (s : State) (t : LTile) (z : Nat) (rd : BitVec 32) :
    s.Alters [.regs, .mesh, .log] (some [.padLzState, .padLzRd]) (some t) (s.setRd t z rd) := by
  unfold State.setRd
  exact .ite (.unless (.refl s) fun _ => .widen (s.advanceRd_alters t z rd)) (.logRec (.refl s) _)

theorem State.land_alters (s : State) (w : LandW) :
    s.Alters [.regs, .pads, .mesh, .log] (some [.padStatus, .padLzCnt]) (some w.tile) (s.land w) := by
  unfold State.land
  dsimp only
  refine .ite (.next (.logRec (.finc (.refl s) _ _ _ _) _) (State.sendOn_alters _ _ _ _ _ (some w.tile))) ?_
  split
  · exact .next (.logRec (.finc (.refl s) _ _ _ _) _) (State.sendOn_alters _ _ _ _ _ (some w.tile))
  · exact .fold (fun v _ => .onlyIf (.refl v) fun _ => .widen (v.padWrite_alters _ _ (some w.tile)))
      (.next (.finc (.refl s) _ _ _ _) (State.noteOutputs_alters _ _ _ (some w.tile))) _

theorem landingNack_alters (t : LTile) (c : CtxNo) (s : State) : s.Alters [.tiles, .mesh] (some []) none (landingNack t c s) := by
  unfold landingNack
  split
  · rename_i h
    have taken := (State.takeFlit_alters h none).widen (cs := [.tiles, .mesh]) (ns := some []) (here := none)
    split
    · exact taken.modCtx _ _ _
    · exact taken
  · exact .refl s

theorem creditGrant_alters (t : LTile) (zone : Fin 16) (s : State) : s.Alters [.mesh] (some []) none (creditGrant t zone s) := by
  unfold creditGrant
  split
  · rename_i h
    have taken := State.takeFlit_alters h none
    split
    · exact taken.parts [.mesh]
    · exact taken
  · exact .refl s

theorem zoneRead_alters (t : LTile) (zone : Fin 16) (unit : BitVec 32) (src owner : BitVec 7) (s : State) :
    s.Alters [.regs, .pads, .log] (some [.padEcc]) (some t) (zoneRead t zone unit src owner s).2 := by
  unfold zoneRead
  dsimp only
  split
  · exact State.padReads_alters t _ 4 s _
  · exact .refl s

theorem zoneRemoteRead_alters (t : LTile) (zone : Fin 16) (unit : BitVec 32) (src owner : BitVec 7) (s : State) :
    s.Alters [.regs, .pads, .mesh, .log] (some [.padEcc]) (some t) (zoneRemoteRead t zone unit src owner s) :=
  have read := (zoneRead_alters t zone unit src owner s).widen (cs := [.regs, .pads, .mesh, .log]) (ns := some [.padEcc]) (here := some t)
  .next (read.parts (v := State.take _ _ _) [.mesh]) (State.sendOn_alters _ _ _ _ _ (some t))

theorem State.zoneCfgWrite_alters (s : State) (t : LTile) (z : Nat) (a : Agent) (value : W64) :
    s.Alters [.regs, .mesh, .log] (some [.padLzCfg, .padLzRd, .padLzState]) (some t) (s.zoneCfgWrite t z a value) := by
  unfold State.zoneCfgWrite
  dsimp only
  refine .ite ?_ (.logRec (.refl s) _)
  refine .ite (.logRec (.unless (.refl s) fun h => .logRec h _) _) (.onlyIf (.rset (.unless (.refl s) fun h => .logRec h _) _ _) fun h => ?_)
  exact .next (.rset (.fset h _ _ _ _) _ _) (State.sendGrant_alters _ t z)

/-! ## Radio windows (R200-R202, R212, R217, R225) -/

theorem State.setParts_alters (s : State) (mesh : Mesh) (mem : Mem) (ten : Tenancy) (fab : Fabric) :
    s.Alters [.mesh, .mem, .ten, .fab] (some []) none { s with mesh := mesh, mem := mem, ten := ten, fab := fab } :=
  .parts (.refl s) [.mesh, .mem, .ten, .fab]

theorem releaseCtx_alters (t : LTile) (c : CtxNo) (s : State) : s.Alters [.tiles, .mesh, .mem, .ten, .fab] (some []) none (releaseCtx t c s) := by
  unfold releaseCtx
  split
  · exact .refl s
  · exact .next (.next (.modTile (.setCtx (.refl s) t c none) t _) (State.setParts_alters _ _ _ _ _)) (State.flit_alters _ _ _ _ _ _ _ none)

theorem State.engOwn_alters (s : State) (t : LTile) (owner : Nat) : s.Alters [.tiles] (some []) (some t) (s.engOwn t owner) := by
  unfold State.engOwn
  exact .unless (.refl s) fun h => h.modTile _ _

theorem windowOpen_alters (t : LTile) (s : State) : s.Alters [.tiles, .mesh, .mem, .ten, .fab] (some []) none (windowOpen t s) := by
  unfold windowOpen
  dsimp only
  split
  · exact .refl s
  · split
    · exact .refl s
    · split
      · exact .refl s
      · refine .unless (.refl s) fun _ => ?_
        split
        · exact .refl s
        · exact .modTile (.next (.setCtx (releaseCtx_alters t _ s) _ _ _) (State.engOwn_alters _ t _)) _ _

theorem windowClose_alters (t : LTile) (s : State) : s.Alters [.regs, .tiles, .log] (some [.schFault, .schStat]) (some t) (windowClose t s) := by
  unfold windowClose
  refine .fold (fun v c => ?_) (.refl s) _
  split
  · exact .refl v
  · split
    · exact .onlyIf (.refl v) fun _ => v.refuse_alters t c
    · exact .refl v

end Sys2Proof.Machine
end

section
/-!
What reads and writes of the external memory's lines may change (R231-R234, R249, R252, R261, R396).
-/
set_option Elab.async false
namespace Sys2Proof.Machine

/-- What moves of lines may change: the memory, its counters and the log. -/
abbrev State.AltersMemory (s u : State) : Prop := s.Alters [.regs, .mem, .log] (some [.memCh, .memChk, .memEcc]) none u

section
variable {s u : State}

theorem State.Alters.modMem (h : s.AltersMemory u) (f : Mem → Mem) : s.AltersMemory (u.modMem f) := h.parts [.mem]

theorem State.Alters.modChan (h : s.AltersMemory u) (k : Nat) (f : Channel → Channel) : s.AltersMemory (u.modChan k f) := h.modMem _

theorem State.Alters.degrade (h : s.AltersMemory u) (ch r row : Nat) : s.AltersMemory (u.degrade ch r row) := by
  unfold State.degrade
  exact (h.fset _ _ _ _).logRec _

theorem State.Alters.startRepair (h : s.AltersMemory u) (ch : Nat) : s.AltersMemory (u.startRepair ch) := by
  unfold State.startRepair
  dsimp only
  split
  · exact .ite (h.modChan _ _) ((h.modChan _ _).degrade _ _ _)
  · exact h

theorem State.Alters.failRow (h : s.AltersMemory u) (ch row : Nat) : s.AltersMemory (u.failRow ch row) :=
  h.unless fun h => (h.modChan ch _).startRepair ch

theorem State.Alters.noteUc (h : s.AltersMemory u) (line req : Nat) : s.AltersMemory (u.noteUc line req) :=
  .onlyIf (.onlyIf (((h.finc _ _ _ _).logRec _).modChan _ _) fun h => h.degrade _ _ _) fun h => h.failRow _ _

theorem State.Alters.noteCe (h : s.AltersMemory u) (line : Nat) : s.AltersMemory (u.noteCe line) :=
  .onlyIf ((h.finc _ _ _ _).modChan _ _) fun h => h.failRow _ _

theorem State.Alters.readLine (h : s.AltersMemory u) (line req : Nat) : s.AltersMemory (u.readLine line req).2 := by
  unfold State.readLine
  have counted : s.AltersMemory (if (u.mem.pair line).2 then u.finc (creg .memChk) 31 0 else (u.finc (creg .memChk) 63 32).modMem (·.fetchCheck line)) :=
    .ite (h.finc _ _ _ _) ((h.finc _ _ _ _).modMem _)
  dsimp only
  split
  · exact counted
  · exact counted.noteCe line
  · exact counted.noteUc line req

theorem State.Alters.readLines (req n : Nat) : ∀ {u : State}, s.AltersMemory u → ∀ line, s.AltersMemory (u.readLines req line n).2 := by
  induction n with
  | zero => exact fun h _ => h
  | succ n ih => exact fun h line => ih (h.readLine line req) (line + 1)

theorem State.Alters.writeLine (h : s.AltersMemory u) (line : Nat) (d : Row) (poison radio : Bool) : s.AltersMemory (u.writeLine line d poison radio) := by
  unfold State.writeLine
  dsimp only
  refine .onlyIf ?_ fun h => h.finc _ _ _ _
  split
  · exact .onlyIf (h.modMem _) fun h => h.modChan _ _
  · exact h.modMem _

theorem State.Alters.inGroup (h : s.AltersMemory u) (ch : Nat) : s.AltersMemory (u.inGroup ch) := h.unless fun h => h.modChan ch _

theorem State.Alters.charge (h : s.AltersMemory u) (src : MemSource) (ops : List (Nat × Bool)) : s.AltersMemory (u.charge src ops) :=
  .fold (fun v ch => ((State.Alters.refl v).inGroup ch).modChan ch _) h _

end
end Sys2Proof.Machine
end

section
/-!
What the fabric agent may change: the clutch (R364-R381, R393-R398), the gateway (R387-R392) and fabric transfers (R382-R385).
-/
set_option Elab.async false
namespace Sys2Proof.Machine

section
variable {cs : List Comp} {ns : Option (List RegName)} {here : Option LTile} {s u : State}

theorem State.Alters.modFab (h : s.Alters cs ns here u) (f : Fabric → Fabric) (hc : cs.contains .fab = true := by rfl) :
    s.Alters cs ns here (u.modFab f) := h.parts [.fab] (hl := by simpa using hc)

end

/-! ## Frames and recalls: the fabric's own state only -/

theorem State.sendK_alters (s : State) (n : Fin 8) (relay : Bool) (type : Nat) (f : KFrame) : s.Alters [.fab] (some []) none (s.sendK n relay type f) :=
  s.handK_alters _ _

theorem State.toAll_alters (s : State) (v : BitVec 8) (type : Nat) (f : Fin 8 → KFrame) : s.Alters [.fab] (some []) none (s.toAll v type f) :=
  .fold (fun w n => .onlyIf (.refl w) fun _ => w.sendK_alters n false type _) (.refl s) _

theorem State.recallLine_alters (s : State) (line : Nat) : s.Alters [.fab] (some []) none (s.recallLine line) :=
  .trans (.modFab (.refl s) _) (State.toAll_alters _ _ _ _)

/-! ## The fabric agent -/

/-- What the fabric agent may change: its own state, moves of lines, its counters, a task's count of transfers, the gateway's
queue, and the free values drawn. -/
abbrev State.AltersFabric (s u : State) : Prop :=
  s.Alters [.regs, .mem, .ten, .log, .ports, .fab, .freeCount] (some [.fabStat, .fabStat2, .fhpTxstat, .memCh, .memChk, .memEcc]) none u

section
variable {s u : State}

theorem State.Alters.sendK (h : s.AltersFabric u) (n : Fin 8) (relay : Bool) (type : Nat) (f : KFrame) : s.AltersFabric (u.sendK n relay type f) :=
  h.next (u.sendK_alters n relay type f)

theorem State.Alters.toAll (h : s.AltersFabric u) (v : BitVec 8) (type : Nat) (f : Fin 8 → KFrame) : s.AltersFabric (u.toAll v type f) :=
  h.next (u.toAll_alters v type f)

theorem State.Alters.addrFault (h : s.AltersFabric u) (owner : Nat) : s.AltersFabric (u.addrFault owner) := by
  unfold State.addrFault
  exact (h.finc _ _ _ _).logRec _

/-! ## The fabric cache (R372-R376) -/

theorem State.Alters.evict (h : s.AltersFabric u) (c : Nat) : s.AltersFabric (u.evict c) := by
  unfold State.evict
  split
  · exact h
  · exact .ite (((h.modFab _).modFab _).sendK _ _ _ _) ((h.modFab _).sendK _ _ _ _)

theorem State.Alters.fill (h : s.AltersFabric u) (c : Nat) (x : CLine) : s.AltersFabric (u.fill c x) := by
  unfold State.fill
  dsimp only
  refine .modFab (.unless h fun h => ?_) _
  split
  · exact h.evict _
  · exact h

theorem State.Alters.lookup (h : s.AltersFabric u) (c : Nat) (key : BitVec 16) : s.AltersFabric (u.lookup c key).2 := by
  unfold State.lookup
  split
  · exact h
  · split
    · dsimp only
      exact h.modFab _
    · exact h.evict c

theorem State.Alters.fabRead (h : s.AltersFabric u) (line : Nat) : s.AltersFabric (u.fabRead line).2 :=
  h.next (((State.Alters.refl u).charge _ _).readLine line reqFabric)

theorem State.Alters.fabWrite (h : s.AltersFabric u) (line : Nat) (d : Row) (p : Bool) : s.AltersFabric (u.fabWrite line d p) :=
  h.next (((State.Alters.refl u).charge _ _).writeLine line d p false)

/-! ## Answers (R376-R380) -/

theorem State.Alters.whyRead (h : s.AltersFabric u) (w : Why) (d : Row) (p : Bool) : s.AltersFabric (u.whyRead w d p) := by
  unfold State.whyRead
  split
  · exact h.modFab _
  · exact h.modFab _
  · exact h

theorem State.Alters.whyAck (h : s.AltersFabric u) (w : Why) : s.AltersFabric (u.whyAck w) := by
  unfold State.whyAck
  split
  · exact h.modFab _
  · exact h.modFab _
  · exact h

theorem State.Alters.endReq (h : s.AltersFabric u) (o : COut) : s.AltersFabric (u.endReq o) :=
  .unless (h.modFab _) fun h => h.modFab _

theorem State.Alters.gotData (h : s.AltersFabric u) (o : COut) (d : Row) (p excl : Bool) : s.AltersFabric (u.gotData o d p excl) := by
  unfold State.gotData
  dsimp only
  split
  · exact (State.Alters.unless (h.endReq o) fun h => h.fill _ _).whyRead _ _ _
  · exact .ite ((h.endReq o).whyAck _) (.ite (((h.endReq o).fill _ _).whyAck _) ((h.endReq o).modFab _))

theorem State.Alters.gotAck (h : s.AltersFabric u) (o : COut) : s.AltersFabric (u.gotAck o) := (h.endReq o).whyAck _

theorem State.Alters.answer (h : s.AltersFabric u) (q : HomeReq) (d : Row) (p excl : Bool) : s.AltersFabric (u.answer q d p excl) := by
  unfold State.answer
  have own : s.AltersFabric (match u.reqOf q.tag q.line fun o => decide (o.dst = u.chip) with | some o => u.gotData o d p excl | none => u) := by
    split
    · exact h.gotData _ _ _ _
    · exact h
  dsimp only
  split
  · exact own
  · exact .ite own (h.sendK _ _ _ _)

/-- The end of a request of this chip that is answered without data. -/
theorem State.Alters.ownAck (h : s.AltersFabric u) (q : HomeReq) :
    s.AltersFabric (match u.reqOf q.tag q.line fun o => decide (o.dst = u.chip) with | some o => u.gotAck o | none => u) := by
  split
  · exact h.gotAck _
  · exact h

theorem State.Alters.answerAck (h : s.AltersFabric u) (q : HomeReq) : s.AltersFabric (u.answerAck q) := by
  unfold State.answerAck
  dsimp only
  split
  · exact h.ownAck q
  · exact .ite (h.ownAck q) (h.sendK _ _ _ _)

theorem State.Alters.answerNack (h : s.AltersFabric u) (q : HomeReq) (reason : Nat) : s.AltersFabric (u.answerNack q reason) := by
  unfold State.answerNack
  dsimp only
  split
  · exact h.ownAck q
  · exact .ite (h.ownAck q) (h.sendK _ _ _ _)

theorem State.Alters.refuseReq (h : s.AltersFabric u) (q : HomeReq) (reason : Nat) : s.AltersFabric (u.refuseReq q reason) :=
  .ite (h.answer q 0 true false) (h.answerNack q reason)

/-! ## The home (R370-R381) -/

theorem State.Alters.setDir (h : s.AltersFabric u) (line : Nat) (e : DirEnt) : s.AltersFabric (u.setDir line e) := h.modFab _

theorem State.Alters.waitReq (h : s.AltersFabric u) (q : HomeReq) : s.AltersFabric (u.waitReq q) := h.modFab _

theorem State.Alters.makeBusy (h : s.AltersFabric u) (line : Nat) (q : Option HomeReq) (w : BitVec 8) : s.AltersFabric (u.makeBusy line q w) := h.modFab _

theorem State.Alters.finishNow (h : s.AltersFabric u) (q : HomeReq) (got : Option (Row × Bool)) : s.AltersFabric (u.finishNow q got) := by
  have read : s.AltersFabric (match got with | some (d, p) => (({ data := d, poison := p } : RdRow), u) | none => u.fabRead q.line).2 := by
    split
    · exact h
    · exact h.fabRead _
  unfold State.finishNow
  dsimp only
  split
  · split
    · exact (read.setDir _ _).answer _ _ _ _
    · exact read.answer _ _ _ _
  · split
    · exact (read.setDir _ _).answer _ _ _ _
    · exact ((h.setDir _ _).fabWrite _ _ _).answer _ _ _ _
  · exact ((h.setDir _ _).fabWrite _ _ _).answerAck _

theorem State.Alters.finish (h : s.AltersFabric u) (q : HomeReq) (got : Option (Row × Bool)) : s.AltersFabric (u.finish q got) := by
  unfold State.finish
  refine .ite ?_ (h.finishNow q got)
  unfold State.putOff
  exact .modFab (.unless h fun h => h.setDir _ _) _

theorem State.Alters.serve (h : s.AltersFabric u) (q : HomeReq) : s.AltersFabric (u.serve q) := by
  unfold State.serve
  dsimp only
  refine .ite (.unless (h.waitReq q) fun h => ?_) ?_
  · split
    · exact (h.finc _ _ _ _).next (State.recallLine_alters _ _)
    · exact h
  · split
    · split
      · exact .ite (h.finish q none) ((h.makeBusy _ _ _).sendK _ _ _ _)
      · exact h.finish q none
    · exact .ite (h.finish q none) ((h.makeBusy _ _ _).toAll _ _ _)
    · exact .ite (h.finish q none) ((h.makeBusy _ _ _).toAll _ _ _)

/-- The ACCEPT of a request of another chip (R380). -/
theorem State.Alters.accept (h : s.AltersFabric u) (q : HomeReq) :
    s.AltersFabric (match u.remoteOf q with | some n => u.sendK n q.relay 11 (kframe u.chip n q.tag q.line) | none => u) := by
  split
  · exact h.sendK _ _ _ _
  · exact h

theorem State.Alters.markTag (h : s.AltersFabric u) (k : Nat) (tag : BitVec 32) : s.AltersFabric (u.markTag k tag) := h.modFab _

theorem State.Alters.homeAccept (h : s.AltersFabric u) (q : HomeReq) (owner : Nat) : s.AltersFabric (u.homeAccept q owner) := by
  unfold State.homeAccept
  dsimp only
  refine .ite (.ite ((h.addrFault _).answer _ _ _ _) (.ite ((h.addrFault _).answerNack _ _) (h.addrFault _))) ?_
  refine .ite ((h.logRec _).refuseReq _ _) ?_
  refine .ite (.refuseReq (.logRec (.onlyIf (h.finc _ _ _ _) fun h => h.logRec _) _) _ _) ?_
  refine .ite (((h.finc _ _ _ _).logRec _).answerNack _ _) (.ite ?_ (.ite ((h.logRec _).answerNack _ _) ?_))
  · have counted := h.finc (creg .fabStat) 47 32 1
    split
    · exact counted.answerAck q
    · refine .ite (.ite ((counted.accept _).waitReq _) ((counted.accept _).serve _)) (.ite (counted.accept q) (.ite h ?_))
      exact (counted.fabRead _).answer _ _ _ _
  · have marked : s.AltersFabric (if (u.remoteOf q).isNone then u else u.markTag (originKey q.org) q.tag) := .unless h fun h => h.markTag _ _
    exact .ite ((marked.accept q).waitReq q) ((marked.accept q).serve q)

/-! ## Sending requests (R376, R380, R393) -/

theorem State.Alters.sendReq (h : s.AltersFabric u) (o : COut) : s.AltersFabric (u.sendReq o) := by
  unfold State.sendReq
  exact .ite ((h.modFab _).homeAccept _ _) (((h.modFab _).modFab _).sendK _ _ _ _)

theorem State.Alters.pumpK (n : Nat) : ∀ {u : State}, s.AltersFabric u → s.AltersFabric (State.pumpK n u) := by
  induction n with
  | zero => exact fun h => h
  | succ n ih =>
    intro u h
    unfold State.pumpK
    split
    · exact ih (h.sendReq _)
    · exact h

theorem State.Alters.request (h : s.AltersFabric u) (o : COut) : s.AltersFabric (u.request o) := h.modFab _

theorem State.Alters.clutchRead (h : s.AltersFabric u) (n : Fin 8) (line : Nat) (key : BitVec 16) (why : Why) :
    s.AltersFabric (u.clutchRead n line key why) := by
  unfold State.clutchRead
  have found := h.lookup (cline n line) key
  refine .ite (h.request _) ?_
  split
  · next e => exact (e ▸ found).whyRead _ _ _
  · next e => exact (e ▸ found).request _

theorem State.Alters.clutchOwn (h : s.AltersFabric u) (n : Fin 8) (line : Nat) (key : BitVec 16) (d : Row) (p : Bool) (why : Why) :
    s.AltersFabric (u.clutchOwn n line key d p why) := by
  unfold State.clutchOwn
  have found := h.lookup (cline n line) key
  refine .ite (h.request _) ?_
  split
  · next e => exact .ite (((e ▸ found).fill _ _).whyAck _) ((e ▸ found).request _)
  · next e => exact (e ▸ found).request _

/-! ## The gateway (R274, R387-R392) -/

theorem State.Alters.enqueue (h : s.AltersFabric u) (l q : Nat) (b : Bytes) : s.AltersFabric (u.enqueue l q b) := by
  unfold State.enqueue
  exact .ite h (.ite (h.finc _ _ _ _) (h.parts [.ports]))

theorem State.Alters.gwSend (h : s.AltersFabric u) (q : Nat) (b : Bytes) : s.AltersFabric (u.gwSend q b) := by
  unfold State.gwSend
  split
  · exact h.enqueue _ _ _
  · exact h

theorem State.Alters.gwRequest (h : s.AltersFabric u) (g : GOut) : s.AltersFabric (u.gwRequest g) := h.modFab _

theorem State.Alters.flush (h : s.AltersFabric u) (b : CombBuf) : s.AltersFabric (u.flush b) := by
  unfold State.flush
  dsimp only
  split
  · exact (h.modFab _).gwRequest _
  · exact (h.modFab _).addrFault _

theorem State.Alters.gwWrite (h : s.AltersFabric u) (key : BitVec 16) (owner block i : Nat) (d : Row) :
    s.AltersFabric (u.gwWrite key owner block i d) := by
  unfold State.gwWrite
  refine .onlyIf (.modFab (.unless h fun h => ?_) _) fun h => h.flush _
  split
  · split
    · exact h.flush _
    · exact h
  · exact h

theorem State.Alters.gwRead (h : s.AltersFabric u) (key : BitVec 16) (owner block i id k : Nat) :
    s.AltersFabric (u.gwRead key owner block i id k) := by
  unfold State.gwRead
  have flushed : s.AltersFabric (match u.fab.comb.find? fun b => decide (b.key = key ∧ b.block = block) with | some b => u.flush b | none => u) := by
    split
    · exact h.flush _
    · exact h
  dsimp only
  split
  · exact (flushed.addrFault _).whyRead _ _ _
  · split
    · split
      · exact (flushed.modFab _).whyRead _ _ _
      · exact (flushed.modFab _).modFab _
    · refine .ite (flushed.modFab _) (.gwRequest (.modFab (.unless flushed fun _ => ?_) _) _)
      split
      · exact flushed.modFab _
      · exact flushed

theorem State.Alters.gwTransmit (h : s.AltersFabric u) (g : GOut) (tag : BitVec 32) : s.AltersFabric (u.gwTransmit g tag) := by
  unfold State.gwTransmit
  split
  · exact h
  · exact .ite (h.gwSend _ _) (h.gwSend _ _)

theorem State.Alters.pumpG (n : Nat) : ∀ {u : State}, s.AltersFabric u → s.AltersFabric (State.pumpG n u) := by
  induction n with
  | zero => exact fun h => h
  | succ n ih =>
    intro u h
    unfold State.pumpG
    split
    · exact ih ((h.modFab _).gwTransmit _ _)
    · exact h

theorem State.Alters.gwRespond (h : s.AltersFabric u) (p : Fin 64) (type status : Nat) (key : BitVec 16) (tag : BitVec 32) (addr : Nat)
    (mask pmask : BitVec 64) (lines : List Row) : s.AltersFabric (u.gwRespond p type status key tag addr mask pmask lines) :=
  have drawn : s.AltersFabric u.draw.2 := h.parts [.freeCount]
  (drawn.modFab _).gwSend _ _

theorem State.Alters.gwReplies (h : s.AltersFabric u) : s.AltersFabric u.gwReplies :=
  .fold (fun v _ => .ite (((State.Alters.refl v).modFab _).gwRespond _ _ _ _ _ _ _ _ _) (((State.Alters.refl v).modFab _).gwRespond _ _ _ _ _ _ _ _ _)) h _

/-! ## Fabric transfers (R382-R385) -/

theorem State.Alters.frtRequests (h : s.AltersFabric u) (r : FrtRun) (data : List RdRow) : s.AltersFabric (u.frtRequests r data) := by
  refine .fold (fun v i => ?_) h _
  have same := State.Alters.refl (cs := [.regs, .mem, .ten, .log, .ports, .fab, .freeCount])
    (ns := some [.fabStat, .fabStat2, .fhpTxstat, .memCh, .memChk, .memEcc]) (here := none) v
  dsimp only
  refine .ite (.ite ?_ (same.gwRead _ _ _ _ _ _)) ?_
  · split
    · exact (same.gwWrite _ _ _ _ _).whyAck _
    · exact (same.addrFault _).whyAck _
  · split
    · exact .ite ((same.addrFault _).whyAck _) ((same.addrFault _).whyRead _ _ _)
    · exact .ite (same.clutchRead _ _ _ _) (.ite (same.request _) (same.clutchOwn _ _ _ _ _ _))

theorem State.Alters.frtHand (h : s.AltersFabric u) (r : FrtRun) : s.AltersFabric (u.frtHand r) :=
  .ite (h.modFab _) ((h.modFab _).frtRequests r [])

theorem State.Alters.frtEnd (h : s.AltersFabric u) (r : FrtRun) : s.AltersFabric (u.frtEnd r) := by
  unfold State.frtEnd
  have counted (v : State) (hv : s.AltersFabric v) : s.AltersFabric (if r.dead then v else v.frtCount r.tile r.ctx (· - 1)) :=
    .unless hv fun h => h.next (State.frtCount_alters _ _ _ _ none)
  have ended := counted _ (h.modFab fun f => { f with frts := f.frts.filter fun x => decide (x.id ≠ r.id) })
  dsimp only
  split
  · exact .onlyIf ended fun h => h.frtHand _
  · exact ended

theorem State.Alters.frtSettle (n : Nat) : ∀ {u : State}, s.AltersFabric u → s.AltersFabric (State.frtSettle n u) := by
  induction n with
  | zero => exact fun h => h
  | succ n ih =>
    intro u h
    unfold State.frtSettle
    split
    · exact ih (h.frtEnd _)
    · exact h

theorem State.Alters.pump (h : s.AltersFabric u) : s.AltersFabric u.pump :=
  have once {v : State} (h : s.AltersFabric v) : s.AltersFabric (State.frtSettle 4096 (State.pumpG 4096 (State.pumpK 8192 v))).gwReplies :=
    (State.Alters.frtSettle 4096 (State.Alters.pumpG 4096 (State.Alters.pumpK 8192 h))).gwReplies
  once (once h)

end

/-! ## Fences (R385) -/

theorem fenceRelease_alters (t : LTile) (c : CtxNo) (s : State) :
    s.Alters [.regs, .tiles, .mem, .ten, .log, .ports, .fab, .freeCount] (some [.fabStat, .fabStat2, .fhpTxstat, .memCh, .memChk, .memEcc]) none
      (fenceRelease t c s) := by
  unfold fenceRelease
  split
  · exact .refl s
  · next k _ =>
    dsimp only
    split
    · exact .unless (.refl s) fun h => h.modCtx _ _ _
    · exact .unless (.refl s) fun h => h.modCtx _ _ _
    · have flushed := State.Alters.fold (fun (v : State) b => (State.Alters.refl v).flush b) (.refl s) (s.fab.comb.filter fun b => decide (b.owner = k.owner))
      exact .unless (.refl s) fun _ => .unless (.widen (flushed.modFab _).pump) fun h => h.modCtx _ _ _
    · exact .refl s

end Sys2Proof.Machine
end

section
/-!
What a tile's cycle may change (R60-R88, R112-R143, R170-R176, R202, R207).
-/
set_option Elab.async false
namespace Sys2Proof.Machine

/-- What a cycle of the whole part may change, whatever the registers and tiles. -/
abbrev State.AltersTick (s u : State) : Prop :=
  s.Alters [.regs, .time, .tiles, .pads, .mesh, .mem, .ten, .ctl, .mbx, .log, .radio, .fab, .pci, .out, .freeCount] none none u

section
variable {s u : State} {t : LTile}

/-! ## Sequencer, timers and effects that come due -/

theorem State.Alters.stopCycle (h : s.AltersTick u) (t : LTile) : s.AltersTick (u.stopCycle t) := by
  refine .fold (fun v c => ?_) h _
  split
  · exact .refl v
  · split
    · exact .onlyIf (.refl v) fun h => h.setCtx _ _ _
    · exact .refl v

theorem State.Alters.timerCycle (h : s.AltersTick u) (t : LTile) : s.AltersTick (u.timerCycle t) := by
  refine .fold (fun v c => ?_) h _
  split
  · exact .refl v
  · exact .onlyIf (.refl v) fun h => h.setCtx _ _ _

theorem State.Alters.padWrite (h : s.AltersTick u) (t : LTile) (w : PadWrite) : s.AltersTick (u.padWrite t w) := h.next (u.padWrite_alters t w none)

theorem State.Alters.padStore (h : s.AltersTick u) (t : LTile) (rank tag addr : Nat) (b : Bytes) : s.AltersTick (u.padStore t rank tag addr b) :=
  h.next (u.padStore_alters t rank tag addr b none)

theorem State.Alters.flag (h : s.AltersTick u) (t : LTile) (c : CtxNo) (sat nan poison : Bool) : s.AltersTick (u.flag t c sat nan poison) :=
  h.next (u.flag_alters t c sat nan poison)

theorem State.Alters.dropTask (h : s.AltersTick u) (t : LTile) (c : CtxNo) (code : Nat) : s.AltersTick (u.dropTask t c code) :=
  h.next (u.dropTask_alters t c code)

theorem State.Alters.poisonPass (h : s.AltersTick u) (t : LTile) (part : Fin 7) (start : W64) (kind : Nat) :
    s.AltersTick (u.poisonPass t part start kind) := h.next (u.poisonPass_alters t part start kind)

theorem State.Alters.writeFlags (h : s.AltersTick u) (t : LTile) (c : CtxNo) (row : Nat) : s.AltersTick (u.writeFlags t c row) := by
  unfold State.writeFlags
  split
  · exact h
  · exact (h.padWrite _ _).setCtx _ _ _

theorem State.Alters.laterCycle (h : s.AltersTick u) (t : LTile) : s.AltersTick (u.laterCycle t) := by
  refine .fold (fun v l => ?_) (h.modTile t _) _
  split
  · exact .widen (v.setRd_alters t _ _)
  · exact State.Alters.writeFlags (.refl v) t _ _

/-! ## Reads of a pad -/

theorem State.Alters.padReads (h : s.AltersTick u) (t : LTile) (tag first n : Nat) : s.AltersTick (u.padReads t tag first n).2 :=
  h.next (padReads_alters t tag n u first)

theorem State.Alters.padBytes (h : s.AltersTick u) (t : LTile) (tag addr len : Nat) : s.AltersTick (u.padBytes t tag addr len).2.2 :=
  h.padReads _ _ _ _

theorem State.Alters.feed (h : s.AltersTick u) (t : LTile) (tag addr fmt e k : Nat) (d : Bytes) : s.AltersTick (u.feed t tag addr fmt e k d).2.2.2 := by
  have bytes {c : Prop} [Decidable c] {v : State} (h : s.AltersTick v) (a n : Nat) :
      s.AltersTick (if c then v.padBytes t tag a n else (([], false, v) : Bytes × Bool × State)).2.2 := by
    split
    · exact h.padBytes _ _ _ _
    · exact h
  exact bytes (bytes h _ _) _ _

theorem State.Alters.feedPass (h : s.AltersTick u) (t : LTile) (k : Nat) (p : Pass) : s.AltersTick (u.feedPass t k p).2.2 :=
  (h.feed _ _ _ _ _ _ _).feed _ _ _ _ _ _ _

/-! ## The array (R73-R88) -/

theorem State.Alters.meterArray (h : s.AltersTick u) (t : LTile) : s.AltersTick (u.meterArray t) :=
  .onlyIf (.onlyIf h fun h => h.finc _ _ _ _) fun h => (h.finc _ _ _ _).ten _

theorem State.Alters.endRestore (h : s.AltersTick u) (t : LTile) (f : Freeze) : s.AltersTick (u.endRestore t f) := by
  refine .fold (fun v q => ?_) ((h.finc _ _ _ _).modTile t _) _
  have fed (p : Pass) (l : List Nat) (lo : Nat) : v.AltersTick (l.foldl (fun (x : Pass × Bool × State) i =>
      let y := x.2.2.feedPass t (lo + i) x.1
      (y.1, x.2.1 || y.2.1, y.2.2)) (p, false, v)).2.2 := by
    refine .foldOn (fun x : Pass × Bool × State => x.2.2) (fun x i => ?_) (.refl v) l
    exact (State.Alters.refl x.2.2).feedPass t _ _
  refine .onlyIf (.modTile (.onlyIf (fed _ _ _) fun h => ?_) _ _) fun h => h.poisonPass _ _ _ _
  exact ((h.modTile t _).next (State.markRecord_alters _ t q none)).modTile _ _

theorem State.Alters.freezeCycle (h : s.AltersTick u) (t : LTile) : s.AltersTick (u.freezeCycle t) := by
  unfold State.freezeCycle
  split
  · exact h
  · dsimp only
    split
    · exact (h.padStore _ _ _ _ _).modTile _ _
    · exact .onlyIf h fun h => (h.padStore _ _ _ _ _).modTile _ _
    · have loaded {c : Prop} [Decidable c] {v : State} (hv : s.AltersTick v) (l : List Pass) :
          s.AltersTick (if c then l.foldl (fun s p => s.poisonPass t p.part p.start 2) v else v) :=
        .onlyIf hv fun h => .fold (fun v p => (State.Alters.refl v).poisonPass t p.part p.start 2) h l
      exact .ite ((loaded (h.padBytes _ _ _ _) _).modTile _ _) ((loaded (h.padBytes _ _ _ _) _).endRestore _ _)

theorem State.Alters.drain (h : s.AltersTick u) (t : LTile) (p : Pass) (o : Nat) : s.AltersTick (u.drain t p o).2 := by
  unfold State.drain
  dsimp only
  split
  · exact h
  · have stored (l : List (Nat × Bytes)) (g : Nat × Bytes → Nat × Bytes) (q : Nat) :
        s.AltersTick (l.foldl (fun v x => v.padStore t q p.owner (g x).1 (g x).2) u) :=
      .fold (fun v x => (State.Alters.refl v).padStore _ _ _ _ _) h l
    split
    · exact stored _ (fun x => (_ + x.1, _)) _
    · exact .onlyIf (stored _ (fun x => (_ + x.1, _)) _) fun h => h.rset _ _

theorem State.Alters.endPass (h : s.AltersTick u) (t : LTile) (p : Pass) : s.AltersTick (u.endPass t p) := by
  unfold State.endPass
  have counted {v : State} (hv : s.AltersTick v) : s.AltersTick (if p.radio then v
      else { v with ten := { v.ten with passT := tput (8 * t.val + p.part.val) (dT p.desc, v.now) v.ten.passT } }) := .unless hv fun h => h.ten _
  refine .ite (.unless (((counted (((h.modTile t _).finc _ _ _ _).flag _ _ _ _ _)).finc _ _ _ _).logRec _) fun h => h.dropTask _ _ _) ?_
  exact .onlyIf (counted (((h.modTile t _).finc _ _ _ _).flag _ _ _ _ _)) fun h => h.modCtx _ _ _

theorem State.Alters.passCycle (h : s.AltersTick u) (t : LTile) (p : Pass) : s.AltersTick (u.passCycle t p) := by
  unfold State.passCycle
  dsimp only
  refine .unless h fun h => .ite ?_ (.ite (h.modTile _ _) ?_)
  · exact .onlyIf (.unless ((h.feedPass _ _ _).modTile _ _) fun h => h.ten _) fun h => h.poisonPass _ _ _ _
  · have drained : s.AltersTick (match drainRow (dClass p.desc) (p.cyc - (p.kc + partH p.part.val + partWd p.part.val - 1)) with
        | some o => u.drain t p o | none => (p, u)).2 := by
      split
      · exact h.drain _ _ _
      · exact h
    exact .ite (drained.endPass _ _) (drained.modTile _ _)

theorem State.Alters.arrayCycle (h : s.AltersTick u) (t : LTile) : s.AltersTick (u.arrayCycle t) := by
  refine .fold (fun v p => ?_) ((h.meterArray t).freezeCycle t) _
  split
  · exact State.Alters.passCycle (.refl v) t _
  · exact .refl v

/-! ## The engine (R112-R120, R140-R143) -/

theorem State.Alters.engHolds (h : s.AltersTick u) (t : LTile) : s.AltersTick (u.engHolds t) := (h.finc _ _ _ _).modTile _ _

theorem State.Alters.engTake (h : s.AltersTick u) (t : LTile) : s.AltersTick (u.engTake t) := by
  unfold State.engTake
  split
  · split
    · exact .onlyIf h fun h => h.next (State.engOwn_alters _ t _)
    · exact h
  · exact h

theorem State.Alters.engReads (h : s.AltersTick u) (t : LTile) (f : Flight) : s.AltersTick (u.engReads t f).2 :=
  .foldOn (fun x : Flight × State => x.2) (fun x r => .onlyIf ((State.Alters.refl x.2).padBytes _ _ _ _) fun h => h.next (State.sgeFault_alters _ t _ _ _ _)) h _

theorem State.Alters.engResult (h : s.AltersTick u) (t : LTile) (f : Flight) : s.AltersTick (u.engResult t f) := by
  unfold State.engResult
  have stored (v : State) (hv : s.AltersTick v) (o : EngOut) :
      s.AltersTick (match f.bankD, o.vec with | some a, some x => v.padStore t rankEngine f.owner a (toBytes x 512) | _, _ => v) := by
    split
    · exact hv.padStore _ _ _ _ _
    · exact hv
  refine .onlyIf (.onlyIf (stored _ (h.modTile t _) _) fun h => (h.flag _ _ _ _ _).fset _ _ _ _) fun h => ?_
  exact .unless (((h.flag _ _ _ _ _).modCtx _ _ _).logRec _) fun h => h.dropTask _ _ _

theorem State.Alters.engCycle (h : s.AltersTick u) (t : LTile) : s.AltersTick (u.engCycle t) :=
  have read (v : State) (h : s.AltersTick v) (l : List Flight) : s.AltersTick (l.foldl (fun (x : List Flight × State) f =>
      let y := x.2.engReads t f
      (enq x.1 y.1, y.2)) ([], v)).2 :=
    .foldOn (fun x : List Flight × State => x.2) (fun x f => (State.Alters.refl x.2).engReads t f) h l
  .fold (fun v f => (State.Alters.refl v).engResult t f) ((read _ ((h.engHolds t).engTake t) _).modTile t _) _

/-! ## The compare unit (R170-R176) -/

theorem State.Alters.poRead (h : s.AltersTick u) (t : LTile) (tag addr len : Nat) : s.AltersTick (u.poRead t tag addr len).2 := by
  unfold State.poRead
  dsimp only
  split
  · exact (h.padBytes t tag addr len).parts [.freeCount]
  · exact h.padBytes t tag addr len

theorem State.Alters.cntCycle (h : s.AltersTick u) (t : LTile) (k : TaskCtx) (o : PadOp) : s.AltersTick (u.cntCycle t k o).2 := by
  unfold State.cntCycle
  dsimp only
  split
  · exact h
  · exact h.poRead _ _ _ _

theorem State.Alters.incCycle (h : s.AltersTick u) (t : LTile) (k : TaskCtx) (o : PadOp) : s.AltersTick (u.incCycle t k o).2 := by
  have read := (h.poRead t o.owner (k.base + poAddr o.desc + o.n * poStride o.desc) (poSize o.desc))
  refine .iteSnd h (.iteSnd (.iteSnd ?_ ?_) read)
  · exact (read.poRead _ _ _ _).flag _ _ _ _ _
  · dsimp only
    exact (read.poRead _ _ _ _).padStore _ _ _ _ _

theorem State.Alters.cmpHolds (h : s.AltersTick u) (t : LTile) : s.AltersTick (u.cmpHolds t) := (h.finc _ _ _ _).modTile _ _

theorem State.Alters.cmpCycle (h : s.AltersTick u) (t : LTile) : s.AltersTick (u.cmpCycle t) := by
  have held := h.cmpHolds t
  unfold State.cmpCycle
  dsimp only
  split
  · exact held
  · split
    · exact held.modTile _ _
    · have went {d : Bytes} {k : TaskCtx} {o : PadOp} : s.AltersTick (if poOp d = 1 then (u.cmpHolds t).cntCycle t k o else (u.cmpHolds t).incCycle t k o).2 := by
        split
        · exact held.cntCycle _ _ _
        · exact held.incCycle _ _ _
      exact .ite (.modTile (.onlyIf went fun h => h.padStore _ _ _ _ _) _ _) (went.modTile _ _)

theorem State.Alters.tileCycle (h : s.AltersTick u) (t : LTile) : s.AltersTick (u.tileCycle t) :=
  (((((h.stopCycle t).laterCycle t).arrayCycle t).engCycle t).cmpCycle t).timerCycle t

end
end Sys2Proof.Machine
end

section
/-!
What a cycle of the whole part may change (R34): its tiles, the memory's groups, the mesh, a suspend, a recall, the links and a
swap's copy; and the frame of ATB_TICK.
-/
set_option Elab.async false
namespace Sys2Proof.Machine

section
variable {s u : State}

/-! ## The memory's groups (R236-R240, R252, R262) -/

/-- Moves of lines within a cycle. -/
theorem State.Alters.moved {v : State} (h : s.AltersTick u) (k : u.AltersMemory v) : s.AltersTick v := h.next k

theorem State.Alters.memxLine (h : s.AltersTick u) (id n : Nat) : s.AltersTick (u.memxLine id n) := h.parts [.mem]

theorem State.Alters.noteOutputs (h : s.AltersTick u) (sender : Option (LTile × CtxNo)) (l : List Put) : s.AltersTick (u.noteOutputs sender l) :=
  h.next (u.noteOutputs_alters sender l none)

theorem State.Alters.radioLines (h : s.AltersTick u) (m : MemX) : s.AltersTick (u.radioLines m) := by
  unfold State.radioLines
  dsimp only
  refine .ite h (.ite ?_ ?_)
  · exact h.moved (.modMem (.readLines _ _ (.refl u) _) _)
  · exact .memxLine (.noteOutputs (h.moved (.fold (fun v i => (State.Alters.refl v).writeLine _ _ _ true) (.refl u) _)) _ _) _ _

theorem State.Alters.scrubStep (h : s.AltersTick u) : s.AltersTick u.scrubStep := by
  unfold State.scrubStep
  split
  · exact h
  · exact State.Alters.fset (h.parts (v := u.modMem _) [.mem]) _ _ _ _

theorem State.Alters.repairSwitch (h : s.AltersTick u) (ch : Nat) : s.AltersTick (u.repairSwitch ch) := by
  unfold State.repairSwitch
  split
  · exact h
  · dsimp only
    refine .unless h fun h => h.moved ?_
    refine .startRepair (.finc (.modChan (.fold (fun v x => ?_) (.refl u) _) _ _) _ _ _ _) _
    split
    · exact .ite ((State.Alters.refl v).modMem _) ((State.Alters.refl v).modMem _)
    · exact .refl v

theorem State.Alters.memCycle (h : s.AltersTick u) : s.AltersTick u.memCycle :=
  .onlyIf h fun h => .fold (fun v ch => (State.Alters.refl v).repairSwitch ch)
    (State.Alters.scrubStep (.fold (fun v m => (State.Alters.refl v).radioLines m) h _)) _

/-! ## The mesh (R22, R193-R199, R474) -/

theorem State.Alters.handOver (h : s.AltersTick u) (x : Crossing) : s.AltersTick (u.handOver x) := by
  have handed : s.AltersTick (u.handTo x.rim true u.now).2 := .unless h fun h => h.parts [.mesh]
  exact handed.parts [.mesh]

theorem State.Alters.handRecord (h : s.AltersTick u) (fl : FlowSlot) : s.AltersTick (u.handRecord fl) := by
  unfold State.handRecord
  dsimp only
  split
  · exact h
  · refine .unless h fun h => ?_
    split
    · exact h.parts [.radio]
    · exact State.Alters.handOver (h.parts (v := { u with radio := _ }) [.radio]) _

theorem State.Alters.handLeg (h : s.AltersTick u) (fl : FlowSlot) (rim : Fin 4) : s.AltersTick (u.handLeg fl rim) := by
  unfold State.handLeg
  split
  · exact h
  · refine .unless h fun h => ?_
    split
    · exact h
    · split
      · exact h
      · exact State.Alters.handOver (h.parts (v := { u with mesh := _ }) [.mesh]) _

theorem State.Alters.handCycle (h : s.AltersTick u) : s.AltersTick u.handCycle := by
  refine .fold (fun v fl => .onlyIf (.refl v) fun h => ?_) h _
  split
  · exact h.handLeg fl _
  · exact h.handRecord fl

theorem State.Alters.loseFlit (h : s.AltersTick u) (f : Flit) : s.AltersTick (u.loseFlit f) := by
  unfold State.loseFlit
  have wait {o : Option (LTile × CtxNo × TaskCtx)} {m : LTile → CtxNo → TaskCtx → Mesh} :
      s.AltersTick (match o with | some (t, c, k) => if k.radio then u else { u with mesh := m t c k } | none => u) := by
    split
    · exact .unless h fun h => h.parts [.mesh]
    · exact h
  dsimp only
  split
  · exact wait
  · exact wait
  · exact wait
  · exact h

theorem State.Alters.loseCrossing (h : s.AltersTick u) (c : Crossing) : s.AltersTick (u.loseCrossing c) := by
  unfold State.loseCrossing
  split
  · exact h.memxLine _ _
  · exact h

theorem State.Alters.cutDown (h : s.AltersTick u) : s.AltersTick u.cutDown := by
  refine .fold (fun v r => .onlyIf (.refl v) fun h => ?_) h _
  refine .fold (fun v c => (State.Alters.refl v).loseCrossing c) (.fold (fun v f => (State.Alters.refl v).loseFlit f) ?_ _) _
  exact h.parts [.mesh]

theorem State.Alters.landLines (h : s.AltersTick u) (id : Nat) (t : LTile) (owner : Nat) (ls : List (Nat × Row × Bool)) :
    s.AltersTick (u.landLines id t owner ls) :=
  State.Alters.memxLine (.fold (fun v _ => (State.Alters.refl v).padWrite t _) h ls) _ _

theorem State.Alters.rimLines (h : s.AltersTick u) (id : Nat) (ls : List (Nat × Row × Bool)) : s.AltersTick (u.rimLines id ls) := by
  unfold State.rimLines
  split
  · exact h
  · exact .ite (h.parts [.mem]) (h.next (State.ask_alters _ _ _ none))

theorem State.Alters.holdUnit (h : s.AltersTick u) (t : LTile) (owner zone : Nat) (d : BitVec 2048) : s.AltersTick (u.holdUnit t owner zone d) :=
  h.parts [.mbx]

theorem State.Alters.emit (h : s.AltersTick u) (e : Emit) : s.AltersTick (u.emit e) := h.parts [.out]

theorem State.Alters.deliver (h : s.AltersTick u) (f : Flit) : s.AltersTick (u.deliver f) := by
  unfold State.deliver
  split
  · exact .fold (fun v w => .widen (v.land_alters w)) h _
  · exact h.landLines _ _ _ _
  · exact h.rimLines _ _
  · exact State.Alters.noteOutputs (h.parts (v := u.modRim _ _) [.radio]) _ _
  · exact .fold (fun v d => (State.Alters.refl v).holdUnit _ _ _ d) h _
  · exact h.emit _
  · exact h

theorem State.Alters.deliverDue (h : s.AltersTick u) : s.AltersTick u.deliverDue :=
  .fold (fun v f => (State.Alters.refl v).deliver f) (h.parts [.mesh]) _

/-! ## Suspend, recall and links (R335, R365, R373) -/

theorem State.Alters.reply (h : s.AltersTick u) (m : Msg) (status detail : Nat) (b : Bytes) : s.AltersTick (u.reply m status detail b) := by
  obtain ⟨r, sl, p, new, e, -⟩ := u.reply_only m status detail b
  rw [e]
  exact h.parts [.mbx, .pci, .out]

theorem State.Alters.trySuspended (h : s.AltersTick u) : s.AltersTick u.trySuspended := by
  unfold State.trySuspended State.suspended State.answerAll
  exact .onlyIf h fun h => .fold (fun v (x : Msg × WaitFor) => (State.Alters.refl v).reply x.1 stOk 0 []) (h.parts [.ten, .mbx]) _

theorem State.Alters.scanRecall (h : s.AltersTick u) : s.AltersTick u.scanRecall := by
  unfold State.scanRecall
  split
  · exact h
  · exact .unless h fun h => .fold (fun v l => .widen (v.recallLine_alters l)) (h.modFab _) _

theorem State.Alters.sendLinks (h : s.AltersTick u) : s.AltersTick u.sendLinks := by
  refine .fold (fun v p => ?_) h _
  unfold State.sendLink
  split
  · exact .refl v
  · exact .unless (.refl v) fun h => (h.modFab _).emit _

/-! ## The cycle (R34) -/

theorem State.Alters.mapTiles (h : s.AltersTick u) (tiles : Vector Tile 64) : s.AltersTick { u with tiles := tiles } :=
  h.trans ⟨fun k hk => by cases k <;> trivial, fun _ hr => rfl, fun _ => nofun, fun _ => nofun⟩

theorem State.Alters.noteBusy (h : s.AltersTick u) : s.AltersTick u.noteBusy := h.mapTiles _

theorem State.Alters.noteLive (h : s.AltersTick u) : s.AltersTick u.noteLive := h.mapTiles _

theorem State.Alters.swapRead (h : s.AltersTick u) : s.AltersTick u.swapRead := by
  unfold State.swapRead
  split
  · exact .onlyIf h fun h => h.next (State.noteRead_alters _ _ _ _)
  · exact h

theorem State.Alters.endTick (h : s.AltersTick u) : s.AltersTick u.endTick :=
  (h.mapTiles _).parts (v := u.endTick) [.time, .pads, .mesh, .ctl]

end

theorem atbTick_alters (s : State) : s.AltersTick (atbTick s) := by
  have tiles := State.Alters.fold (fun (v : State) t => (State.Alters.refl v).tileCycle t) (State.Alters.refl s).noteBusy (List.finRange 64)
  exact tiles.memCycle.handCycle.cutDown.deliverDue.trySuspended.noteLive.scanRecall.sendLinks.swapRead.endTick

end Sys2Proof.Machine
end

section
/-!
The frames of the commands of tiles and pads: each alters only its own components, registers and tile (R88, R143, R185, R225).
-/
set_option Elab.async false
namespace Sys2Proof.Machine

section
variable {s u v : State} {cs : List Comp} {ns : Option (List RegName)} {here : Option LTile}

/-! ## Commands that are more than their function -/

theorem execSgeFlagsClear_alters {t : LTile} {a : Agent} {value : W64} (h : execSgeFlagsClear t a value s = .next u) :
    s.Alters [.regs, .log] (some [.sgeFlags]) (some t) u := by
  unfold execSgeFlagsClear at h
  split at h
  all_goals cases h
  · exact .rset (.unless (.refl s) fun h => h.logRec _) _ _
  · exact .logRec (.refl s) _

theorem execZoneRdWrite_alters {t : LTile} {zone : Fin 16} {a : Agent} {value : W64} (h : execZoneRdWrite t zone a value s = .next u) :
    s.Alters [.regs, .mesh, .log] (some [.padLzState, .padLzRd]) (some t) u := by
  unfold execZoneRdWrite at h
  dsimp only at h
  split at h
  all_goals cases h
  · exact .next (.unless (.refl s) fun h => h.logRec _) (State.setRd_alters _ t _ _)
  · exact .logRec (.refl s) _

/-- A write of PAD_SWEEP starts a sweep of the pad of its tile, or is only logged (R160, R185). -/
theorem execPadSweep_cases {t : LTile} {a : Agent} {value : W64} (h : execPadSweep t a value s = .next u) :
    ∃ v, s.Alters [.log] (some []) none v ∧ (u = v ∨ ∃ f, u = v.modPad (v.ptile t) f) := by
  have noted : s.Alters [.log] (some []) none (if value.toNat &&& (2 ^ 64 - 1 - 0x17F) = 0 then s else s.regRec (treg .padSweep t)) :=
    .unless (.refl s) fun h => h.logRec _
  unfold execPadSweep at h
  dsimp only at h
  generalize (if value.toNat &&& (2 ^ 64 - 1 - 0x17F) = 0 then s else s.regRec (treg .padSweep t)) = w at h noted
  split at h
  · split at h
    · split at h
      · cases h
        exact ⟨_, noted.logRec _, .inl rfl⟩
      · split at h
        · cases h
          exact ⟨_, noted, .inl rfl⟩
        · cases h
          exact ⟨_, noted, .inr ⟨_, rfl⟩⟩
    · cases h
      exact ⟨_, noted, .inl rfl⟩
  · cases h
    exact ⟨_, .logRec (.refl s) _, .inl rfl⟩

theorem execPadSweep_alters {t : LTile} {a : Agent} {value : W64} (h : execPadSweep t a value s = .next u) : s.Alters [.pads, .log] (some []) none u := by
  obtain ⟨v, logged, rfl | ⟨f, rfl⟩⟩ := execPadSweep_cases h
  · exact .widen logged
  · exact .next (.widen logged) (v.modPad_alters _ f none)

/-! ## Every command -/

theorem State.Alters.of_exec {c : Instr} (h : exec c s = .next u) (e : exec c s = .next v) (here : Option LTile)
    (k : s.Alters c.changes c.writes here v) (ht : c.tile = here := by rfl) : s.Alters c.changes c.writes c.tile u := by
  cases e.symm.trans h
  exact ht ▸ k

/-- A command of the tile group, or of one tile, alters only its own components, registers and tile. -/
theorem exec_alters {c : Instr} (hg : c.group = .tile ∨ c.tile.isSome = true) (h : exec c s = .next u) : s.Alters c.changes c.writes c.tile u := by
  cases c
  case seqNop t c => exact .of_exec h rfl (some t) (seqIssue_alters (fun _ _ _ v => .refl v) _ c s)
  case seqPass t c => exact .of_exec h rfl (some t) (seqIssue_alters (fun i k w v => .widen (passEff_alters t c i k w v)) _ c s)
  case seqSge t c => exact .of_exec h rfl (some t) (seqIssue_alters (fun i k w v => .widen (sgeEff_alters t c i k w v)) _ c s)
  case seqPadop t c => exact .of_exec h rfl (some t) (seqIssue_alters (fun i k w v => .widen (padopEff_alters t c i k w v)) _ c s)
  case seqSendRadio t c => exact .of_exec h rfl (some t) (seqIssue_alters (fun i k w v => .widen (sendRadioEff_alters t c i k w v)) _ c s)
  case seqSendTenant t c => exact .of_exec h rfl (some t) (seqIssue_alters (fun i k w v => .widen (sendTenantEff_alters t c i k w v)) _ c s)
  case seqCret t c => exact .of_exec h rfl (some t) (seqIssue_alters (fun _ _ _ v => .widen (v.inNext_alters t _)) _ c s)
  case seqFlags t c => exact .of_exec h rfl (some t) (seqIssue_alters (fun _ _ _ v => .widen (v.inNext_alters t _)) _ c s)
  case seqPost t c => exact .of_exec h rfl (some t) (seqIssue_alters (fun i k w v => .widen (postEff_alters t c i k w v (some t))) _ c s)
  case postFabricRequest t c =>
    exact .of_exec h rfl (some t) (seqIssue_alters (fun i k w v => .next (.widen (postEff_alters t c i k w v (some t))) (State.frtCount_alters _ t c _ (some t))) _ c s)
  case seqKbnd t c => exact .of_exec h rfl none (seqIssue_alters (fun i k w v => .widen (kernelEnd_alters t c i k w v)) _ c s)
  case fenceL t c | fenceC t c | fenceG t c => exact .of_exec h rfl (some t) (seqIssue_alters (fun _ _ _ v => .modCtx (.refl v) _ _ _) _ _ s)
  case seqEnd t c => exact .of_exec h rfl (some t) (seqIssue_alters (fun i k w v => .widen (endEff_alters t c i k w v)) _ c s)
  case memxRead t c | memxWrite t c | memxAccumulateInt32 t c | memxAccumulateFp32 t c =>
    exact .of_exec h rfl (some t) (seqIssue_alters (fun i k w v => .widen (memxEff_alters t c i k w v (some t))) _ c s)
  case passStart t part => exact .of_exec h rfl none (passStart_alters t part s)
  case preemptFreeze t => exact .of_exec h rfl none (preemptFreeze_alters t s)
  case preemptRestore t => exact .of_exec h rfl none (preemptRestore_alters t s)
  case arrayParityError t kind row col => exact .of_exec h rfl (some t) (arrayParity_alters t kind row.val col.val s)
  case arrPark | sgePark | schPark => exact .of_exec h rfl _ (parkReg_alters _ _ _ _ s)
  case sgeNop | setxl | setxh | xop | rep | clracc | ldtb | add | sub | mul | mla | mls | mac | macc | accout | min | max | abs | shr | and | or | xor
      | cmp | sel | bxd | norm | expx | msstepForward | msstepBackward | rotz | zip | unzip | perm | bgath | luti | bfpd | bfpc | pkfl | cvt =>
    exact .of_exec h rfl _ (engIssue_alters _ _ _ s)
  case sgeFlagsClear => exact execSgeFlagsClear_alters h
  case cmpcnt | cmpinc => exact .of_exec h rfl _ (poStart_alters _ _ s)
  case fenceRelease t c => exact .of_exec h rfl none (fenceRelease_alters t c s)
  case radioWindowOpen t => exact .of_exec h rfl none (windowOpen_alters t s)
  case radioWindowClose t => exact .of_exec h rfl none (.widen (windowClose_alters t s))
  case landingWrite => exact .of_exec h rfl none (.onlyIf (.refl s) fun _ => .widen (s.land_alters _))
  case landingNackReceive t c => exact .of_exec h rfl none (landingNack_alters t c s)
  case creditGrantReceive t zone => exact .of_exec h rfl none (creditGrant_alters t zone s)
  case zoneRemoteRead => exact .of_exec h rfl none (.onlyIf (.refl s) fun _ => .widen (zoneRemoteRead_alters _ _ _ _ _ s))
  case zoneEnable t zone a value => exact .of_exec h rfl none (.widen (s.zoneCfgWrite_alters t zone a value))
  case zoneRdWrite => exact .widen (execZoneRdWrite_alters h) (hh := nofun)
  case padSweep => exact .widen (execPadSweep_alters h) (hh := nofun)
  case tagSweepComplete => exact .of_exec h rfl none (.onlyIf (.refl s) fun _ => s.modPad_alters _ _ none)
  case heldSweepStart => exact .of_exec h rfl none (.onlyIf (.refl s) fun _ => s.modPad_alters _ _ none)
  case patrolVisit => exact .of_exec h rfl none (.onlyIf (.refl s) fun _ => .widen (patrol_alters _ _ _ s))
  case regrow => exact .of_exec h rfl none (.onlyIf (.refl s) fun _ => .widen (regrowRow_alters _ _ _ s))
  case atbTick => exact .of_exec h rfl none (.onlyIf (.refl s) fun _ => atbTick_alters s)
  all_goals exact hg.elim nofun nofun

end
end Sys2Proof.Machine
end

section
/-!
Which pad a landing, a patrol visit and a sweep may change (R162, R179, R185); the frames of the tile commands settled.
-/
set_option Elab.async false
namespace Sys2Proof.Machine

/-- From `s` to `u` no pad but that of physical tile `q` changes, nor the map of the tiles. -/
structure State.AltersPad (q : PTile) (s u : State) : Prop where
  map : u.tileMap = s.tileMap
  pad : ∀ p, p ≠ q → u.pads.get p = s.pads.get p

section
variable {q : PTile} {s u v : State} {t : LTile}

theorem State.AltersPad.refl (s : State) : s.AltersPad q s := ⟨rfl, fun _ _ => rfl⟩

theorem State.AltersPad.trans (h : s.AltersPad q u) (k : u.AltersPad q v) : s.AltersPad q v :=
  ⟨k.map.trans h.map, fun p hp => (k.pad p hp).trans (h.pad p hp)⟩

/-- A further operation that alters no pad. -/
theorem State.AltersPad.next {cs : List Comp} {ns : Option (List RegName)} {here : Option LTile} (h : s.AltersPad q u) (k : u.Alters cs ns here v)
    (hp : .pads ∉ cs := by simp) (hm : .tileMap ∉ cs := by simp) : s.AltersPad q v :=
  h.trans ⟨k.comp .tileMap hm, fun p _ => congrArg (·.get p) (k.comp .pads hp)⟩

theorem State.AltersPad.ite {c : Prop} [Decidable c] (h : s.AltersPad q u) (k : s.AltersPad q v) : s.AltersPad q (if c then u else v) := by
  split
  · exact h
  · exact k

theorem State.AltersPad.fold {α : Type} {f : State → α → State} (hf : ∀ v a, s.AltersPad q v → s.AltersPad q (f v a)) (h : s.AltersPad q u) (l : List α) :
    s.AltersPad q (l.foldl f u) := by
  induction l generalizing u with
  | nil => exact h
  | cons a l ih => exact ih (hf u a h)

theorem State.AltersPad.modPad (h : s.AltersPad q u) (f : Pad → Pad) : s.AltersPad q (u.modPad q f) :=
  h.trans ⟨rfl, fun p hp => by rw [State.modPad_pads, vmod_get, if_neg hp]⟩

/-- The pad of a logical tile, which stays where it is. -/
theorem State.AltersPad.modPadOf (h : s.AltersPad (s.ptile t) u) (f : Pad → Pad) : s.AltersPad (s.ptile t) (u.modPad (u.ptile t) f) := by
  have same : u.ptile t = s.ptile t := congrArg (·.get t) h.map
  rw [same]
  exact h.modPad f

theorem State.AltersPad.finc (h : s.AltersPad q u) (r : Reg) (hi lo k : Nat) : s.AltersPad q (u.finc r hi lo k) := h.trans ⟨rfl, fun _ _ => rfl⟩

theorem State.AltersPad.logRec (h : s.AltersPad q u) (r : Rec) : s.AltersPad q (u.logRec r) :=
  h.next (.logRec (.refl u) r : u.Alters [.log] none none _)

/-! ## Landings, reads and patrol -/

theorem State.land_altersPad (s : State) (w : LandW) : s.AltersPad (s.ptile w.tile) (s.land w) := by
  unfold State.land
  dsimp only
  refine .ite (.next ((State.AltersPad.finc (.refl s) _ _ _ _).logRec _) (State.sendOn_alters _ _ _ _ _ none)) ?_
  split
  · exact .next ((State.AltersPad.finc (.refl s) _ _ _ _).logRec _) (State.sendOn_alters _ _ _ _ _ none)
  · exact .fold (fun v k h => .ite (h.modPadOf _) h) (.next (.finc (.refl s) _ _ _ _) (State.noteOutputs_alters _ _ _ none)) _

theorem State.AltersPad.noteRead (h : s.AltersPad (s.ptile t) u) (r tag : Nat) : s.AltersPad (s.ptile t) (u.noteRead t r tag) := by
  unfold State.noteRead
  dsimp only
  have counted {v : State} (h : s.AltersPad (s.ptile t) v) {c : Prop} [Decidable c] (hi lo : Nat) :
      s.AltersPad (s.ptile t) (if c then v else v.finc (treg .padEcc t) hi lo) := .ite h (h.finc _ _ _ _)
  have fails {v : State} (h : s.AltersPad (s.ptile t) v) {c : Prop} [Decidable c] :
      s.AltersPad (s.ptile t) (if c then v.modPad (v.ptile t) (·.fail r) else v) := .ite (h.modPadOf _) h
  refine .ite (fails ((counted h 47 32).logRec _)) ?_
  split
  · exact .ite (counted h _ _) (.ite ((counted h _ _).finc _ _ _ _) (((counted h _ _).finc _ _ _ _).logRec _))
  · exact (counted h _ _).finc _ _ _ _
  · exact fails (.ite ((counted h _ _).finc _ _ _ _) (((counted h _ _).finc _ _ _ _).logRec _))

theorem patrol_altersPad (t : LTile) (x : BitVec 528) (m : BitVec 13) (s : State) : s.AltersPad (s.ptile t) (patrol t x m s) := by
  unfold patrol
  dsimp only
  refine .ite (((State.AltersPad.refl s).modPad _).noteRead _ _) ?_
  split
  · exact (((State.AltersPad.refl s).modPad _).noteRead _ _).modPad _
  · exact .ite (((((State.AltersPad.refl s).modPad _).noteRead _ _).modPad _).modPad _) ((((State.AltersPad.refl s).modPad _).noteRead _ _).modPad _)
  · exact (((State.AltersPad.refl s).modPad _).noteRead _ _).modPad _

end
end Sys2Proof.Machine

open Sys2Proof Sys2Proof.Machine

/-- Settles O49: every function of a tile command alters only what its list has, by the rules of the state's operations; a
landing, a patrol visit and a sweep write the pad of their own tile. -/
theorem tileFrames : Obligations.TileFrames := by
  unfold Obligations.TileFrames
  refine ⟨fun c s u hg h => ?_, fun c s u t ht h => ?_, ?_, ?_, ?_⟩
  · have alters := exec_alters (.inl hg) h
    exact ⟨alters.comp, fun l hl r hr => alters.reg r (by simp [hl, allows, hr])⟩
  · have alters := exec_alters (.inr (ht ▸ rfl)) h
    exact ⟨alters.tile t ht, alters.block t ht⟩
  · intro s u t zone unit mask owner src data p h hp
    cases h.symm.trans (rfl : exec _ s = .next _)
    exact (State.AltersPad.ite (s.land_altersPad _) (.refl s)).pad p hp
  · intro s u t upset m p h hp
    cases h.symm.trans (rfl : exec _ s = .next _)
    exact (State.AltersPad.ite (patrol_altersPad t upset m s) (.refl s)).pad p hp
  · intro s u t a value p h hp
    obtain ⟨v, logged, rfl | ⟨f, rfl⟩⟩ := execPadSweep_cases h
    · exact (State.AltersPad.next (.refl s) logged).pad p hp
    · exact ((State.AltersPad.next (.refl s) logged).modPadOf f).pad p hp
end

section
/-!
The Signal Engine's issue and write-back: what a sound instruction leaves in the engine and the registers (R112-R120, R139-R143).
-/
set_option Elab.async false
namespace Sys2Proof.Machine

/-! ## The engine under the state's operations -/

@[simp] theorem State.eng_modEng (s : State) (t : LTile) (f : Engine → Engine) : (s.modEng t f).eng t = f (s.eng t) := by
  simp [State.eng]

theorem State.eng_congr {s u : State} (h : u.tiles = s.tiles) (t : LTile) : u.eng t = s.eng t := by
  rw [State.eng, h, State.eng]

/-- A task's change leaves the engine as it is. -/
@[simp] theorem State.eng_modCtx (s : State) (t : LTile) (c : CtxNo) (f : TaskCtx → TaskCtx) : (s.modCtx t c f).eng t = s.eng t := by
  unfold State.modCtx
  split
  · simp [State.eng]
  · rfl

/-- A write to a pad leaves the engine as it is. -/
@[simp] theorem State.eng_padStore (s : State) (t : LTile) (rank tag addr : Nat) (b : Bytes) : (s.padStore t rank tag addr b).eng t = s.eng t :=
  State.eng_congr ((s.padStore_alters t rank tag addr b none).comp .tiles (by simp)) t

/-! ## Issue (R112-R120) -/

/-- A word that holds is in the instruction table (R120). -/
theorem isSome_opRow_of_wordOk {w : W64} (h : wordOk w = true) : (opRow (opOf w)).isSome = true := by
  unfold wordOk at h
  split at h
  · cases h
  · next r hr => simp [hr]

/-- The command of an instruction is the engine's turn for it, whatever the state (R125). -/
theorem exec_engineCmd {t : LTile} {p : Bool} {w : W64} {c : Instr} (h : engineCmd t p w = some c) :
    ∃ mine : W64 → Bool, mine w = true ∧ ∀ s, exec c s = .next (engIssue mine t p s) := by
  unfold engineCmd at h
  split at h
  case h_1 hop => cases p <;> cases h; exact ⟨fun w => isOp 0x00 w || (opRow (opOf w)).isNone, by simp [isOp, hop], fun _ => rfl⟩
  case h_2 hop | h_3 hop | h_5 hop | h_6 hop => cases p <;> cases h; exact ⟨isOp _, decide_eq_true hop, fun _ => rfl⟩
  case h_28 hop =>
    split at h
    · next forward => cases h; exact ⟨fun w => isOp 0x33 w && decide (immOf w / 16384 % 2 = 0), by simp [isOp, hop, forward], fun _ => rfl⟩
    · next backward => cases h; exact ⟨fun w => isOp 0x33 w && decide (immOf w / 16384 % 2 = 1), by simp [isOp, hop]; omega, fun _ => rfl⟩
  case h_39 => cases h
  all_goals
    next hop =>
    cases h
    exact ⟨isOp _, decide_eq_true hop, fun _ => rfl⟩

/-- What the issue of an instruction writes beside the engine: the free value of a ROTZ is drawn, the instruction and a tenant's
activity are counted, and a parity error leaves its fault (R142, R143). -/
def engNoted (t : LTile) (p : Bool) (c : CtxNo) (idx : Nat) (w : W64) (k : TaskCtx) (s : State) : State :=
  let s := if opOf w = 0x34 then s.draw.2 else s
  let s := s.finc (treg .sgeIcount t) 47 0
  let s := if k.radio then s else s.act fun a => { a with engine := a.engine + 1 }
  if p then s.sgeFault t c 2 idx (opOf w) else s

section
variable (t : LTile) (p : Bool) (c : CtxNo) (idx : Nat) (w : W64) (k : TaskCtx) (s : State)

/-- No time passes. -/
theorem engNoted_now : (engNoted t p c idx w k s).now = s.now := by
  unfold engNoted
  split <;> split <;> split <;> rfl

/-- Every issue is counted once, whatever else it leaves (R143). -/
theorem engNoted_icount : (engNoted t p c idx w k s).rget (treg .sgeIcount t) = satAdd (s.rget (treg .sgeIcount t)) 47 0 1 := by
  have drawn : (if opOf w = 0x34 then s.draw.2 else s).rget (treg .sgeIcount t) = s.rget (treg .sgeIcount t) := by split <;> rfl
  have active (u : State) (f : Activity → Activity) : (if k.radio then u else u.act f).rget (treg .sgeIcount t) = u.rget (treg .sgeIcount t) := by
    split <;> rfl
  have faulted (u : State) : (if p then u.sgeFault t c 2 idx (opOf w) else u).rget (treg .sgeIcount t) = u.rget (treg .sgeIcount t) := by
    split
    · exact (State.rget_rset _ _ _ _).trans (if_neg (by simp))
    · rfl
  exact (faulted _).trans ((active _ _).trans ((State.rget_finc _ _ _ _ _ _).trans (by rw [if_pos rfl, drawn])))

end

/-- The engine once an instruction of the block `b` has issued: its flight is on its way, the scalar registers have moved on, and the next
instruction may issue from cycle `next` on (R112-R119). -/
def Engine.issued (e : Engine) (b : SgeBlock) (rest : List (Nat × W64 × Bool)) (xs : List (BitVec 32)) (f : Flight) (next : W64) : Engine :=
  { e.advance b rest with x := Vector.ofFn fun (i : Fin 16) => xs.getD i.val 0, flight := enq e.flight f, cur := some b.ctx, next := next }

/-- An instruction whose bank rows lie in its task's window and whose write slot is free issues (R112-R116). -/
theorem engIssue1_of_sound {s : State} {t : LTile} {b : SgeBlock} {w : W64} {k : TaskCtx} {plan : EngPlan}
    (hplan : engPlan (s.eng t) b.ctx w (if opOf w = 0x34 then s.freeCount else 0) = plan)
    (inside : plan.inWindow k = true) (free : (s.eng t).clash w (s.engDue w) = false) (p : Bool) (idx : Nat) (rest : List (Nat × W64 × Bool)) :
    engIssue1 t p b idx w rest k s = (engNoted t p b.ctx idx w k s).modEng t fun e =>
      e.issued b rest plan.ops.xs (plan.flight s (s.eng t).mss b.ctx k idx w p) (s.now + BitVec.ofNat 64 (issOf w)) := by
  rw [← engNoted_now t p b.ctx idx w k s]
  by_cases hop : opOf w = 0x34
  · have plan_drawn : engPlan (s.draw.2.eng t) b.ctx w s.draw.1 = plan := by rw [← hplan, if_pos hop]; rfl
    have free_drawn : (s.draw.2.eng t).clash w (s.draw.2.engDue w) = false := free
    simp only [engIssue1, engNoted, if_pos hop, plan_drawn, inside, free_drawn, Bool.not_true, Bool.false_eq_true, if_false]
    rfl
  · have plan_here : engPlan (s.eng t) b.ctx w 0 = plan := by rw [← hplan, if_neg hop]
    simp only [engIssue1, engNoted, if_neg hop, plan_here, inside, free, Bool.not_true, Bool.false_eq_true, if_false]
    rfl

/-! ## Results (R115, R142) -/

/-- The writes of scalar registers leave the rest of the engine as it is. -/
theorem foldl_setX_eq (l : List (Nat × BitVec 32)) (e : Engine) :
    ∃ x, l.foldl (fun e p => { e with x := e.x.set (fin 16 p.1) p.2 }) e = { e with x := x } := by
  induction l generalizing e with
  | nil => exact ⟨e.x, rfl⟩
  | cons p l ih => exact ih _

/-- A vector result written to register `n`, where there is one (R115). -/
def Engine.putV (e : Engine) (n : Nat) (v : Option Vec) : Engine :=
  match v with | some x => if h : n < 32 then { e with v := e.v.set n x } else e | none => e

theorem Engine.putV_v (e : Engine) (m : Nat) (v : Option Vec) (n : Fin 32) :
    (e.putV m v).v.get n = if m = n.val then v.getD (e.v.get n) else e.v.get n := by
  unfold Engine.putV
  split
  · split
    · simp only [Vector.get_eq_getElem, Vector.getElem_set, Option.getD_some]
    · rw [if_neg (by omega)]
  · simp

theorem Engine.putV_stage (e : Engine) (n : Nat) (v : Option Vec) : (e.putV n v).pack = e.pack ∧ (e.putV n v).packOf = e.packOf := by
  unfold Engine.putV
  split
  · split <;> exact ⟨rfl, rfl⟩
  · exact ⟨rfl, rfl⟩

/-- A result's vectors are written to D and S3; beside them only accumulators, scalar registers and the table change (R115). -/
theorem Engine.write_eq (e : Engine) (f : Flight) (o : EngOut) : ∃ a x l c,
    e.write f o = { (e.putV (dOf f.word) o.vec).putV (s3Of f.word) o.s3 with acc := a, x := x, lut := l, lutOf := c } := by
  obtain ⟨vec, s3, acc, xs, lut, sat⟩ := o
  obtain ⟨x, hx⟩ := foldl_setX_eq xs (e.write f ⟨vec, s3, acc, [], lut, sat⟩)
  have hw : e.write f ⟨vec, s3, acc, xs, lut, sat⟩ = { e.write f ⟨vec, s3, acc, [], lut, sat⟩ with x := x } := hx
  rw [hw]
  cases acc <;> cases lut <;> exact ⟨_, _, _, _, rfl⟩

/-- A result without an S3 is written to register D alone of the vector registers (R115, R119). -/
theorem Engine.write_v {o : EngOut} (h : o.s3 = none) (e : Engine) (f : Flight) (n : Fin 32) :
    (e.write f o).v.get n = if dOf f.word = n.val then o.vec.getD (e.v.get n) else e.v.get n := by
  obtain ⟨a, x, l, c, hw⟩ := e.write_eq f o
  rw [hw, h]
  exact e.putV_v _ _ n

/-- The writes of a result leave the pack stage as it is (R139). -/
theorem Engine.write_stage (e : Engine) (f : Flight) (o : EngOut) : (e.write f o).pack = e.pack ∧ (e.write f o).packOf = e.packOf := by
  obtain ⟨a, x, l, c, hw⟩ := e.write_eq f o
  obtain ⟨packD, ofD⟩ := e.putV_stage (dOf f.word) o.vec
  obtain ⟨packS, ofS⟩ := (e.putV (dOf f.word) o.vec).putV_stage (s3Of f.word) o.s3
  rw [hw]
  exact ⟨packS.trans packD, ofS.trans ofD⟩

/-- A sound instruction's results are written to the engine (R115). -/
theorem State.engResult_eng {f : Flight} (h : f.poison = false) (s : State) (t : LTile) :
    (s.engResult t f).eng t = (f.finish (s.eng t)).2.write f (f.finish (s.eng t)).1 := by
  have stored (u : State) (o : EngOut) :
      (match f.bankD, o.vec with | some a, some v => u.padStore t rankEngine f.owner a (toBytes v 512) | _, _ => u).eng t = u.eng t := by
    split
    · exact u.eng_padStore _ _ _ _ _
    · rfl
  have flagged (u : State) (c : Bool) : (if c then (u.flag t f.ctx true false false).fset (treg .sgeFlags t) 0 0 1 else u).eng t = u.eng t := by
    split
    · exact u.eng_modCtx t f.ctx _
    · rfl
  simp only [State.engResult, h, Bool.false_eq_true, if_false]
  exact (flagged _ _).trans ((stored _ _).trans (s.eng_modEng t _))

/-- An instruction that needs no state of the engine but its operands (R115, R125). -/
theorem Flight.finish_of_computes {f : Flight} (h : ∀ op ∈ [0x33, 0x38, 0x3A, 0x3B, 0x3C], opOf f.word ≠ op) (e : Engine) :
    f.finish e = (engCompute f.word f.ins, e) := by
  simp only [List.forall_mem_cons] at h
  obtain ⟨msstep, bgath, bfpd, bfpc, pkfl, -⟩ := h
  simp only [Flight.finish, if_neg msstep, if_neg bgath, if_neg bfpd, if_neg bfpc, if_neg pkfl]

/-- BFPC appends its bytes to the stage of its issue (R139). -/
theorem Flight.finish_bfpc {f : Flight} (h : f.poison = false) (hop : opOf f.word = 0x3B) (e : Engine) :
    let r := bfpcStage f.stage (bfpcBytes (bfpW f.ins (immOf f.word)) (bfpP (immOf f.word)) f.ins.s1)
    f.finish e = ({ vec := r.2 }, { e with pack := r.1, packOf := some f.ctx }) := by
  simp [Flight.finish, hop, h]

/-- PKFL writes the stage of its issue and empties it (R139). -/
theorem Flight.finish_pkfl {f : Flight} (hop : opOf f.word = 0x3C) (e : Engine) :
    f.finish e = ({ vec := some (vecOf f.stage) }, { e with pack := [], packOf := some f.ctx }) := by
  simp [Flight.finish, hop]

/-! ## The engine's flags (R143) -/

/-- The flag of SGE_FLAGS clears where the value has a 1 (R143). -/
theorem bits_store_sgeFlags (t : LTile) (old value : W64) :
    bits ((treg .sgeFlags t).store old value) 0 0 = if bit value 0 then 0 else bits old 0 0 := by
  have stored : (treg .sgeFlags t).store old value =
      BitVec.ofNat 64 ((old.toNat &&& (2 ^ 64 - 2)) + (old.toNat &&& 1 &&& (2 ^ 64 - 1 - value.toNat % 2 ^ 64))) := by
    simp [Reg.store, regRow]
  have kept : (old.toNat &&& (2 ^ 64 - 2)) % 2 = 0 := (Nat.and_mod_two_pow (n := 1)).trans (Nat.and_zero _)
  have mask : 1 &&& (2 ^ 64 - 1 - value.toNat % 2 ^ 64) = if bit value 0 then 0 else 1 := by
    rw [Nat.one_and_eq_mod_two, bit, BitVec.getLsbD, Nat.testBit_zero]
    simp only [decide_eq_true_eq]
    split <;> omega
  rw [stored, bits, bits, Nat.and_assoc, mask, BitVec.toNat_ofNat]
  split
  · rw [Nat.and_zero]
    omega
  · rw [Nat.and_one_is_mod]
    omega

end Sys2Proof.Machine
open Sys2Proof Sys2Proof.Machine

/-- Settles O9: the instruction's command is the engine's turn, which issues it. -/
theorem engineIssues : Obligations.EngineIssues := by
  unfold Obligations.EngineIssues
  intro s t p w c b started idx inRep rest k hc hhead htodo hk hnow hopen hok hrep plan inside free
  obtain ⟨mine, hmine, hexec⟩ := exec_engineCmd hc
  have issue : exec c s = .next (engIssue1 t p b idx w rest k s) := by
    rw [hexec, engIssue_of_head hhead htodo hk hnow hopen (isSome_opRow_of_wordOk hok) hok hrep mine hmine p]
  rw [engIssue1_of_sound rfl inside free p idx rest] at issue
  refine ⟨_, issue, ?_, ?_, ?_⟩
  · rw [State.eng_modEng]
    exact ⟨_, List.mem_append_right _ (List.mem_singleton_self _), rfl, rfl, rfl, rfl, rfl, rfl, rfl, rfl, rfl, rfl, rfl⟩
  · rw [State.eng_modEng]
    rfl
  · exact (State.rget_congr rfl _).trans (engNoted_icount t p b.ctx idx w k s)

/-- Settles O10: both commands write their register, under the access codes. -/
theorem engineControlCompletes : Obligations.EngineControlCompletes := by
  unfold Obligations.EngineControlCompletes
  refine ⟨fun s t a may => ?_, fun s t a value may => ?_⟩
  · refine ⟨_, rfl, ?_⟩
    change (parkReg _ _ _ _ _).rget _ = _
    rw [parkReg_cases, if_pos may, State.rget_fset, if_pos rfl]
  · have logged (u : State) (c : Prop) [Decidable c] : (if c then u else u.regRec (treg .sgeFlags t)).rget (treg .sgeFlags t) = u.rget (treg .sgeFlags t) := by
      split
      · rfl
      · exact State.rget_congr (u.regRec_regs _) _
    refine ⟨_, if_pos may, ?_⟩
    change State.fget _ _ 0 0 = _
    rw [State.fget, State.rget_rset, if_pos rfl, logged, State.fget, bits_store_sgeFlags]

/-- Settles O12: what the instruction computes is written to register D; BFPC and PKFL leave the stage that they computed. -/
theorem engineWritesBack : Obligations.EngineWritesBack := by
  unfold Obligations.EngineWritesBack
  refine ⟨fun s t f v sound plain hv hs n => ?_, fun s t f sound hop => ?_, fun s t f sound hop => ?_⟩
  · rw [State.engResult_eng sound, Flight.finish_of_computes plain, Engine.write_v hs, hv, Option.getD_some]
  · intro r
    rw [State.engResult_eng sound, Flight.finish_bfpc sound hop]
    obtain ⟨hpack, hof⟩ := Engine.write_stage { s.eng t with pack := r.1, packOf := some f.ctx } f { vec := r.2 }
    exact ⟨hpack, hof, Engine.write_v rfl _ f⟩
  · rw [State.engResult_eng sound, Flight.finish_pkfl hop]
    obtain ⟨hpack, -⟩ := Engine.write_stage { s.eng t with pack := [], packOf := some f.ctx } f { vec := some (vecOf f.stage) }
    exact ⟨hpack, Engine.write_v rfl _ f⟩
end

section
/-!
Lanes of a word built from lanes, and of the results of the Signal Engine's lane-wise integer operations (R110, R122, R125).
-/
set_option Elab.async false
namespace Sys2Proof.Machine

/-! ## Lanes and parts (R110) -/

/-- Each bit of the number that a list of lanes spells is that of its lane. -/
theorem testBit_foldr_lanes {w i j : Nat} {l : List (BitVec w)} (hi : i < l.length) (hj : j < w) :
    (l.foldr (fun (a : BitVec w) r => a.toNat + 2 ^ w * r) 0).testBit (w * i + j) = l[i].getLsbD j := by
  induction l generalizing i with
  | nil => cases hi
  | cons a l ih =>
    rw [List.foldr_cons, Nat.add_comm, Nat.testBit_two_pow_mul_add _ a.isLt]
    cases i with
    | zero => simp [hj, BitVec.getLsbD]
    | succ i =>
      have here : w * (i + 1) + j - w = w * i + j := by rw [Nat.mul_succ]; omega
      rw [if_neg (by rw [Nat.mul_succ]; omega), here]
      exact ih (Nat.lt_of_succ_lt_succ hi)

/-- A lane of a word built from lanes that fit in it. -/
theorem lane_ofLanes {n w i : Nat} {l : List (BitVec w)} (hi : i < l.length) (fit : w * l.length ≤ n) : lane (ofLanes n l) w i = l[i] := by
  apply BitVec.eq_of_getLsbD_eq
  intro j hj
  have inside : w * i + j < n := by
    have := Nat.mul_le_mul_left w (Nat.succ_le_of_lt hi)
    rw [Nat.mul_succ] at this
    omega
  rw [lane, BitVec.getLsbD_extractLsb', ofLanes, BitVec.getLsbD_ofNat, testBit_foldr_lanes hi hj]
  simp [hj, inside]

theorem partW_pos (mode : Nat) : 0 < partW mode := by
  unfold partW
  split <;> decide

@[simp] theorem length_parts (mode : Nat) (v : Vec) : (parts mode v).length = 4096 / partW mode := by simp [parts]

@[simp] theorem getElem_parts (mode : Nat) (v : Vec) (n : Nat) (h : n < (parts mode v).length) :
    (parts mode v)[n] = (lane v (partW mode) n).toInt := by simp [parts]

/-- A lane of a vector from as many parts as it has. -/
theorem lane_ofParts {mode n : Nat} {l : List Int} (hl : l.length = 4096 / partW mode) (hn : n < l.length) :
    lane (ofParts mode l) (partW mode) n = BitVec.ofInt (partW mode) l[n] := by
  have fit : partW mode * (l.map fun x => BitVec.ofInt (partW mode) x).length ≤ 4096 := by
    rw [List.length_map, hl]
    exact Nat.mul_div_le 4096 _
  rw [ofParts, lane_ofLanes (by simpa using hn) fit, List.getElem_map]

/-! ## Saturation (R122) -/

theorem sat_mem {x lo hi : Int} (h : lo ≤ hi) : lo ≤ sat x lo hi ∧ sat x lo hi ≤ hi := by
  unfold sat
  split
  · omega
  · split <;> omega

/-- A lane of a saturated vector (R122). -/
theorem toInt_lane_satVec {mode n : Nat} {l : List Int} (hl : l.length = 4096 / partW mode) (hn : n < l.length) :
    (lane (satVec mode l).1 (partW mode) n).toInt = sat l[n] (-2 ^ (partW mode - 1)) (2 ^ (partW mode - 1) - 1) := by
  have pos : (0 : Int) < 2 ^ (partW mode - 1) := by positivity
  obtain ⟨lo, hi⟩ := sat_mem (x := l[n]) (show (-2 ^ (partW mode - 1) : Int) ≤ 2 ^ (partW mode - 1) - 1 by omega)
  rw [satVec, satParts, lane_ofParts (by simpa using hl) (by simpa using hn), List.getElem_map]
  exact BitVec.toInt_ofInt_eq_self (partW_pos mode) lo (by omega)

/-- A lane of ADD or SUB: wrapped with IMM[15], else saturated (R122). -/
theorem toInt_lane_addSub {mode imm n : Nat} {l : List Int} {v : Vec} (hl : l.length = 4096 / partW mode) (hn : n < l.length)
    (hv : (addSub mode imm l).vec = some v) :
    (lane v (partW mode) n).toInt = if imm / 32768 % 2 = 1 then (BitVec.ofInt (partW mode) l[n]).toInt
      else sat l[n] (-2 ^ (partW mode - 1)) (2 ^ (partW mode - 1) - 1) := by
  unfold addSub at hv
  split at hv
  · next wraps => cases hv; rw [if_pos wraps, lane_ofParts hl hn]
  · next saturates => cases hv; rw [if_neg saturates, toInt_lane_satVec hl hn]

/-- A shift to the right stays in the width of its operand (R122). -/
theorem toInt_ofInt_floorShift {m : Nat} (hm : 0 < m) (x : BitVec m) (k : Nat) : (BitVec.ofInt m (floorShift x.toInt k)).toInt = floorShift x.toInt k := by
  have lo := x.le_toInt
  have hi := x.toInt_lt
  have pos : (0 : Int) < 2 ^ k := by positivity
  refine BitVec.toInt_ofInt_eq_self hm ((Int.le_ediv_iff_mul_le pos).mpr ?_) ((Int.ediv_lt_iff_lt_mul pos).mpr ?_)
  · nlinarith
  · nlinarith

/-- The choice of one of two lanes is a lane. -/
theorem toInt_ofInt_ite {m : Nat} (c : Prop) [Decidable c] (x y : BitVec m) :
    (BitVec.ofInt m (if c then x.toInt else y.toInt)).toInt = if c then x.toInt else y.toInt := by
  split <;> rw [BitVec.ofInt_toInt]

end Sys2Proof.Machine
open Sys2Proof Sys2Proof.Machine

/-- Settles O11: each operation makes its vector part by part, and a part is read back as its lane. -/
theorem engineLanes : Obligations.EngineLanes := by
  unfold Obligations.EngineLanes
  intro w i n m _ hn x y _ v hv
  have len2 (g : Int → Int → Int) : (List.zipWith g (parts (modeOf w) i.s1) (parts (modeOf w) i.s2)).length = 4096 / m := by simp [m]
  have len1 (g : Int → Int) : ((parts (modeOf w) i.s1).map g).length = 4096 / m := by simp [m]
  have part2 (g : Int → Int → Int) : (List.zipWith g (parts (modeOf w) i.s1) (parts (modeOf w) i.s2))[n]'(len2 g ▸ hn) = g x y := by simp [x, y, m]
  have part1 (g : Int → Int) : ((parts (modeOf w) i.s1).map g)[n]'(len1 g ▸ hn) = g x := by simp [x, m]
  refine ⟨?_, ?_, ?_, ?_, ?_, ?_, ?_, ?_, ?_⟩ <;> intro hop <;> simp only [engCompute, hop] at hv
  · rw [toInt_lane_addSub (len2 _) (len2 _ ▸ hn) hv, part2]
  · rw [toInt_lane_addSub (len2 _) (len2 _ ▸ hn) hv, part2]
  · cases hv
    rw [lane_ofParts (len2 _) (len2 _ ▸ hn), part2]
    exact toInt_ofInt_ite _ _ _
  · cases hv
    rw [lane_ofParts (len2 _) (len2 _ ▸ hn), part2]
    exact toInt_ofInt_ite _ _ _
  · cases hv
    rw [toInt_lane_satVec (len1 _) (len1 _ ▸ hn), part1]
  · cases hv
    rw [lane_ofParts (len1 _) (len1 _ ▸ hn), part1]
    exact toInt_ofInt_floorShift (partW_pos _) _ _
  · cases hv
    exact BitVec.extractLsb'_and
  · cases hv
    exact BitVec.extractLsb'_or
  · cases hv
    exact BitVec.extractLsb'_xor
end

section
/-!
The issue of a sequencer's operation: its task goes on, and the effect finds the rest of the state as it was (R201, R206-R212).
-/
set_option Elab.async false
namespace Sys2Proof.Machine

/-! ## Contexts and units under the state's operations -/

@[simp] theorem State.cmp_modCmp (s : State) (t : LTile) (f : CompareUnit → CompareUnit) : (s.modCmp t f).cmp t = f (s.cmp t) := by
  simp [State.cmp, State.modCmp]

theorem State.ctx_modCtx (s : State) (t : LTile) (c : CtxNo) (f : TaskCtx → TaskCtx) : (s.modCtx t c f).ctx t c = (s.ctx t c).map f := by
  unfold State.modCtx
  split
  · next k hk => rw [State.ctx_setCtx, if_pos ⟨rfl, rfl⟩, hk, Option.map_some]
  · next hk => rw [hk, Option.map_none]

/-- A change of one context's task leaves the other contexts. -/
theorem State.ctx_modCtx_of_ne (s : State) (t : LTile) {c d : CtxNo} (h : d ≠ c) (f : TaskCtx → TaskCtx) : (s.modCtx t c f).ctx t d = s.ctx t d := by
  unfold State.modCtx
  split
  · rw [State.ctx_setCtx, if_neg fun e => h e.2]
  · rfl

theorem TaskCtx.eq_of_span {k : TaskCtx} {a len p : Nat} (h : k.span a len = some p) : p = k.base + a := by
  unfold TaskCtx.span at h
  split at h
  · exact (Option.some.inj h).symm
  · exact absurd h nofun

/-- A flit handed to the mesh is among its flits. -/
theorem State.exists_mem_flit (s : State) (due : W64) (p : Payload) : ∃ f ∈ (s.flit due p).mesh.flits, f.due = due ∧ f.payload = p :=
  ⟨_, List.mem_append_right _ (List.mem_singleton_self _), rfl, rfl⟩

/-! ## A task that has gone on -/

/-- After the advance the task has gone on; only its place, its times and its hold have changed. -/
theorem State.went_advance (s : State) (t : LTile) (c : CtxNo) (k : TaskCtx) (le : W64) :
    s.went (s.advance t c k le) t c k fun k' => k'.ended = k.ended :=
  ⟨_, s.ctx_advance t c k le, ⟨rfl, rfl, rfl⟩, rfl⟩

section
variable {s u v : State} {t : LTile} {c : CtxNo} {k : TaskCtx} {p q : TaskCtx → Prop}

theorem State.went.mono (h : s.went v t c k p) (hpq : ∀ k', p k' → q k') : s.went v t c k q := by
  obtain ⟨k', hk, gone, hp⟩ := h
  exact ⟨k', hk, gone, hpq k' hp⟩

/-- What leaves the context leaves that its task has gone on. -/
theorem State.went.of_ctx (h : s.went v t c k p) (e : u.ctx t c = v.ctx t c) : s.went u t c k p := by
  obtain ⟨k', hk, hp⟩ := h
  exact ⟨k', e.trans hk, hp⟩

/-- What leaves every tile leaves that a task has gone on. -/
theorem State.went.of_tiles (h : s.went v t c k p) (e : u.tiles = v.tiles) : s.went u t c k p := h.of_ctx (State.ctx_congr e t c)

/-- Work handed to a unit of the tile leaves its tasks. -/
theorem State.went.modTile (h : s.went v t c k p) (f : Tile → Tile) (hf : ∀ x, (f x).ctx = x.ctx) : s.went (v.modTile t f) t c k p :=
  h.of_ctx (v.ctx_modTile t t c f hf)

/-- A change of the task itself that leaves its place and its times. -/
theorem State.went.modCtx (h : s.went v t c k p) {f : TaskCtx → TaskCtx} (hf : ∀ k', Advanced k k' s.now → Advanced k (f k') s.now)
    (hq : ∀ k', p k' → q (f k')) : s.went (v.modCtx t c f) t c k q := by
  obtain ⟨k', hk, gone, hp⟩ := h
  exact ⟨f k', by rw [State.ctx_modCtx, hk, Option.map_some], hf k' gone, hq k' hp⟩

end

/-- A command that issues an operation, where the operation comes to issue: its effect follows the advance of its task. -/
theorem Ends.of_issues {s : State} {t : LTile} {c : CtxNo} {k : TaskCtx} {i : Image} {w : W64} {x : Instr} {mine : TaskCtx → W64 → Bool}
    {eff : Image → TaskCtx → W64 → State → State} {p : State → Prop} (h : s.issues t c k i w)
    (hx : exec x s = .next (seqIssue mine eff t c s)) (hm : mine k w = true) (hp : ∀ le, p (eff i k w (s.advance t c k le))) : Ends x s p :=
  ⟨_, by rw [hx, seqIssue_of_issues h mine hm eff], hp _⟩

/-- A task whose operation comes to issue has not ended (R206). -/
theorem State.issues.ended {s : State} {t : LTile} {c : CtxNo} {k : TaskCtx} {i : Image} {w : W64} (h : s.issues t c k i w) : k.ended = none := by
  obtain ⟨-, -, -, due, -⟩ := h
  simp only [State.seqDue, Bool.and_eq_true, Option.isNone_iff_eq_none] at due
  exact due.1.1.1

/-! ## Passes, blocks and pad operations (R209) -/

/-- A pass that is issued now, as it stands in its partition's pending slot. -/
def State.pendPass (v : State) (t : LTile) (c : CtxNo) (k : TaskCtx) (idx : Nat) (d : Bytes) : PendPass :=
  { part := fin 7 (dPart d), ctx := c, radio := k.radio, idx := idx, plan := (v.planPass t k.radio d).1, kc := dKc d,
    planLast := (v.planPass t k.radio d).2, earliest := v.now + 2 }

/-- A pass with a partition goes to its partition's pending slot, a radio one before those that wait there. -/
theorem passEff_of_desc {t : LTile} {c : CtxNo} {i : Image} {k : TaskCtx} {w : W64} {d : Bytes} {a : Nat} {v : State}
    (hd : v.passDesc k (seqArg w % 65536) = some (d, a)) (hpart : dPart d < 7) :
    let q := v.pendPass t c k (seqArg w % 65536) d
    passEff t c i k w v = v.modArr t fun x => { x with pend := if k.radio then q :: x.pend else enq x.pend q } := by
  simp only [passEff, hd, if_neg (Nat.ne_of_lt hpart)]
  rfl

theorem mem_ite_cons_enq {α : Type} (b : Bool) (q : α) (l : List α) : q ∈ if b then q :: l else enq l q := by
  split
  · exact List.mem_cons_self
  · exact List.mem_append_right _ (List.mem_singleton_self q)

/-- A pad operation goes to the compare unit's pending slot. -/
theorem padopEff_of_desc {t : LTile} {c : CtxNo} {i : Image} {k : TaskCtx} {w : W64} {d : Bytes} (hd : i.padops[seqArg w % 65536]? = some d) (v : State) :
    padopEff t c i k w v =
      v.modCmp t fun u => { u with pend := enq u.pend { ctx := c, owner := k.owner, radio := k.radio, desc := d, earliest := v.now + 2 } } := by
  simp only [padopEff, hd]

end Sys2Proof.Machine
open Sys2Proof Sys2Proof.Machine

/-- Settles O4: the task goes on, and its work stands at its unit with its earliest start. -/
theorem unitOpsIssue : Obligations.UnitOpsIssue := by
  unfold Obligations.UnitOpsIssue
  intro s t c k i w h
  have gone (le : W64) : s.went (s.advance t c k le) t c k fun _ => True := (s.went_advance t c k le).mono fun _ _ => trivial
  refine ⟨fun hop => ?_, fun hop d a hd hpart => ?_, fun hop => ?_, fun hop d hd => ?_⟩
  · refine .of_issues h rfl (by simp [hop]) fun le => (s.went_advance t c k le).mono fun _ _ => ?_
    simp [State.advance]
  · refine .of_issues (eff := passEff t c) h rfl (by simp [opIs, hop]) fun le => ?_
    rw [passEff_of_desc (v := s.advance t c k le) hd hpart]
    refine ⟨(gone le).modTile _ fun _ => rfl, ?_⟩
    rw [State.arr_modArr]
    exact ⟨_, mem_ite_cons_enq _ _ _, rfl, Nat.mod_eq_of_lt hpart, rfl, rfl, rfl⟩
  · refine .of_issues (eff := sgeEff t c) h rfl (by simp [opIs, hop]) fun le => ⟨(gone le).modTile _ fun _ => rfl, ?_⟩
    simp only [sgeEff, State.eng_modEng]
    exact ⟨_, List.mem_append_right _ (List.mem_singleton_self _), rfl, rfl, rfl, rfl⟩
  · refine .of_issues (eff := padopEff t c) h rfl (by simp [opIs, hop]) fun le => ?_
    rw [padopEff_of_desc hd]
    refine ⟨(gone le).modTile _ fun _ => rfl, ?_⟩
    rw [State.cmp_modCmp]
    exact ⟨_, List.mem_append_right _ (List.mem_singleton_self _), rfl, rfl, rfl, rfl⟩
end

section
/-!
Credit, flag, post, kernel-bound, fence and end operations: what their effects leave (R209-R212, R382, R385, R405).
-/
set_option Elab.async false
namespace Sys2Proof.Machine

/-! ## Effects of the next cycle (R209) -/

/-- An effect of the next cycle stands in its tile's list. -/
theorem State.mem_later_inNext (s : State) (t : LTile) (l : Later) : (s.now + 1, l) ∈ ((s.inNext t l).tiles.get t).later := by
  simp [State.inNext, enq]

/-- A request of a task is counted (R383). -/
theorem State.frtBusy_frtCount (s : State) (t : LTile) (c : CtxNo) (f : Nat → Nat) :
    tget 0 (s.frtCount t c f).ten.frtBusy (8 * t.val + c.val) = f (tget 0 s.ten.frtBusy (8 * t.val + c.val)) :=
  (tget_tset 0 _ _ _ _).trans (if_pos rfl)

/-! ## The end of a kernel (R211, R405) -/

/-- A suspend that begins frees no context: it changes freezes only. -/
theorem State.ctx_beginSuspend (s : State) (t : LTile) (c : CtxNo) : s.beginSuspend.ctx t c = s.ctx t c := by
  unfold State.beginSuspend
  split
  · rfl
  · simp [State.modTen, State.ctx]

/-- Of two states that hold the same task in a context, either one does. -/
theorem State.ctx_ite {b : Prop} [Decidable b] {u v : State} {t : LTile} {c : CtxNo} {x : Option TaskCtx} (hu : u.ctx t c = x) (hv : v.ctx t c = x) :
    (if b then u else v).ctx t c = x := by
  split
  · exact hu
  · exact hv

theorem State.ctx_mismatch (s : State) (kind : Nat) (r : TwinRec) (pass : Nat) (t : LTile) (c : CtxNo) : (s.mismatch kind r pass).ctx t c = s.ctx t c := by
  unfold State.mismatch
  dsimp only
  refine State.ctx_ite ((State.ctx_beginSuspend _ t c).trans ?_) ?_
  all_goals
    rw [State.ctx_congr (State.logRec_tiles _ _)]
    exact State.ctx_ite rfl rfl

/-- The comparison of a kernel with its twin leaves every task, whatever it finds. -/
theorem State.ctx_twinKernel (s : State) (t' : LTile) (k : TaskCtx) (record : List W64) (t : LTile) (c : CtxNo) :
    (s.twinKernel t' k record).ctx t c = s.ctx t c := by
  have handed (n : Fin 8) (m : KMsg) : (s.handK n m).ctx t c = s.ctx t c := State.ctx_congr ((s.handK_alters n m).comp .tiles (by simp)) t c
  unfold State.twinKernel
  split
  · rfl
  · dsimp only
    split
    · unfold State.compareTwins
      dsimp only
      split
      · exact handed _ _
      · exact (State.ctx_mismatch _ _ _ _ t c).trans (handed _ _)
    · exact handed _ _

/-- The registers that a list of them has set to one value read it. -/
theorem State.rget_foldl_rset {α : Type} (f : α → Reg) (v : W64) {r : Reg} : ∀ (l : List α) (s : State), r ∈ l.map f ∨ s.rget r = v →
    (l.foldl (fun s a => s.rset (f a) v) s).rget r = v
  | [], s, h => h.resolve_left (by simp)
  | a :: l, s, h => by
    refine State.rget_foldl_rset f v l _ ?_
    rw [State.rget_rset]
    rcases h with h | h
    · rcases List.mem_cons.mp h with h | h
      · exact .inr (if_pos h)
      · exact .inl h
    · exact .inr (by rw [h, ite_self])

/-- The state in which a kernel's hashes are taken: a tenant kernel has been compared with its twin. -/
def State.kernelCompared (s : State) (t : LTile) (k : TaskCtx) : State :=
  if k.radio then s else s.twinKernel t k ((List.range 4).map fun q => s.rget (treg .arrHash t q))

theorem kernelEnd_eq (t : LTile) (c : CtxNo) (i : Image) (k : TaskCtx) (w : W64) (s : State) :
    kernelEnd t c i k w s = (kbndEff t c i k w (s.kernelCompared t k)).modCtx t c fun k => { k with passHashes := [], passCount := 0 } := rfl

theorem State.ctx_kernelCompared (s : State) (t : LTile) (k : TaskCtx) (c : CtxNo) : (s.kernelCompared t k).ctx t c = s.ctx t c := by
  unfold State.kernelCompared
  split
  · rfl
  · exact s.ctx_twinKernel t k _ t c

/-- A comparison with the twin leaves the result hashes. -/
theorem State.rget_arrHash_kernelCompared (s : State) (t : LTile) (k : TaskCtx) (q : Nat) :
    (s.kernelCompared t k).rget (treg .arrHash t q) = s.rget (treg .arrHash t q) := by
  unfold State.kernelCompared
  split
  · rfl
  · exact (s.twinKernel_alters t k _).reg _ rfl

/-- The end of a kernel takes the hashes and the new identifier to the task (R211). -/
theorem State.went_kernelEnd {s v : State} {t : LTile} {c : CtxNo} {k : TaskCtx} {p : TaskCtx → Prop} (h : s.went v t c k p) (i : Image) (k' : TaskCtx) (w : W64) :
    s.went (kernelEnd t c i k' w v) t c k fun k' =>
      k'.kernel = BitVec.ofNat 32 (seqArg w) ∧ k'.hashes = (List.range 4).map (fun q => v.rget (treg .arrHash t q)) := by
  have cleared (u : State) : ((List.range 4).foldl (fun s q => s.rset (treg .arrHash t q) 0) u).tiles = u.tiles :=
    (State.Alters.fold (cs := [.regs]) (ns := none) (here := none) (fun v q => .rset (.refl v) _ _) (.refl u) _).comp .tiles (by simp)
  have compared : s.went (v.kernelCompared t k') t c k p := h.of_ctx (v.ctx_kernelCompared t k' c)
  rw [kernelEnd_eq, kbndEff]
  simp only [State.rget_arrHash_kernelCompared]
  refine State.went.modCtx (State.went.of_tiles ?_ (cleared _)) (fun _ gone => gone) fun _ hk => hk
  exact compared.modCtx (fun _ gone => gone) fun _ _ => ⟨rfl, rfl⟩

/-- The end of a kernel clears the result hashes (R211). -/
theorem rget_arrHash_kernelEnd (t : LTile) (c : CtxNo) (i : Image) (k : TaskCtx) (w : W64) (s : State) {q : Nat} (h : q < 4) :
    (kernelEnd t c i k w s).rget (treg .arrHash t q) = 0 := by
  have same (u : State) (f : TaskCtx → TaskCtx) (r : Reg) : (u.modCtx t c f).rget r = u.rget r :=
    State.rget_congr ((State.Alters.modCtx (cs := [.tiles]) (ns := none) (here := none) (.refl u) t c f).comp .regs (by simp)) r
  rw [kernelEnd_eq, same, kbndEff]
  exact State.rget_foldl_rset (fun q => treg .arrHash t q) 0 _ _ (.inl (List.mem_map_of_mem (List.mem_range.mpr h)))

/-! ## Fences and ends (R212, R385) -/

/-- A fence of a kind issues by that kind's command. -/
theorem fence_ends {s : State} {t : LTile} {c : CtxNo} {k : TaskCtx} {i : Image} {w : W64} {n : Nat} {x : Instr} (h : s.issues t c k i w)
    (hop : seqOp w = 0x0A) (harg : seqArg w = n) (hx : exec x s = .next (execFence n t c s)) :
    Ends x s fun u => s.went u t c k fun k' => k'.fence = some n :=
  .of_issues h hx (by simp [hop, harg]) fun le => (s.went_advance t c k le).modCtx (fun _ gone => gone) fun _ _ => rfl

/-- A task that has not ended ends, in this cycle, with the code of its END. -/
theorem State.went_endEff {s v : State} {t : LTile} {c : CtxNo} {k : TaskCtx} (h : s.went v t c k fun k' => k'.ended = none) (hnow : v.now = s.now)
    (i : Image) (k₀ : TaskCtx) (w : W64) : s.went (endEff t c i k₀ w v) t c k fun k' => k'.ended = some 0 ∧ k'.endedAt = s.now := by
  have ends {u : State} (hu : s.went u t c k fun k' => k'.ended = none) (hn : u.now = s.now) :
      s.went (u.endTask t c 0) t c k fun k' => k'.ended = some 0 ∧ k'.endedAt = s.now :=
    hu.modCtx (fun k' gone => by split <;> exact gone) fun k' hk => by simp [hk, hn]
  unfold endEff
  split
  · exact ends (h.modTile _ fun _ => rfl) hnow
  · exact ends h hnow

end Sys2Proof.Machine
open Sys2Proof Sys2Proof.Machine

/-- Settles O5: the task goes on, and each operation's effect stands where it takes hold. -/
theorem controlOpsIssue : Obligations.ControlOpsIssue := by
  unfold Obligations.ControlOpsIssue
  intro s t c k i w h
  have gone (le : W64) : s.went (s.advance t c k le) t c k fun _ => True := (s.went_advance t c k le).mono fun _ _ => trivial
  refine ⟨fun hop => ?_, fun hop => ?_, fun hop hf => ?_, fun hop hf => ?_, fun hop => ?_,
    fun hop harg => fence_ends h hop harg rfl, fun hop harg => fence_ends h hop harg rfl, fun hop harg => fence_ends h hop harg rfl, fun hop => ?_⟩
  · refine .of_issues h rfl (by simp [opIs, hop]) fun le => ⟨(gone le).modTile _ fun _ => rfl, ?_⟩
    exact (s.advance t c k le).mem_later_inNext t _
  · refine .of_issues h rfl (by simp [opIs, hop]) fun le => ⟨(gone le).modTile _ fun _ => rfl, ?_⟩
    exact (s.advance t c k le).mem_later_inNext t _
  · refine .of_issues (eff := postEff t c) h rfl (by simp [hop, hf]) fun le => ⟨(gone le).of_tiles rfl, ?_⟩
    exact (s.advance t c k le).exists_mem_flit _ _
  · refine .of_issues h rfl (by simp [hop, hf]) fun le => ⟨(gone le).of_tiles rfl, (s.advance t c k le).exists_mem_flit _ _, ?_⟩
    exact State.frtBusy_frtCount _ t c _
  · refine .of_issues (eff := kernelEnd t c) h rfl (by simp [opIs, hop]) fun le => ⟨State.went_kernelEnd (s.went_advance t c k le) i k w, fun q hq => ?_⟩
    exact rget_arrHash_kernelEnd t c i k w _ hq
  · refine .of_issues (eff := endEff t c) h rfl (by simp [opIs, hop]) fun le => ?_
    exact State.went_endEff ((s.went_advance t c k le).mono fun _ hk => hk.trans h.ended) rfl i k w
end

section
/-!
Sends and memory transfers: the units of a send, the transfers handed to the mesh, and a MEMX with its spans (R194, R207, R221, R243-R247).
-/
set_option Elab.async false
namespace Sys2Proof.Machine

/-! ## Sends (R194, R207, R221) -/

/-- The advance of a task leaves its tile's unit counters. -/
@[simp] theorem State.units_advance (s : State) (t : LTile) (c : CtxNo) (k : TaskCtx) (le : W64) :
    ((s.advance t c k le).tiles.get t).units = (s.tiles.get t).units := by
  simp [State.advance, State.setCtx]

/-- A send has taken its units from the sender's counter (R221). -/
def State.unitsTaken (s : State) (t : LTile) (c : CtxNo) (d : Bytes) : State :=
  let key := unitKey c (sdDest d) (sdZone d)
  s.modTile t fun x => { x with units := tset 0 x.units key ((tget 0 (s.tiles.get t).units key + sdUnits d) % 2 ^ 32) }

theorem State.went.unitsTaken {s v : State} {t : LTile} {c : CtxNo} {k : TaskCtx} {p : TaskCtx → Prop} (h : s.went v t c k p) (d : Bytes) :
    s.went (v.unitsTaken t c d) t c k p := h.modTile _ fun _ => rfl

/-- A radio send of a window that has not failed waits in the radio queue behind what stands there (R194). -/
theorem sendRadioEff_of_desc {t : LTile} {c : CtxNo} {i : Image} {k : TaskCtx} {w : W64} {d : Bytes} (hd : i.sends[seqArg w % 65536]? = some d)
    (hf : k.failed = false) (v : State) :
    sendRadioEff t c i k w v = { v.unitsTaken t c d with mesh := { v.mesh with radioQ := enq v.mesh.radioQ {
      flow := .declared (fin 64 k.owner) (sdFlow d), tile := t, ctx := c, owner := k.owner, dest := sdDest d, zone := sdZone d,
      unit := BitVec.ofNat 32 (tget 0 (v.tiles.get t).units (unitKey c (sdDest d) (sdZone d))), addr := k.base + sdAddr d, left := sdUnits d,
      earliest := v.now + 1, memx := none } } } := by
  simp only [sendRadioEff, hd, sendUnits, hf]
  rfl

/-- The transfer of a tenant send's units from 16 j on (R207). -/
def sendPart (t : LTile) (c : CtxNo) (k : TaskCtx) (d : Bytes) (unit : BitVec 32) (v : State) (j : Nat) : Xfer :=
  { id := 0, tile := t, ctx := c, owner := k.owner, dest := sdDest d, zone := sdZone d, unit := unit + BitVec.ofNat 32 (16 * j),
    addr := k.base + sdAddr d + 4096 * j, left := Nat.min 16 (sdUnits d - 16 * j), issued := v.now }

theorem sendTenantEff_of_desc {t : LTile} {c : CtxNo} {i : Image} {k : TaskCtx} {w : W64} {d : Bytes} (hd : i.sends[seqArg w % 65536]? = some d) (v : State) :
    sendTenantEff t c i k w v = (List.range (ceilDiv (sdUnits d) 16)).foldl
      (fun u j => u.xfer (sendPart t c k d (BitVec.ofNat 32 (tget 0 (v.tiles.get t).units (unitKey c (sdDest d) (sdZone d)))) u j)) (v.unitsTaken t c d) := by
  simp only [sendTenantEff, hd]
  rfl

section
variable {α : Type} (g : State → α → Xfer)

/-- Handing transfers to the mesh leaves everything else. -/
theorem State.foldl_xfer_alters (l : List α) (s : State) : s.Alters [.mesh] (some []) none (l.foldl (fun v a => v.xfer (g v a)) s) :=
  .fold (fun v _ => v.xfer_alters _ none) (.refl s) l

theorem State.length_foldl_xfer (l : List α) (s : State) : (l.foldl (fun v a => v.xfer (g v a)) s).mesh.xfers.length = s.mesh.xfers.length + l.length := by
  induction l generalizing s with
  | nil => rfl
  | cons a l ih =>
    rw [List.foldl_cons, ih, List.length_cons]
    simp only [State.xfer, enq, List.length_append, List.length_singleton]
    omega

/-- A transfer stays in the mesh when others are handed to it. -/
theorem State.mem_foldl_xfer_of_mem {x : Xfer} (l : List α) {s : State} (h : x ∈ s.mesh.xfers) : x ∈ (l.foldl (fun v a => v.xfer (g v a)) s).mesh.xfers := by
  induction l generalizing s with
  | nil => exact h
  | cons a l ih => exact ih (List.mem_append_left _ h)

/-- Each of the transfers handed to the mesh is in it, with the number and the times that it got. -/
theorem State.exists_mem_foldl_xfer {a : α} {l : List α} (h : a ∈ l) (s : State) :
    ∃ v n, { g v a with id := n, base := (g v a).issued, next := (g v a).issued + 1 } ∈ (l.foldl (fun v a => v.xfer (g v a)) s).mesh.xfers := by
  induction l generalizing s with
  | nil => exact absurd h List.not_mem_nil
  | cons b l ih =>
    rcases List.mem_cons.mp h with rfl | h
    · exact ⟨s, s.mesh.nextId, State.mem_foldl_xfer_of_mem g l (List.mem_append_right _ (List.mem_singleton_self _))⟩
    · exact ih h _

end

/-! ## MEMX (R243-R247) -/

/-- A tenant MEMX stands among the transfers to memory while its lines are asked for or sent. -/
theorem memxTenant_memx (t : LTile) (c : CtxNo) (k : TaskCtx) (d : Bytes) (a p : Nat) (v : State) :
    (memxTenant t c k d a p v).mem.memx = enq v.mem.memx {
      id := v.mesh.nextId, tile := t, ctx := c, owner := k.owner, radio := false, op := fin 4 (mxOp d),
      addr := a, pad := p, lines := mxLines d, issued := v.now } := by
  unfold memxTenant
  dsimp only
  split
  · rfl
  · rw [(State.foldl_xfer_alters _ _ _).comp .mem (by simp)]

/-- A MEMX whose spans lie in their windows, and whose radio legs have their phases, stands among the transfers to memory (R245, R246). -/
theorem memxEff_memx {t : LTile} {c : CtxNo} {i : Image} {k : TaskCtx} {w : W64} {d : Bytes} {a p : Nat} {v : State}
    (hd : i.memxs[seqArg w % 65536]? = some d) (ha : memxAddr k d = some a) (hp : k.span (mxPad d) (64 * mxLines d) = some p)
    (hplan : k.radio = true → (v.planMemx k (seqArg w % 65536) d).isSome = true) :
    ∃ m ∈ (memxEff t c i k w v).mem.memx, m.tile = t ∧ m.ctx = c ∧ m.addr = a ∧ m.pad = p ∧ m.lines = mxLines d
      ∧ m.op = fin 4 (mxOp d) ∧ m.radio = k.radio ∧ m.done = 0 := by
  simp only [memxEff, hd, ha, hp]
  split
  · next hr =>
    obtain ⟨⟨g, last⟩, hg⟩ := Option.isSome_iff_exists.mp (hplan hr)
    simp only [hg]
    exact ⟨_, List.mem_append_right _ (List.mem_singleton_self _), rfl, rfl, rfl, rfl, rfl, rfl, hr.symm, rfl⟩
  · next hr =>
    rw [memxTenant_memx]
    exact ⟨_, List.mem_append_right _ (List.mem_singleton_self _), rfl, rfl, rfl, rfl, rfl, rfl, (Bool.eq_false_iff.mpr hr).symm, rfl⟩

end Sys2Proof.Machine
open Sys2Proof Sys2Proof.Machine

/-- Settles O6: a send's units wait in the radio queue or in transfers of sixteen, and a MEMX stands with its spans; the task goes on. -/
theorem transfersIssue : Obligations.TransfersIssue := by
  unfold Obligations.TransfersIssue
  intro s t c k i w h
  have gone (le : W64) : s.went (s.advance t c k le) t c k fun _ => True := (s.went_advance t c k le).mono fun _ _ => trivial
  refine ⟨fun d a hd ha => ?_, fun d a p hd ha hp hplan => ?_⟩
  · obtain rfl := TaskCtx.eq_of_span ha
    refine ⟨fun hm hf => ?_, fun hm => ?_⟩
    · refine .of_issues (eff := sendRadioEff t c) h rfl hm fun le => ?_
      rw [sendRadioEff_of_desc hd hf]
      refine ⟨((gone le).unitsTaken d).of_tiles rfl, _, rfl, rfl, rfl, rfl, ?_, rfl⟩
      rw [State.units_advance]
    · refine .of_issues (eff := sendTenantEff t c) h rfl hm fun le => ?_
      rw [sendTenantEff_of_desc hd]
      refine ⟨((gone le).unitsTaken d).of_tiles ((State.foldl_xfer_alters _ _ _).comp .tiles (by simp)), ?_, fun j hj => ?_⟩
      · rw [State.length_foldl_xfer, List.length_range]
        rfl
      · obtain ⟨v, n, hx⟩ := State.exists_mem_foldl_xfer _ (List.mem_range.mpr hj) _
        exact ⟨_, hx, rfl, rfl, rfl, rfl⟩
  · intro here
    have issued (le : W64) : here (memxEff t c i k w (s.advance t c k le)) :=
      ⟨(gone le).of_tiles ((memxEff_alters t c i k w _ none).comp .tiles (by simp)), memxEff_memx hd ha hp hplan⟩
    exact ⟨fun hm => .of_issues h rfl hm issued, fun hm => .of_issues h rfl hm issued, fun hm => .of_issues h rfl hm issued,
      fun hm => .of_issues h rfl hm issued⟩
end

section
/-!
Windows and the ends of tasks: what a refusal, a drop and a release leave of a context (R200, R201, R212, R217, R475).
-/
set_option Elab.async false
namespace Sys2Proof.Machine

/-- A command that completes in a state, given as another expression of it. -/
theorem Ends.of_eq {x : Instr} {s u v : State} {p : State → Prop} (hx : exec x s = .next v) (e : v = u) (hp : p u) : Ends x s p :=
  ⟨u, e ▸ hx, hp⟩

/-! ## Ends of tasks (R201, R209, R475) -/

/-- A tenant task that is dropped ends with the drop's code, unless an earlier drop has ended it (R475, R476). -/
theorem State.ctx_dropTask {s : State} {t : LTile} {c : CtxNo} {k : TaskCtx} (h : s.ctx t c = some k) (hr : k.radio = false) (code : Nat) :
    (s.dropTask t c code).ctx t c =
      some { k with ended := if k.dropped then k.ended else some code, endedAt := s.now, fence := none, dropped := true } := by
  simp only [State.dropTask, h, hr, Bool.false_eq_true, if_false]
  rw [State.ctx_modCtx, State.ctx_modTile s t t c (·.cut c) fun _ => rfl, h, ← hr]
  rfl

/-- The first drop of a tenant task gives it its code. -/
theorem State.exists_ctx_dropTask {s : State} {t : LTile} {c : CtxNo} {k : TaskCtx} (h : s.ctx t c = some k) (hr : k.radio = false) (hd : k.dropped = false)
    (code : Nat) : ∃ k', (s.dropTask t c code).ctx t c = some k' ∧ k'.ended = some code ∧ k'.dropped = true :=
  ⟨_, State.ctx_dropTask h hr code, by simp [hd], rfl⟩

/-- A task that ends with a code, where it had not ended. -/
theorem State.ctx_endTask {s : State} {t : LTile} {c : CtxNo} {k : TaskCtx} (h : s.ctx t c = some k) (he : k.ended = none) (code : Nat) :
    (s.endTask t c code).ctx t c = some { k with ended := some code, endedAt := s.now, fence := none } := by
  rw [State.endTask, State.ctx_modCtx, h, Option.map_some]
  simp [he]

/-- The state that a refusal records, counts and logs before it ends the task: every context, and the cycle, as they were. -/
theorem State.refuse_eq_endTask {s : State} {t : LTile} {c : CtxNo} {k : TaskCtx} (h : s.ctx t c = some k) :
    ∃ v : State, s.refuse t c = v.endTask t c 12 ∧ (∀ d, v.ctx t d = s.ctx t d) ∧ v.now = s.now := by
  have noted : (((s.schFault t c 2).finc (treg .schStat t) 15 0).earlyEnd t k).tiles = s.tiles
      ∧ (((s.schFault t c 2).finc (treg .schStat t) 15 0).earlyEnd t k).time = s.time :=
    ⟨((State.logRec_tiles _ _).trans (State.finc_tiles _ _ _ _ _)).trans ((s.schFault_alters t c 2).comp .tiles (by simp)),
      ((State.logRec_time _ _).trans (State.finc_time _ _ _ _ _)).trans ((s.schFault_alters t c 2).comp .time (by simp))⟩
  simp only [State.refuse, h]
  generalize State.earlyEnd _ t k = l at noted ⊢
  obtain ⟨sameTiles, sameTime⟩ := noted
  refine ⟨_, rfl, fun d => ?_, ?_⟩
  · have counted (f : Tile → Tile) (hf : ∀ x, (f x).ctx = x.ctx) : (l.modTile t f).ctx t d = s.ctx t d :=
      (l.ctx_modTile t t d f hf).trans (State.ctx_congr sameTiles t d)
    refine State.ctx_ite ((State.ctx_congr (State.logRec_tiles _ _) t d).trans (counted _ ?_)) (counted _ ?_) <;> exact fun _ => rfl
  · rw [State.now, apply_ite State.time, State.logRec_time, ite_self]
    exact congrArg TimeState.now sameTime

/-- A refused task ends in this cycle with CODE 12 (R201). -/
theorem State.ctx_refuse {s : State} {t : LTile} {c : CtxNo} {k : TaskCtx} (h : s.ctx t c = some k) (he : k.ended = none) :
    (s.refuse t c).ctx t c = some { k with ended := some 12, endedAt := s.now, fence := none } := by
  obtain ⟨v, e, hv, hn⟩ := State.refuse_eq_endTask h
  rw [e, State.ctx_endTask ((hv c).trans h) he, hn]

/-- A refusal leaves the tile's other contexts. -/
theorem State.ctx_refuse_of_ne (s : State) (t : LTile) {c d : CtxNo} (h : d ≠ c) : (s.refuse t c).ctx t d = s.ctx t d := by
  cases hk : s.ctx t c with
  | none => rw [State.refuse, hk]
  | some k =>
    obtain ⟨v, e, hv, -⟩ := State.refuse_eq_endTask hk
    rw [e, State.endTask, State.ctx_modCtx_of_ne v t h, hv]

/-! ## The close of a window (R201) -/

/-- What the close of a tile's window does to one context. -/
def closeCtx (t : LTile) (s : State) (c : CtxNo) : State :=
  match s.ctx t c with
  | none => s
  | some k =>
    match s.nextOp k with
    | some w =>
      if k.radio ∧ k.ended.isNone ∧ s.now + 1 = k.closes ∧ (k.closes ≤ k.dueAt w ∨ s.stopped t k) then s.refuse t c else s
    | none => s

theorem windowClose_eq (t : LTile) (s : State) : windowClose t s = (List.finRange 8).foldl (closeCtx t) s := rfl

/-- At the close a context is refused its next operation, or left. -/
theorem closeCtx_cases (t : LTile) (s : State) (c : CtxNo) : closeCtx t s c = s ∨ closeCtx t s c = s.refuse t c := by
  unfold closeCtx
  split
  · exact .inl rfl
  · split
    · split
      · exact .inr rfl
      · exact .inl rfl
    · exact .inl rfl

/-- A radio task whose next operation would not come before the window's end is refused it. -/
theorem closeCtx_eq_refuse {s : State} {t : LTile} {c : CtxNo} {k : TaskCtx} {w : W64} (hk : s.ctx t c = some k) (hw : s.nextOp k = some w)
    (hr : k.radio = true) (he : k.ended = none) (hc : s.now + 1 = k.closes) (hdue : k.closes ≤ k.dueAt w) : closeCtx t s c = s.refuse t c := by
  simp only [closeCtx, hk, hw]
  exact if_pos ⟨hr, by rw [he]; rfl, hc, .inl hdue⟩

theorem closeCtx_alters (t : LTile) (s : State) (c : CtxNo) : s.Alters [.regs, .tiles, .log] (some [.schFault, .schStat]) (some t) (closeCtx t s c) := by
  rcases closeCtx_cases t s c with e | e <;> rw [e]
  · exact .refl s
  · exact s.refuse_alters t c

/-- The close of a window leaves the contexts that it does not come to. -/
theorem ctx_foldl_closeCtx {t : LTile} {d : CtxNo} : ∀ (l : List CtxNo) (s : State), d ∉ l → (l.foldl (closeCtx t) s).ctx t d = s.ctx t d
  | [], _, _ => rfl
  | c :: l, s, h => by
    rw [List.foldl_cons, ctx_foldl_closeCtx l _ fun hd => h (List.mem_cons_of_mem c hd)]
    rcases closeCtx_cases t s c with e | e <;> rw [e]
    exact s.ctx_refuse_of_ne t fun e => h (e ▸ List.mem_cons_self)

/-- The next operation of a task is read from the images (R208). -/
theorem State.nextOp_congr {s u : State} (hc : u.ctl = s.ctl) (ht : u.ten = s.ten) (k : TaskCtx) : u.nextOp k = s.nextOp k := by
  have image : u.imageOf k.img = s.imageOf k.img := by
    unfold State.imageOf
    rw [hc, ht]
  rw [State.nextOp, image, State.nextOp]

/-- The earliest cycle of a task's next operation is not before its DELTA (R208). -/
theorem TaskCtx.last_add_delta_le_dueAt (k : TaskCtx) (w : W64) : k.last + BitVec.ofNat 64 (seqDelta w) ≤ k.dueAt w := by
  unfold TaskCtx.dueAt later
  split
  · next h => exact BitVec.le_of_lt h
  · exact BitVec.le_refl _

/-- At the close of its window a radio task is refused the operation that comes too late, whatever the tile's other contexts meet. -/
theorem windowClose_ctx {s : State} {t : LTile} {c : CtxNo} {k : TaskCtx} {w : W64} (hk : s.ctx t c = some k) (hw : s.nextOp k = some w)
    (hr : k.radio = true) (he : k.ended = none) (hc : s.now + 1 = k.closes) (hdue : k.closes ≤ k.dueAt w) :
    (windowClose t s).ctx t c = some { k with ended := some 12, endedAt := s.now, fence := none } := by
  obtain ⟨before, after, split⟩ := List.append_of_mem (List.mem_finRange c)
  have distinct : (before ++ c :: after).Nodup := split ▸ List.nodup_finRange 8
  have notBefore : c ∉ before := fun h => (List.nodup_append.mp distinct).2.2 c h c List.mem_cons_self rfl
  have notAfter : c ∉ after := (List.nodup_cons.mp (List.nodup_append.mp distinct).2.1).1
  have alters : s.Alters [.regs, .tiles, .log] (some [.schFault, .schStat]) (some t) (before.foldl (closeCtx t) s) :=
    .fold (fun v d => closeCtx_alters t v d) (.refl s) before
  have sameNow : (before.foldl (closeCtx t) s).now = s.now := congrArg TimeState.now (alters.comp .time (by simp))
  have sameCtx := (ctx_foldl_closeCtx before s notBefore).trans hk
  have sameOp := (State.nextOp_congr (alters.comp .ctl (by simp)) (alters.comp .ten (by simp)) k).trans hw
  rw [windowClose_eq, split, List.foldl_append, List.foldl_cons, ctx_foldl_closeCtx after _ notAfter,
    closeCtx_eq_refuse sameCtx sameOp hr he (sameNow ▸ hc) hdue, State.ctx_refuse sameCtx he, sameNow]

/-! ## The opening of a window and the release of a context (R140, R200, R212, R217) -/

@[simp] theorem State.ctx_modEng (s : State) (t : LTile) (f : Engine → Engine) (c : CtxNo) : (s.modEng t f).ctx t c = s.ctx t c :=
  s.ctx_modTile t t c _ fun _ => rfl

theorem State.ctx_engOwn (s : State) (t : LTile) (owner : Nat) (c : CtxNo) : (s.engOwn t owner).ctx t c = s.ctx t c :=
  State.ctx_ite rfl (s.ctx_modEng t _ c)

theorem Engine.forget_owner (e : Engine) (c : CtxNo) : (e.forget c).owner = e.owner := rfl

/-- The engine is its owner's, whether it was so or has been cleared for it (R140). -/
theorem State.engOwn_owner (s : State) (t : LTile) (owner : Nat) : ((s.engOwn t owner).eng t).owner = some owner := by
  unfold State.engOwn
  split
  · assumption
  · rw [State.eng_modEng]

theorem releaseCtx_now (t : LTile) (c : CtxNo) (s : State) : (releaseCtx t c s).now = s.now :=
  congrArg TimeState.now ((releaseCtx_alters t c s).comp .time (by simp))

/-- A released context is free, and its task's completion record is on its way (R212). -/
theorem releaseCtx_done {s : State} {t : LTile} {c : CtxNo} {k : TaskCtx} (h : s.ctx t c = some k) :
    (releaseCtx t c s).ctx t c = none ∧ ∃ f ∈ (releaseCtx t c s).mesh.flits, f.due = s.now + 65 ∧ f.payload =
      .done t k.owner k.entry k.recIdx (k.sat.toNat + 2 * k.nan.toNat + 4 * k.poison.toNat) k.kernel (k.ended.getD 0) k.started k.endedAt := by
  simp only [releaseCtx, h]
  refine ⟨?_, State.exists_mem_flit _ _ _⟩
  refine (State.ctx_congr (s := (s.setCtx t c none).modTile t _) rfl t c).trans ?_
  rw [State.ctx_modTile]
  · rw [State.ctx_setCtx, if_pos ⟨rfl, rfl⟩]
  · exact fun _ => rfl

end Sys2Proof.Machine
open Sys2Proof Sys2Proof.Machine

/-- Settles O7: the context of each command holds what the rule of its function leaves there. -/
theorem contextsComplete : Obligations.ContextsComplete := by
  unfold Obligations.ContextsComplete
  refine ⟨?_, ?_, ?_, ?_, ?_, ?_, ?_⟩
  · intro s t w close i r k hopen himg hrec hpark hstart
    have opened : windowOpen t s = (((releaseCtx t (fin 8 (recCtx r)) s).setCtx t (fin 8 (recCtx r)) (some { k with opens := s.now, closes := close })).engOwn t
        w.slice.val).modEng t (·.forget (fin 8 (recCtx r))) := by
      simp only [windowOpen, hopen, himg, hrec, hpark, hstart, releaseCtx_now, Bool.false_eq_true, if_false]
    refine .of_eq rfl opened ⟨?_, ?_⟩
    · rw [State.ctx_modEng, State.ctx_engOwn, State.ctx_setCtx, if_pos ⟨rfl, rfl⟩]
    · rw [State.eng_modEng, Engine.forget_owner, State.engOwn_owner]
  · intro s t c k w hk hw hr he hc hdue
    exact ⟨_, rfl, _, windowClose_ctx hk hw hr he hc (BitVec.le_trans hdue (k.last_add_delta_le_dueAt w)), rfl, rfl⟩
  · intro s t c k hk hr he hd hlate
    have noted : ((s.schFault t c 4).finc (treg .schStat t) 63 48).ctx t c = some k :=
      (State.ctx_congr ((State.finc_tiles _ _ _ _ _).trans ((s.schFault_alters t c 4).comp .tiles (by simp))) t c).trans hk
    have timedOut : taskTimeout t c s = ((s.schFault t c 4).finc (treg .schStat t) 63 48).dropTask t c 5 := by
      simp [taskTimeout, hk, hr, he, Nat.not_lt.mpr hlate]
    exact .of_eq rfl timedOut (State.exists_ctx_dropTask noted hr hd 5)
  · intro s t c k hk hd hdue
    have tenant : k.radio = false := by
      simp only [State.reclaimDue, hk, Bool.and_eq_true, Bool.not_eq_true'] at hdue
      exact hdue.1
    exact ⟨_, guarded_true hdue (·.dropTask t c 11) s, State.exists_ctx_dropTask hk tenant hd 11⟩
  · intro s t c k n hk he hdue
    have released : taskRelease t c s = releaseCtx t c s := by simp [taskRelease, hk, he]
    have done := releaseCtx_done hk
    rw [he] at done
    exact .of_eq (guarded_true hdue (taskRelease t c) s) released done
  · intro s t a may
    refine .of_eq rfl ((parkReg_cases _ _ t a s).trans (if_pos may)) ?_
    exact s.fget_fset _ 1 (Nat.le_refl _) (by decide)
  · intro s t a may
    refine .of_eq rfl ((parkReg_cases _ _ t a s).trans (if_pos may)) ?_
    exact s.fget_fset _ 1 (Nat.le_refl _) (by decide)
end

section
/-!
Die-to-die links: what a replay sends again, and when, and what a link error leaves of its link (R196, R197, R474).
-/
set_option Elab.async false
namespace Sys2Proof.Machine

/-! ## Folds that rewrite a list -/

/-- A fold that adds an element for each one of its list has the one that `a` stands for in every state of the fold. -/
theorem mem_foldl_of_push {α β σ : Type} {F : List β × σ → α → List β × σ} {I : σ → Prop} (push : ∀ x a, ∃ b, (F x a).1 = enq x.1 b)
    (inv : ∀ x a, I x.2 → I (F x a).2) {a : α} {b : β} (out : ∀ x, I x.2 → b ∈ (F x a).1) :
    ∀ (l : List α) (x : List β × σ), I x.2 → a ∈ l ∨ b ∈ x.1 → b ∈ (l.foldl F x).1
  | [], _, _, h => h.resolve_left List.not_mem_nil
  | c :: l, x, hx, h => by
    refine mem_foldl_of_push push inv out l _ (inv x c hx) ?_
    rcases h with h | h
    · rcases List.mem_cons.mp h with rfl | h
      · exact .inr (out x hx)
      · exact .inl h
    · obtain ⟨y, hy⟩ := push x c
      exact .inr (hy ▸ List.mem_append_left _ h)

theorem mem_enq {α : Type} (l : List α) (a : α) : a ∈ enq l a := List.mem_append_right _ (List.mem_singleton_self a)

/-- The least of some cycles is one of them, and none is before it. -/
theorem foldl_least {v : W64} (vs : List W64) : vs.foldl (fun a b => if b < a then b else a) v ∈ v :: vs
    ∧ ∀ x ∈ v :: vs, vs.foldl (fun a b => if b < a then b else a) v ≤ x := by
  induction vs generalizing v with
  | nil => exact ⟨List.mem_cons_self, fun x hx => by simp at hx; simp [hx]⟩
  | cons w vs ih =>
    obtain ⟨there, least⟩ := ih (v := if w < v then w else v)
    rw [List.foldl_cons]
    have first : (if w < v then w else v) ∈ v :: w :: vs ∧ (if w < v then w else v) ≤ v ∧ (if w < v then w else v) ≤ w := by
      split
      · next h => exact ⟨by simp, BitVec.le_of_lt h, BitVec.le_refl w⟩
      · next h => exact ⟨by simp, BitVec.le_refl v, BitVec.not_lt.mp h⟩
    refine ⟨?_, fun x hx => ?_⟩
    · rcases List.mem_cons.mp there with e | e
      · rw [e]
        exact first.1
      · exact List.mem_cons_of_mem _ (List.mem_cons_of_mem _ e)
    · have start := least _ List.mem_cons_self
      rcases List.mem_cons.mp hx with rfl | hx
      · exact BitVec.le_trans start first.2.1
      · rcases List.mem_cons.mp hx with rfl | hx
        · exact BitVec.le_trans start first.2.2
        · exact least x (List.mem_cons_of_mem _ hx)

/-! ## A retransmission (R196) -/

@[simp] theorem Resend.send_upto (x : Resend) (h : W64) : (x.send h).2.upto = x.upto := by
  unfold Resend.send
  split
  · rfl
  · split <;> rfl

/-- A frame handed over before the retransmission begins is sent 64 cycles later. -/
theorem Resend.send_of_lt {x : Resend} {h : W64} (hu : h < x.upto) : (x.send h).1 = h + 64 := by
  rw [Resend.send, if_pos hu]

/-- What a retransmission from the frame of cycle `h` on does with a frame on its way to the mesh. -/
def resendCrossing (r : Fin 4) (toMesh : Bool) (h : W64) (x : List Crossing × Resend) (c : Crossing) : List Crossing × Resend :=
  if toMesh ∧ c.rim = r ∧ h ≤ c.sent then (enq x.1 { c with sent := (x.2.send c.sent).1 }, (x.2.send c.sent).2) else (enq x.1 c, x.2)

/-- What it does with a flit. -/
def resendFlit (r : Fin 4) (toMesh : Bool) (h : W64) (x : List Flit × Resend × State) (f : Flit) : List Flit × Resend × State :=
  match f.sentOn r toMesh with
  | some v =>
    if v < h then (enq x.1 f, x.2)
    else
      let z := if (x.2.1.send v).1 = v then (f, x.2.2) else x.2.2.resent r f (x.2.1.send v).1
      (enq x.1 z.1, (x.2.1.send v).2, z.2)
  | none => (enq x.1 f, x.2)

/-- The frames on their way to the mesh after a retransmission, and the link's state. -/
def State.againCrossings (s : State) (r : Fin 4) (toMesh : Bool) (h : W64) : List Crossing × Resend :=
  s.mesh.crossings.foldl (resendCrossing r toMesh h) ([], { upto := h + 64, tail := 0 })

/-- The flits after it, the link's state, and the part's, in which links of the mesh are taken. -/
def State.againFlits (s : State) (r : Fin 4) (toMesh : Bool) (h : W64) : List Flit × Resend × State :=
  s.mesh.flits.foldl (resendFlit r toMesh h) ([], (s.againCrossings r toMesh h).2, s)

theorem State.sendAgain_eq (s : State) (r : Fin 4) (toMesh : Bool) (h : W64) :
    s.sendAgain r toMesh h =
      let fs := s.againFlits r toMesh h
      let u : State := { fs.2.2 with mesh := { fs.2.2.mesh with crossings := (s.againCrossings r toMesh h).1, flits := fs.1 } }
      let l := u.link (linkKey r (rimStop r))
      u.setLink (linkKey r (rimStop r)) (if toMesh then { l with into := fs.2.1 } else { l with from_ := fs.2.1 }) := rfl

theorem resendCrossing_push (r : Fin 4) (toMesh : Bool) (h : W64) (x : List Crossing × Resend) (c : Crossing) :
    ∃ b, (resendCrossing r toMesh h x c).1 = enq x.1 b := by
  unfold resendCrossing
  split <;> exact ⟨_, rfl⟩

theorem resendCrossing_upto (r : Fin 4) (toMesh : Bool) (h : W64) (x : List Crossing × Resend) (c : Crossing) :
    (resendCrossing r toMesh h x c).2.upto = x.2.upto := by
  unfold resendCrossing
  split
  · exact Resend.send_upto _ _
  · rfl

theorem resendFlit_push (r : Fin 4) (toMesh : Bool) (h : W64) (x : List Flit × Resend × State) (f : Flit) :
    ∃ b, (resendFlit r toMesh h x f).1 = enq x.1 b := by
  unfold resendFlit
  split
  · split <;> exact ⟨_, rfl⟩
  · exact ⟨_, rfl⟩

theorem resendFlit_upto (r : Fin 4) (toMesh : Bool) (h : W64) (x : List Flit × Resend × State) (f : Flit) :
    (resendFlit r toMesh h x f).2.1.upto = x.2.1.upto := by
  unfold resendFlit
  split
  · split
    · rfl
    · exact Resend.send_upto _ _
  · rfl

/-- A frame that a direction does not carry, or carries before `h`, stands as it was after the retransmission. -/
theorem State.mem_againCrossings_of_kept {s : State} {r : Fin 4} {toMesh : Bool} {h : W64} {c : Crossing} (hc : c ∈ s.mesh.crossings)
    (kept : ¬ (toMesh = true ∧ c.rim = r ∧ h ≤ c.sent)) : c ∈ (s.againCrossings r toMesh h).1 :=
  mem_foldl_of_push (I := fun _ => True) (resendCrossing_push r toMesh h) (fun _ _ _ => trivial)
    (fun x _ => by rw [resendCrossing, if_neg kept]; exact mem_enq _ _) _ _ trivial (.inl hc)

/-- A frame sent on the link from cycle `h` on, and before the retransmission begins, is sent 64 cycles later. -/
theorem State.mem_againCrossings_of_sent {s : State} {r : Fin 4} {h : W64} {c : Crossing} (hc : c ∈ s.mesh.crossings) (hr : c.rim = r)
    (first : h ≤ c.sent) (begins : c.sent < h + 64) : { c with sent := c.sent + 64 } ∈ (s.againCrossings r true h).1 :=
  mem_foldl_of_push (I := fun x : Resend => x.upto = h + 64) (resendCrossing_push r true h) (fun x c hx => (resendCrossing_upto r true h x c).trans hx)
    (fun x hx => by rw [resendCrossing, if_pos ⟨rfl, hr, first⟩, Resend.send_of_lt (hx ▸ begins)]; exact mem_enq _ _) _ _ rfl (.inl hc)

theorem State.againCrossings_upto (s : State) (r : Fin 4) (toMesh : Bool) (h : W64) : (s.againCrossings r toMesh h).2.upto = h + 64 :=
  List.foldlRecOn (motive := fun x : List Crossing × Resend => x.2.upto = h + 64) s.mesh.crossings _ rfl
    fun x hx c _ => (resendCrossing_upto r toMesh h x c).trans hx

/-- A flit that the direction does not carry stands as it was. -/
theorem State.mem_againFlits_of_kept {s : State} {r : Fin 4} {toMesh : Bool} {h : W64} {f : Flit} (hf : f ∈ s.mesh.flits)
    (kept : f.sentOn r toMesh = none) : f ∈ (s.againFlits r toMesh h).1 :=
  mem_foldl_of_push (I := fun _ => True) (resendFlit_push r toMesh h) (fun _ _ _ => trivial)
    (fun x _ => by simp only [resendFlit, kept]; exact mem_enq _ _) _ _ trivial (.inl hf)

/-- A flit that carries lines of a read goes to the mesh, any other one from it (R246). -/
def Flit.carriesLines (f : Flit) : Bool := match f.payload with | .lines .. => true | _ => false

theorem Flit.sentOn_eq_some_iff {f : Flit} {r : Fin 4} {toMesh : Bool} {v : W64} :
    f.sentOn r toMesh = some v ↔ f.cross = some (r, v) ∧ f.carriesLines = toMesh := by
  cases hc : f.cross with
  | none => simp [Flit.sentOn, hc]
  | some x =>
    have sent : f.sentOn r toMesh = if x.1 = r ∧ f.carriesLines = toMesh then some x.2 else none := by
      rw [Flit.sentOn, hc]
      rfl
    rw [sent, Option.ite_none_right_eq_some, Option.some_inj, Option.some_inj, Prod.ext_iff]
    exact and_right_comm

/-- A flit that a link carries from the mesh is not carried to it. -/
theorem Flit.sentOn_true_of_sentOn_false {f : Flit} {r : Fin 4} {v : W64} (hf : f.sentOn r false = some v) : f.sentOn r true = none := by
  refine Option.eq_none_iff_forall_ne_some.mpr fun w hw => ?_
  exact Bool.false_ne_true ((Flit.sentOn_eq_some_iff.mp hf).2.symm.trans (Flit.sentOn_eq_some_iff.mp hw).2)

/-- A flit that leaves the mesh, sent in another cycle, reaches its rim die 24 cycles after it. -/
theorem State.resent_of_sentOn_false {f : Flit} {r : Fin 4} {v : W64} (hf : f.sentOn r false = some v) (s : State) (w : W64) :
    s.resent r f w = ({ f with due := w + 24, cross := some (r, w) }, s) := by
  have other := (Flit.sentOn_eq_some_iff.mp hf).2
  cases hp : f.payload with
  | lines => simp [Flit.carriesLines, hp] at other
  | _ => simp only [State.resent, hp]

/-- A flit sent from the mesh from cycle `h` on, and before the retransmission begins, is sent 64 cycles later. -/
theorem State.mem_againFlits_of_sent {s : State} {r : Fin 4} {h v : W64} {f : Flit} (hf : f ∈ s.mesh.flits) (hv : f.sentOn r false = some v)
    (first : h ≤ v) (begins : v < h + 64) : { f with due := v + 88, cross := some (r, v + 64) } ∈ (s.againFlits r false h).1 := by
  have later : v + 64 ≠ v := by simp
  have reach : v + 64 + 24 = v + 88 := by rw [BitVec.add_assoc]; rfl
  refine mem_foldl_of_push (I := fun x : Resend × State => x.1.upto = h + 64) (resendFlit_push r false h)
    (fun x f hx => (resendFlit_upto r false h x f).trans hx) (fun x hx => ?_) _ _ (s.againCrossings_upto r false h) (.inl hf)
  simp only [resendFlit, hv, if_neg (BitVec.not_lt.mpr first), Resend.send_of_lt (hx ▸ begins), if_neg later, State.resent_of_sentOn_false hv, reach]
  exact mem_enq _ _

theorem State.sendAgain_crossings (s : State) (r : Fin 4) (toMesh : Bool) (h : W64) :
    (s.sendAgain r toMesh h).mesh.crossings = (s.againCrossings r toMesh h).1 := rfl

theorem State.sendAgain_flits (s : State) (r : Fin 4) (toMesh : Bool) (h : W64) : (s.sendAgain r toMesh h).mesh.flits = (s.againFlits r toMesh h).1 := rfl

/-- Sending flits again takes cycles of the mesh's links and ports, and changes neither the time nor the state of a die-to-die link. -/
theorem State.againFlits_state (s : State) (r : Fin 4) (toMesh : Bool) (h : W64) :
    (s.againFlits r toMesh h).2.2.time = s.time ∧ (s.againFlits r toMesh h).2.2.mesh.links = s.mesh.links := by
  have resent (u : State) (f : Flit) (v : W64) : (u.resent r f v).2.time = u.time ∧ (u.resent r f v).2.mesh.links = u.mesh.links := by
    unfold State.resent
    split <;> exact ⟨rfl, rfl⟩
  refine List.foldlRecOn (motive := fun x : List Flit × Resend × State => x.2.2.time = s.time ∧ x.2.2.mesh.links = s.mesh.links) s.mesh.flits _ ⟨rfl, rfl⟩
    fun x hx f _ => ?_
  unfold resendFlit
  split
  · split
    · exact hx
    · dsimp only
      split
      · exact hx
      · exact ⟨(resent _ _ _).1.trans hx.1, (resent _ _ _).2.trans hx.2⟩
  · exact hx

theorem State.sendAgain_now (s : State) (r : Fin 4) (toMesh : Bool) (h : W64) : (s.sendAgain r toMesh h).now = s.now :=
  congrArg TimeState.now (s.againFlits_state r toMesh h).1

theorem State.link_setLink (s : State) (k : Nat) (l : LinkState) : (s.setLink k l).link k = l := by
  rw [State.link, State.setLink_mesh, tget_tset, if_pos rfl]

/-- The count of a link's replays stays through the retransmission. -/
theorem State.sendAgain_replays (s : State) (r : Fin 4) (toMesh : Bool) (h : W64) :
    ((s.sendAgain r toMesh h).link (linkKey r (rimStop r))).replays = (s.link (linkKey r (rimStop r))).replays
      ∧ ((s.sendAgain r toMesh h).link (linkKey r (rimStop r))).replayAt = (s.link (linkKey r (rimStop r))).replayAt := by
  have same : State.link { (s.againFlits r toMesh h).2.2 with mesh := { (s.againFlits r toMesh h).2.2.mesh with
      crossings := (s.againCrossings r toMesh h).1, flits := (s.againFlits r toMesh h).1 } } (linkKey r (rimStop r)) = s.link (linkKey r (rimStop r)) := by
    rw [State.link, (s.againFlits_state r toMesh h).2, State.link]
  rw [State.sendAgain_eq]
  dsimp only
  rw [State.link_setLink, same]
  split <;> exact ⟨rfl, rfl⟩

/-! ## A replay of a direction's oldest frame (R196) -/

/-- A replay sends again from the oldest frame on the link, or finds none there. -/
theorem State.delayDir_cases (s : State) (r : Fin 4) (toMesh : Bool) :
    (s.delayDir r toMesh = s ∧ ∀ v ∈ s.sentFrames r toMesh, s.crossing v = false)
    ∨ ∃ h, s.crossing h = true ∧ (∀ v ∈ s.sentFrames r toMesh, s.crossing v = true → h ≤ v) ∧ s.delayDir r toMesh = s.sendAgain r toMesh h := by
  unfold State.delayDir
  split
  · next hl => exact .inl ⟨rfl, fun v hv => by simpa using List.filter_eq_nil_iff.mp hl v hv⟩
  · next v vs hl =>
    obtain ⟨there, least⟩ := foldl_least (v := v) vs
    rw [← hl] at there least
    exact .inr ⟨_, (List.mem_filter.mp there).2, fun w hw hc => least w (List.mem_filter.mpr ⟨hw, hc⟩), rfl⟩

/-- A frame that is on the link while the oldest one is was sent before the retransmission of that one begins. -/
theorem State.crossing_begins {s : State} {h v : W64} (hh : s.crossing h = true) (hv : s.crossing v = true) (room : s.now.toNat + 200 < 2 ^ 64) :
    v < h + 64 := by
  simp only [State.crossing, decide_eq_true_eq] at hh hv
  bv_omega

theorem State.delayDir_now (s : State) (r : Fin 4) (toMesh : Bool) : (s.delayDir r toMesh).now = s.now := by
  rcases s.delayDir_cases r toMesh with ⟨e, -⟩ | ⟨h, -, -, e⟩ <;> rw [e]
  exact s.sendAgain_now r toMesh h

theorem State.delayDir_replays (s : State) (r : Fin 4) (toMesh : Bool) :
    ((s.delayDir r toMesh).link (linkKey r (rimStop r))).replays = (s.link (linkKey r (rimStop r))).replays
      ∧ ((s.delayDir r toMesh).link (linkKey r (rimStop r))).replayAt = (s.link (linkKey r (rimStop r))).replayAt := by
  rcases s.delayDir_cases r toMesh with ⟨e, -⟩ | ⟨h, -, -, e⟩ <;> rw [e]
  · exact ⟨rfl, rfl⟩
  · exact s.sendAgain_replays r toMesh h

/-- A replay of the frames to the mesh leaves those from it. -/
theorem State.mem_flits_delayDir_true {s : State} {r : Fin 4} {f : Flit} (hf : f ∈ s.mesh.flits) (other : f.sentOn r true = none) :
    f ∈ (s.delayDir r true).mesh.flits := by
  rcases s.delayDir_cases r true with ⟨e, -⟩ | ⟨h, -, -, e⟩ <;> rw [e]
  · exact hf
  · exact State.mem_againFlits_of_kept hf other

/-- A replay of the flits from the mesh leaves the frames to it. -/
theorem State.mem_crossings_delayDir_false {s : State} (r : Fin 4) {c : Crossing} (hc : c ∈ s.mesh.crossings) :
    c ∈ (s.delayDir r false).mesh.crossings := by
  rcases s.delayDir_cases r false with ⟨e, -⟩ | ⟨h, -, -, e⟩ <;> rw [e]
  · exact hc
  · exact State.mem_againCrossings_of_kept hc fun h => Bool.false_ne_true h.1

/-- A flit on the link from the mesh reaches its rim die 64 cycles later for the replay. -/
theorem State.mem_flits_delayDir_false {s : State} {r : Fin 4} {f : Flit} {v : W64} (hf : f ∈ s.mesh.flits) (hv : f.sentOn r false = some v)
    (hc : s.crossing v = true) (room : s.now.toNat + 200 < 2 ^ 64) :
    { f with due := v + 88, cross := some (r, v + 64) } ∈ (s.delayDir r false).mesh.flits := by
  have sent : v ∈ s.sentFrames r false := List.mem_append_right _ (List.mem_filterMap.mpr ⟨f, hf, hv⟩)
  rcases s.delayDir_cases r false with ⟨-, none⟩ | ⟨h, hh, least, e⟩
  · exact absurd hc (Bool.eq_false_iff.mp (none v sent))
  · rw [e]
    exact State.mem_againFlits_of_sent hf hv (least v sent hc) (State.crossing_begins hh hc room)

/-- A frame on the link to the mesh is sent 64 cycles later for the replay. -/
theorem State.mem_crossings_delayDir_true {s : State} {r : Fin 4} {c : Crossing} (hm : c ∈ s.mesh.crossings) (hr : c.rim = r)
    (hc : s.crossing c.sent = true) (room : s.now.toNat + 200 < 2 ^ 64) : { c with sent := c.sent + 64 } ∈ (s.delayDir r true).mesh.crossings := by
  have sent : c.sent ∈ s.sentFrames r true :=
    List.mem_append_left _ (List.mem_map.mpr ⟨c, List.mem_filter.mpr ⟨hm, by simpa using hr⟩, rfl⟩)
  rcases s.delayDir_cases r true with ⟨-, none⟩ | ⟨h, hh, least, e⟩
  · exact absurd hc (Bool.eq_false_iff.mp (none _ sent))
  · rw [e]
    exact State.mem_againCrossings_of_sent hm hr (least _ sent hc) (State.crossing_begins hh hc room)

theorem State.delayLink_replays (s : State) (r : Fin 4) :
    ((s.delayLink r).link (linkKey r (rimStop r))).replays = (s.link (linkKey r (rimStop r))).replays
      ∧ ((s.delayLink r).link (linkKey r (rimStop r))).replayAt = (s.link (linkKey r (rimStop r))).replayAt := by
  obtain ⟨n₁, at₁⟩ := s.delayDir_replays r true
  obtain ⟨n₂, at₂⟩ := (s.delayDir r true).delayDir_replays r false
  exact ⟨n₂.trans n₁, at₂.trans at₁⟩

theorem State.mem_flits_delayLink {s : State} {r : Fin 4} {f : Flit} {v : W64} (hf : f ∈ s.mesh.flits) (hv : f.sentOn r false = some v)
    (hc : s.crossing v = true) (room : s.now.toNat + 200 < 2 ^ 64) :
    { f with due := v + 88, cross := some (r, v + 64) } ∈ (s.delayLink r).mesh.flits := by
  have sameNow := s.delayDir_now r true
  exact State.mem_flits_delayDir_false (State.mem_flits_delayDir_true hf (Flit.sentOn_true_of_sentOn_false hv)) hv
    (by rwa [State.crossing, sameNow]) (by rwa [sameNow])

theorem State.mem_crossings_delayLink {s : State} {r : Fin 4} {c : Crossing} (hm : c ∈ s.mesh.crossings) (hr : c.rim = r)
    (hc : s.crossing c.sent = true) (room : s.now.toNat + 200 < 2 ^ 64) : { c with sent := c.sent + 64 } ∈ (s.delayLink r).mesh.crossings :=
  State.mem_crossings_delayDir_false r (State.mem_crossings_delayDir_true hm hr hc room)

/-! ## Link errors (R453, R468, R474) -/

theorem State.reply_mesh (s : State) (m : Msg) (status detail : Nat) (b : Bytes) : (s.reply m status detail b).mesh = s.mesh := by
  obtain ⟨r, sl, p, new, h, -⟩ := s.reply_only m status detail b
  rw [h]

theorem State.answerAll_mesh (s : State) (w : WaitFor) (status : Nat) : (s.answerAll w fun m u => u.reply m status).mesh = s.mesh := by
  unfold State.answerAll
  exact List.foldlRecOn (motive := fun u : State => u.mesh = s.mesh) _ _ rfl fun u hu x _ => (u.reply_mesh x.1 status 0 []).trans hu

/-- A close that begins answers the messages that it overtakes; the mesh is as it was. -/
theorem State.beginClose_mesh (s : State) (byUf : Bool) : (s.beginClose byUf).mesh = s.mesh := by
  unfold State.beginClose
  split
  · rfl
  · dsimp only
    rw [State.answerAll_mesh, State.answerAll_mesh, State.answerAll_mesh]
    rfl

theorem State.ufRec_mesh (s : State) (r : Rec) : (s.ufRec r).mesh = s.mesh := by
  unfold State.ufRec
  rw [if_neg Bool.false_ne_true, State.beginClose_mesh]
  exact s.logRec_mesh _

theorem State.loseFlit_links (s : State) (f : Flit) : (s.loseFlit f).mesh.links = s.mesh.links := by
  have wait {o : Option (LTile × CtxNo × TaskCtx)} {m : LTile → CtxNo → TaskCtx → Mesh} (hm : ∀ t c k, (m t c k).links = s.mesh.links) :
      (match o with | some (t, c, k) => if k.radio then s else { s with mesh := m t c k } | none => s).mesh.links = s.mesh.links := by
    split
    · split
      · rfl
      · exact hm _ _ _
    · rfl
  unfold State.loseFlit
  dsimp only
  split
  · exact wait fun _ _ _ => rfl
  · exact wait fun _ _ _ => rfl
  · exact wait fun _ _ _ => rfl
  · rfl

theorem State.loseCrossing_eq (s : State) (c : Crossing) : ∃ m, s.loseCrossing c = { s with mem := m } := by
  unfold State.loseCrossing
  split <;> exact ⟨_, rfl⟩

/-- What a cut link loses changes no link's state. -/
theorem State.cutLink_links (s : State) (r : Fin 4) : (s.cutLink r).mesh.links = s.mesh.links := by
  unfold State.cutLink
  dsimp only
  refine List.foldlRecOn (motive := fun u : State => u.mesh.links = s.mesh.links) _ _ ?_ fun u hu c _ => ?_
  · exact List.foldlRecOn (motive := fun u : State => u.mesh.links = s.mesh.links) _ _ rfl fun u hu f _ => (u.loseFlit_links f).trans hu
  · obtain ⟨m, e⟩ := u.loseCrossing_eq c
    rw [e]
    exact hu

/-- After a link error its link retrains, with no replay counted (R474). -/
theorem State.linkError_link (s : State) (r : Fin 4) (stop : Nat) :
    ((s.linkError r stop).link (linkKey r stop)).retrain = some (s.now + 16384) ∧ ((s.linkError r stop).link (linkKey r stop)).replays = 0 := by
  have cut (u : State) : (if stop = rimStop r then u.cutLink r else u).mesh.links = u.mesh.links := by
    split
    · exact u.cutLink_links r
    · rfl
  have links : (s.linkError r stop).mesh.links = (s.setLink (linkKey r stop) { s.link (linkKey r stop) with
      replays := 0, retrain := some (s.now + 16384),
      errors := (interval s.now 1, if (s.link (linkKey r stop)).errors.1 = interval s.now 1 then (s.link (linkKey r stop)).errors.2 + 1 else 1) }).mesh.links := by
    unfold State.linkError
    dsimp only
    rw [apply_ite State.mesh, State.ufRec_mesh, ite_self, State.logRec_mesh, cut]
  rw [State.link, links, ← State.link, State.link_setLink]
  exact ⟨rfl, rfl⟩

/-! ## The count of replays (R196) -/

/-- The count of a replay in this cycle: one more of the frame replayed 64 cycles before, or the first of another. -/
def LinkState.replayNo (l : LinkState) (now : W64) : Nat := if now = l.replayAt + 64 then l.replays + 1 else 1

/-- The state that has counted a replay of a link. -/
def State.replayed (s : State) (k : Nat) : State := s.setLink k { s.link k with replays := (s.link k).replayNo s.now, replayAt := s.now }

theorem State.d2dReplay_of_le {s : State} {r : Fin 4} {stop : Nat} (up : (s.link (linkKey r stop)).retrain = none)
    (hn : (s.link (linkKey r stop)).replayNo s.now ≤ 3) :
    s.d2dReplay r stop = if stop = rimStop r then (s.replayed (linkKey r stop)).delayLink r else s.replayed (linkKey r stop) := by
  have here : ¬ (s.link (linkKey r stop)).retrain.isSome = true := by simp [up]
  exact (if_neg here).trans (if_pos hn)

theorem State.d2dReplay_of_lt {s : State} {r : Fin 4} {stop : Nat} (up : (s.link (linkKey r stop)).retrain = none)
    (hn : 3 < (s.link (linkKey r stop)).replayNo s.now) : s.d2dReplay r stop = s.linkError r stop := by
  have here : ¬ (s.link (linkKey r stop)).retrain.isSome = true := by simp [up]
  exact (if_neg here).trans (if_neg (Nat.not_le.mpr hn))

theorem State.krovbemReplay_of_le {s : State} {port : Fin 7} (hn : (s.link (288 + port.val)).replayNo s.now ≤ 3) :
    ((s.krovbemReplay port).link (288 + port.val)).replays = (s.link (288 + port.val)).replayNo s.now := by
  obtain ⟨f, counted⟩ : ∃ f, s.krovbemReplay port = (s.replayed (288 + port.val)).modFab f := ⟨_, if_pos hn⟩
  rw [counted]
  exact congrArg LinkState.replays (s.link_setLink _ _)

/-! ## Late frames (R197) -/

theorem takeFirst_eq_none {α : Type} {p : α → Bool} : ∀ {l : List α}, (∀ x ∈ l, p x = false) → takeFirst p l = none
  | [], _ => rfl
  | a :: l, h => by
    rw [takeFirst, if_neg (Bool.eq_false_iff.mp (h a List.mem_cons_self)), takeFirst_eq_none fun x hx => h x (List.mem_cons_of_mem a hx), Option.map_none]

/-- The oldest flit that stands late for a flow is dropped. -/
theorem lateFrame_of_flit {s : State} {f : FlowId} {before after : List Flit} {x : Flit} {t : LTile} (hl : s.mesh.flits = before ++ x :: after)
    (hb : ∀ y ∈ before, s.lateAt f y = none) (hx : s.lateAt f x = some t) :
    lateFrame f s = State.lateDrop { s with mesh := { s.mesh with flits := before ++ after } } t := by
  have taken : takeFirst (fun y => (s.lateAt f y).isSome) s.mesh.flits = some (x, before ++ after) := by
    rw [hl]
    exact takeFirst_of_split (by rw [hx]; rfl) fun y hy => by rw [hb y hy]; rfl
  simp only [lateFrame, taken, hx, Option.getD_some]

/-- Where no flit stands late, the flow's oldest frame on a link is dropped in the cycle after its last one for injection. -/
theorem lateFrame_of_crossing {s : State} {f : FlowId} {before after : List Crossing} {c : Crossing} (hl : ∀ y ∈ s.mesh.flits, s.lateAt f y = none)
    (hs : s.mesh.crossings = before ++ c :: after) (hb : ∀ y ∈ before, y.of f = false) (hc : c.of f = true) (hnow : s.now = c.nominal + 65) :
    lateFrame f s = State.lateDrop (State.loseCrossing { s with mesh := { s.mesh with crossings := before ++ after } } c) c.tile := by
  have inTime : takeFirst (fun y => (s.lateAt f y).isSome) s.mesh.flits = none := takeFirst_eq_none fun y hy => by rw [hl y hy]; rfl
  have taken : takeFirst (·.of f) s.mesh.crossings = some (c, before ++ after) := by
    rw [hs]
    exact takeFirst_of_split hc hb
  simp only [lateFrame, inTime, lateCross, taken, if_pos hnow]

/-- A late frame is counted for its tile; a record of it changes no register. -/
theorem State.lateDrop_count (s : State) (t : LTile) :
    (s.lateDrop t).mesh = s.mesh ∧ (s.lateDrop t).rget (treg .schStat t) = satAdd (s.rget (treg .schStat t)) 31 16 1 := by
  refine ⟨(State.logRec_mesh _ _).trans (State.finc_mesh _ _ _ _ _), ?_⟩
  exact (State.rget_congr (State.logRec_regs _ _) _).trans ((s.rget_finc _ _ 31 16 1).trans (if_pos rfl))

end Sys2Proof.Machine
open Sys2Proof Sys2Proof.Machine

/-- Settles O17: a replay sends again from the oldest frame on the link, the fourth of one frame retrains the link, and a late
frame leaves its list and is counted. -/
theorem linksComplete : Obligations.LinksComplete := by
  unfold Obligations.LinksComplete
  refine ⟨?_, ?_, ?_, ?_, ?_⟩
  · intro s r stop dies k n up
    refine ⟨fun hn => .of_eq (guarded_true (by rw [dies]; rfl) (linkReplay (.d2d r stop)) s) (State.d2dReplay_of_le up hn) ?_,
      fun hn => .of_eq (guarded_true (by rw [dies]; rfl) (linkReplay (.d2d r stop)) s) (State.d2dReplay_of_lt up hn) (s.linkError_link r stop.val)⟩
    by_cases rim : stop.val = rimStop r
    · have counted := (s.replayed k).delayLink_replays r
      rw [← rim, State.replayed, State.link_setLink] at counted
      rw [if_pos rim]
      exact ⟨counted.1, counted.2, fun _ room => ⟨fun f hf w hw hc => State.mem_flits_delayLink (s := s.replayed k) hf hw hc room,
        fun c hc hr hs => State.mem_crossings_delayLink (s := s.replayed k) hc hr hs room⟩⟩
    · rw [if_neg rim, State.replayed, State.link_setLink]
      exact ⟨rfl, rfl, fun h => absurd h rim⟩
  · intro s port dies member l n hn
    have replay : linkReplay (.krovbem port) s = s.krovbemReplay port := if_pos member
    exact .of_eq (guarded_true (by rw [dies]; rfl) (linkReplay (.krovbem port)) s) replay (State.krovbemReplay_of_le hn)
  · intro s r stop hr
    refine ⟨_, guarded_true (by rw [hr]; exact decide_eq_true rfl) (fun s => s.setLink (linkKey r stop.val) { s.link (linkKey r stop.val) with
      retrain := none, replays := 0 }) s, ?_⟩
    simp only [State.link_setLink, and_self]
  · intro s f before x after t hl hb hx
    obtain ⟨mesh, count⟩ := State.lateDrop_count { s with mesh := { s.mesh with flits := before ++ after } } t
    exact .of_eq rfl (lateFrame_of_flit hl hb hx) ⟨congrArg Mesh.flits mesh, count⟩
  · intro s f before c after hl hs hb hc hnow
    obtain ⟨m, lost⟩ := State.loseCrossing_eq { s with mesh := { s.mesh with crossings := before ++ after } } c
    obtain ⟨mesh, count⟩ := State.lateDrop_count { s with mesh := { s.mesh with crossings := before ++ after }, mem := m } c.tile
    exact .of_eq rfl ((lateFrame_of_crossing hl hs hb hc hnow).trans (congrArg (·.lateDrop c.tile) lost)) ⟨congrArg Mesh.crossings mesh, count⟩
end

section
/-!
A tile without progress whose task was dropped before it ended: the state that refutes O25 (R473, R475).
-/
set_option Elab.async false
namespace Sys2Proof.Machine

/-- A drop gives no end to a task that is marked dropped and has none (R475). -/
theorem State.ctx_dropTask_of_dropped {s : State} {t : LTile} {c : CtxNo} {k : TaskCtx} (h : s.ctx t c = some k) (hr : k.radio = false)
    (hd : k.dropped = true) (code : Nat) : (s.dropTask t c code).ctx t c = some { k with endedAt := s.now, fence := none } := by
  rw [State.ctx_dropTask h hr]
  simp [hd]

/-- A report of a swap candidate leaves the tasks (R467). -/
theorem State.ctx_swapCandidate (s : State) (t : LTile) (unit : Nat) (code : Code) (t' : LTile) (c : CtxNo) :
    (s.swapCandidate t unit code).ctx t' c = s.ctx t' c :=
  State.ctx_congr ((s.swapCandidate_alters t unit code none 0 [] none).comp .tiles (by simp)) t' c

/-- An entry without progress makes its tile ineligible (R473). -/
theorem exec_runEntryNoProgress {n : BitVec 32} {s : State} {t : LTile} (h : noProgress n s = some t) :
    exec (.runEntryNoProgress n) s = .next (s.makeIneligible t) := by
  change execRunEntryNoProgress n s = _
  rw [execRunEntryNoProgress, h]

/-- A tenant task that is marked dropped, has not ended, and has waited for 8,192 cycles. -/
def droppedUnended : TaskCtx :=
  { radio := false, img := .epoch, recIdx := 0, owner := 0x40, base := 0, bound := 0, srow := 0, entry := some 0, dropped := true, timer := 8192 }

/-- A part that runs it, as its only task, for run-list entry 0 in context 0 of tile 0. -/
def stuckPart : State :=
  { State.reset.setCtx 0 0 (some droppedUnended) with
    ten := { runList := [{ entry := 0, recIdx := 0, in1 := none, in2 := none, running := some (0, 0) }] } }

theorem stuckPart_ctx : stuckPart.ctx 0 0 = some droppedUnended := (State.reset.ctx_setCtx 0 0 0 0 _).trans (if_pos ⟨rfl, rfl⟩)

/-- Its entry makes no progress (R473). -/
theorem noProgress_stuckPart : noProgress 0 stuckPart = some 0 := by decide +kernel

/-- It is the only tenant task of the tile that becomes ineligible. -/
theorem tenantCtxs_stuckPart : (stuckPart.modTile 0 fun x => { x with ineligible := true }).tenantCtxs 0 = [(0, droppedUnended)] := by decide +kernel

/-- The tile becomes ineligible, and the task still has no end. -/
theorem makeIneligible_stuckPart_ctx :
    (stuckPart.makeIneligible 0).ctx 0 0 = some { droppedUnended with endedAt := stuckPart.now, fence := none } := by
  have waiting : (stuckPart.modTile 0 fun x => { x with ineligible := true }).ctx 0 0 = some droppedUnended :=
    (stuckPart.ctx_modTile 0 0 0 _ fun _ => rfl).trans stuckPart_ctx
  rw [State.makeIneligible]
  dsimp only
  rw [State.ctx_swapCandidate, tenantCtxs_stuckPart, List.foldl_cons, List.foldl_nil]
  exact State.ctx_dropTask_of_dropped waiting rfl rfl 7

end Sys2Proof.Machine
open Sys2Proof Sys2Proof.Machine

/-- Refutes O25. Its clause on RUN_ENTRY_NO_PROGRESS says that every tenant task of the tile has an end afterwards, whatever the state.
A drop gives its code only to a task that is not marked dropped yet (R475, R476): a task that is marked so and has no end, which the
clause does not exclude as the one on LEG_TIMEOUT does, is left without one. -/
theorem not_epochEventsComplete : ¬ Obligations.EpochEventsComplete := by
  unfold Obligations.EpochEventsComplete
  rintro ⟨-, ineligible, -⟩
  obtain ⟨u, hu, -, ends⟩ := ineligible stuckPart 0 0 noProgress_stuckPart
  have hexec := exec_runEntryNoProgress noProgress_stuckPart
  obtain rfl : u = stuckPart.makeIneligible 0 := by
    rw [hexec] at hu
    injection hu with hu
    exact hu.symm
  obtain ⟨k, hk, ended, -⟩ := ends 0 droppedUnended stuckPart_ctx rfl
  obtain rfl := Option.some.inj (makeIneligible_stuckPart_ctx.symm.trans hk)
  exact Bool.false_ne_true ended
end

section
/-!
The channels of the external memory: what reads, writes and repairs of lines leave of a channel's queue and slots, and of the
memory frame that its slots lie in (R227, R234, R252, R259-R261).
-/
set_option Elab.async false
namespace Sys2Proof.Machine

/-! ## One channel -/

@[simp] theorem State.chan_modChan (s : State) (k : Nat) (f : Channel → Channel) : (s.modChan k f).chan k = f (s.chan k) := by
  simp [State.chan]

/-- A channel without its repairs and its counts of faulty reads: its queue, its turn, its slots and its repaired rows. -/
def Channel.served (c : Channel) : Channel := { c with repair := none, failing := [], sparesUsed := 0, uc := (0, 0), ce := [] }

/-- From `s` to `u` every channel keeps its queue, its turn, its slots and its repaired rows. -/
structure State.KeepsService (s u : State) : Prop where
  served : ∀ k, (u.chan k).served = (s.chan k).served

section
variable {s u v : State}

theorem State.KeepsService.used (h : s.KeepsService u) (k : Nat) : (u.chan k).used = (s.chan k).used := (congrArg Channel.used (h.served k) :)
theorem State.KeepsService.accepted (h : s.KeepsService u) (k : Nat) : (u.chan k).accepted = (s.chan k).accepted := (congrArg Channel.accepted (h.served k) :)
theorem State.KeepsService.repaired (h : s.KeepsService u) (k : Nat) : (u.chan k).repaired = (s.chan k).repaired := (congrArg Channel.repaired (h.served k) :)

theorem State.KeepsService.refl (s : State) : s.KeepsService s := ⟨fun _ => rfl⟩

/-- A further operation that leaves the channels. -/
theorem State.KeepsService.chans (h : s.KeepsService u) (e : v.mem.chans = u.mem.chans) : s.KeepsService v :=
  ⟨fun k => (congrArg (fun c => (c.get (fin 160 k)).served) e).trans (h.served k)⟩

theorem State.KeepsService.finc (h : s.KeepsService u) (r : Reg) (hi lo k : Nat) : s.KeepsService (u.finc r hi lo k) := ⟨h.served⟩
theorem State.KeepsService.fset (h : s.KeepsService u) (r : Reg) (hi lo x : Nat) : s.KeepsService (u.fset r hi lo x) := ⟨h.served⟩
theorem State.KeepsService.logRec (h : s.KeepsService u) (r : Rec) : s.KeepsService (u.logRec r) := h.chans (congrArg Mem.chans (u.logRec_mem r))

/-- A further change of one channel's repairs or counts. -/
theorem State.KeepsService.modChan (h : s.KeepsService u) (ch : Nat) (f : Channel → Channel) (hf : ∀ c, (f c).served = c.served := by exact fun _ => rfl) :
    s.KeepsService (u.modChan ch f) := ⟨fun k => by
  refine Eq.trans ?_ (h.served k)
  rw [State.chan, State.modChan_mem, vmod_get]
  split
  · next e => rw [hf, ← e, State.chan]
  · rfl⟩

theorem State.KeepsService.ite {c : Prop} [Decidable c] (h : s.KeepsService u) (k : s.KeepsService v) : s.KeepsService (if c then u else v) := by
  split
  · exact h
  · exact k

/-- A further operation under a condition. -/
theorem State.KeepsService.onlyIf {c : Prop} [Decidable c] (h : s.KeepsService u) (k : s.KeepsService u → s.KeepsService v) :
    s.KeepsService (if c then v else u) := .ite (k h) h

theorem State.KeepsService.fold {α : Type} {f : State → α → State} (hf : ∀ (s : State) (a : α), s.KeepsService (f s a)) (l : List α) :
    s.KeepsService (l.foldl f s) :=
  List.foldlRecOn (motive := fun u => s.KeepsService u) l f (.refl s) fun u h a _ => ⟨fun k => ((hf u a).served k).trans (h.served k)⟩

/-! ## The check-line cache and lines leave every channel -/

@[simp] theorem Mem.makeRoom_chans (m : Mem) (line : Nat) (radio : Bool) : (m.makeRoom line radio).chans = m.chans := by
  unfold Mem.makeRoom
  dsimp only
  split
  · rfl
  · split
    · rfl
    · split <;> rfl

@[simp] theorem Mem.fetchCheck_chans (m : Mem) (line : Nat) : (m.fetchCheck line).chans = m.chans := m.makeRoom_chans line false
@[simp] theorem Mem.put_chans (m : Mem) (line : Nat) (d : Row) (poison : Bool) (at_ : W64) (radio : Bool) :
    (m.put line d poison at_ radio).chans = m.chans := m.makeRoom_chans line radio

/-! ## Faulty reads and repairs -/

theorem State.KeepsService.degrade (h : s.KeepsService u) (ch r row : Nat) : s.KeepsService (u.degrade ch r row) := by
  unfold State.degrade
  exact (h.fset _ _ _ _).logRec _

theorem State.KeepsService.startRepair (h : s.KeepsService u) (ch : Nat) : s.KeepsService (u.startRepair ch) := by
  unfold State.startRepair
  dsimp only
  split
  · exact .ite (h.modChan _ _) (.degrade (h.modChan _ _) _ _ _)
  · exact h

theorem State.KeepsService.failRow (h : s.KeepsService u) (ch row : Nat) : s.KeepsService (u.failRow ch row) := by
  unfold State.failRow
  exact .ite h (.startRepair (h.modChan _ _) _)

theorem State.KeepsService.noteUc (h : s.KeepsService u) (line req : Nat) : s.KeepsService (u.noteUc line req) := by
  unfold State.noteUc
  exact .onlyIf (.onlyIf (.modChan ((h.finc _ _ _ _).logRec _) _ _) fun h => h.degrade _ _ _) fun h => h.failRow _ _

theorem State.KeepsService.noteCe (h : s.KeepsService u) (line : Nat) : s.KeepsService (u.noteCe line) := by
  unfold State.noteCe
  exact .onlyIf (.modChan (h.finc _ _ _ _) _ _) fun h => h.failRow _ _

theorem State.KeepsService.readLine (h : s.KeepsService u) (line req : Nat) : s.KeepsService (u.readLine line req).2 := by
  have counted : s.KeepsService (if (u.mem.pair line).2 then u.finc (creg .memChk) 31 0 else (u.finc (creg .memChk) 63 32).modMem (·.fetchCheck line)) :=
    .ite (h.finc _ _ _ _) (.chans (h.finc (creg .memChk) 63 32 1) (Mem.fetchCheck_chans _ line))
  unfold State.readLine
  dsimp only
  split
  · exact counted
  · exact counted.noteCe line
  · exact counted.noteUc line req

theorem State.KeepsService.writeLine (h : s.KeepsService u) (line : Nat) (d : Row) (poison radio : Bool) :
    s.KeepsService (u.writeLine line d poison radio) := by
  have stored : s.KeepsService (u.modMem (·.put line d poison u.now radio)) := h.chans (u.mem.put_chans _ _ _ _ _)
  unfold State.writeLine
  dsimp only
  refine .onlyIf ?_ fun h => h.finc _ _ _ _
  split
  · exact .onlyIf stored fun h => h.modChan _ _
  · exact stored

theorem State.KeepsService.mergeLine (h : s.KeepsService u) (line req : Nat) (d : Row) (mask : BitVec 64) :
    s.KeepsService (u.mergeLine line req d mask) := by
  unfold State.mergeLine
  exact .ite (h.writeLine _ _ _ _) ((h.readLine _ _).writeLine _ _ _ _)

theorem State.KeepsService.lineReply (h : s.KeepsService u) (q : LineReq) (r : Option RdRow) (poisoned : Bool) :
    s.KeepsService (u.lineReply q r poisoned) := by
  unfold State.lineReply
  split
  · exact h.chans rfl
  · split <;> exact h.chans rfl

/-! ## The memory frame (R227, R238, R241) -/

/-- What lines, counts and repairs change moves no group: the memory frame hangs on the time and the frame offset. -/
theorem State.Alters.off_eq (h : s.AltersMemory u) (at_ : W64) : u.off at_ = s.off at_ := by
  rw [State.off, State.off, State.frameOff, State.frameOff, h.reg (creg .atbFrameOffset) rfl]

theorem State.Alters.groupStart_now (h : s.AltersMemory u) : u.groupStart u.now = s.groupStart s.now := by
  have now : u.now = s.now := congrArg TimeState.now (h.comp .time (by simp))
  rw [State.groupStart, State.groupStart, h.off_eq, now]

end

/-- A channel's counts for its group change the channels only. -/
theorem State.inGroup_eq (s : State) (ch : Nat) : ∃ c, s.inGroup ch = { s with mem := { s.mem with chans := c } } := by
  unfold State.inGroup
  dsimp only
  split
  · exact ⟨_, rfl⟩
  · exact ⟨_, rfl⟩

/-- A fault of the device and a group's begin change the memory only, and no scrub. -/
theorem State.inGroup_strike_eq (s : State) (ch line : Nat) (x : BitVec 528) :
    ∃ m, (s.strike ch line x).inGroup ch = { s with mem := m } ∧ m.scrub = s.mem.scrub := by
  obtain ⟨c, e⟩ := (s.strike ch line x).inGroup_eq ch
  rw [e]
  unfold State.strike
  split
  · exact ⟨_, rfl, rfl⟩
  · exact ⟨_, rfl, rfl⟩

/-- The counts for a group leave a channel's repairs. -/
theorem State.chan_inGroup_repairs (s : State) (ch : Nat) : ((s.inGroup ch).chan ch).repair = (s.chan ch).repair
    ∧ ((s.inGroup ch).chan ch).failing = (s.chan ch).failing ∧ ((s.inGroup ch).chan ch).sparesUsed = (s.chan ch).sparesUsed := by
  unfold State.inGroup
  dsimp only
  split
  · exact ⟨rfl, rfl, rfl⟩
  · rw [State.chan_modChan]
    exact ⟨rfl, rfl, rfl⟩

/-! ## A line read (R231-R235) -/

/-- A line that the decoder passes, unchanged or corrected, is read as its data. -/
theorem State.readLine_data {s : State} {line : Nat} {d : Row} (h : rsDecode (s.mem.word line) = .clean d ∨ rsDecode (s.mem.word line) = .corrected d)
    (req : Nat) : (s.readLine line req).1 = { data := d } := by
  rcases h with h | h <;> simp only [State.readLine, h]

end Sys2Proof.Machine
end

section
/-!
Line operations of the external memory: their acceptance, their slots, and the write-back of check lines (R235, R236, R242,
R252-R258).
-/
set_option Elab.async false
namespace Sys2Proof.Machine

/-! ## Acceptance (R252, R257) -/

/-- A channel accepts the oldest request of the source whose turn it is. -/
theorem lineAccept_eq {s : State} {ch n : Nat} {before after : List LineReq} {q : LineReq} (hw : s.mem.want = before ++ q :: after)
    (hq : chanOf q.line = ch ∧ srcNum q.src = n) (oldest : ∀ x ∈ before, ¬ (chanOf x.line = ch ∧ srcNum x.src = n))
    (turn : nextSource (s.chan ch).rr ((s.mem.want.filter fun x => decide (chanOf x.line = ch)).map fun x => srcNum x.src) = some n)
    (room : (s.chan ch).accepted.length < 52) (allowed : (∀ d, q.op ≠ .accFp d) ∨ s.orderedMode = false) :
    lineAccept ch s = ((s.modMem fun m => { m with want := before ++ after }).modChan ch fun c => { c with rr := n }).modChan ch fun c =>
      { c with accepted := enq c.accepted { q with issued := s.now } } := by
  have taken : takeFirst (fun x => decide (chanOf x.line = ch ∧ srcNum x.src = n)) s.mem.want = some (q, before ++ after) := by
    rw [hw]
    exact takeFirst_of_split (p := fun x => decide (chanOf x.line = ch ∧ srcNum x.src = n)) (decide_eq_true hq) fun x hx => decide_eq_false (oldest x hx)
  simp only [lineAccept, turn, if_neg (Nat.not_le.mpr room), taken]
  split
  · next d hop =>
    have ordered : s.orderedMode = false := allowed.resolve_left fun h => h d hop
    exact if_neg (by rw [← Bool.not_eq_true] at ordered; exact ordered)
  · rfl

/-! ## Slots (R242, R252-R255, R258) -/

/-- The operation that takes a slot is one of those accepted. -/
theorem mem_of_pickOp {g : W64} {tenant : Bool} {q : LineReq} : ∀ {l : List LineReq} {seen : List Nat}, pickOp g tenant seen l = some q → q ∈ l
  | [], _, h => nomatch h
  | x :: l, seen, h => by
    rw [pickOp] at h
    rcases ite_eq_iff.mp h with ⟨-, e⟩ | ⟨-, e⟩
    · exact Option.some.inj e ▸ List.mem_cons_self
    · exact List.mem_cons_of_mem x (mem_of_pickOp e)

/-- Slots of the present group taken on a channel. -/
def State.useSlots (s : State) (ch n : Nat) : State := s.modChan ch fun c => { c with used := c.used + n }

/-- An operation leaves its channel's queue. -/
def State.dropOp (s : State) (ch : Nat) (q : LineReq) : State :=
  s.modChan ch fun c => { c with accepted := ((takeFirst (fun x => decide (x = q)) c.accepted).map (·.2)).getD c.accepted }

/-- An accumulate-write stays in the queue with what it writes in a later group (R254). -/
def State.keepOp (s : State) (ch : Nat) (q : LineReq) (g : W64) (x : Row × Bool) : State :=
  s.modChan ch fun c => { c with accepted := c.accepted.map fun y => if y = q then { y with second := some (x.1, x.2, g) } else y }

/-- The first slots of an operation taken, and counted in the activity of the memory. -/
def State.beginOp (s : State) (ch : Nat) (q : LineReq) : State :=
  (s.useSlots ch (s.opSlots q)).act fun a => { a with dram := a.dram + 1 }

/-- What an operation does in its first slots. -/
def State.serveFirst (s : State) (ch : Nat) (q : LineReq) (g : W64) : State :=
  match q.op with
  | .read => ((s.readLine q.line (srcNum q.src)).2.dropOp ch q).lineReply q (some (s.readLine q.line (srcNum q.src)).1)
  | .write d p => ((s.dropOp ch q).writeLine q.line d p).lineReply q none
  | .merge d m => ((s.dropOp ch q).mergeLine q.line (srcNum q.src) d m).lineReply q none
  | .accInt d => (s.readLine q.line (srcNum q.src)).2.keepOp ch q g (accSecond false d (s.readLine q.line (srcNum q.src)).1)
  | .accFp d => (s.readLine q.line (srcNum q.src)).2.keepOp ch q g (accSecond true d (s.readLine q.line (srcNum q.src)).1)

/-- What an operation does in the slots that it takes now. -/
def State.serveOp (s : State) (ch : Nat) (q : LineReq) (g : W64) : State :=
  match q.second with
  | some (d, p, _) => (((s.useSlots ch (s.opSlots q)).dropOp ch q).writeLine q.line d p).lineReply q none p
  | none => (s.beginOp ch q).serveFirst ch q g

/-- A channel with a free slot serves the first of its operations that may take one. -/
theorem lineSlot_eq {s v : State} {ch line : Nat} {x : BitVec 528} {q : LineReq} (hv : (s.strike ch line x).inGroup ch = v)
    (free : (v.chan ch).used < s.openSlots s.now) (idle : s.mem.scrub = none) (room : v.mem.hasRoom q.line = true)
    (first : pickOp (s.groupStart s.now) (tenantGroup (s.groupOf s.now)) [] (v.chan ch).accepted = some q) :
    lineSlot ch line x s = v.serveOp ch q (s.groupStart s.now) := by
  obtain ⟨m, e, scrub⟩ := s.inGroup_strike_eq ch line x
  have only : v = { s with mem := m } := hv.symm.trans e
  have sameSlots : v.openSlots v.now = s.openSlots s.now := by rw [only]; rfl
  have sameStart : v.groupStart v.now = s.groupStart s.now := by rw [only]; rfl
  have sameGroup : v.groupOf v.now = s.groupOf s.now := by rw [only]; rfl
  have stop : ¬ (v.openSlots v.now ≤ (v.chan ch).used ∨ v.mem.scrub.isSome = true) := by
    rw [sameSlots, only, show m.scrub = none from scrub.trans idle]
    simpa [only] using free
  unfold lineSlot
  simp only [hv, if_neg stop, sameStart, sameGroup, first, Option.filter_some, room, if_true]
  cases hq : q.second with
  | some w => simp only [State.serveOp, hq]; rfl
  | none => cases hop : q.op <;> simp only [State.serveOp, State.serveFirst, hq, hop] <;> rfl

@[simp] theorem State.used_useSlots (s : State) (ch n : Nat) : ((s.useSlots ch n).chan ch).used = (s.chan ch).used + n := by
  rw [State.useSlots, State.chan_modChan]

@[simp] theorem State.used_beginOp (s : State) (ch : Nat) (q : LineReq) : ((s.beginOp ch q).chan ch).used = (s.chan ch).used + s.opSlots q :=
  s.used_useSlots ch _

@[simp] theorem State.accepted_beginOp (s : State) (ch : Nat) (q : LineReq) : ((s.beginOp ch q).chan ch).accepted = (s.chan ch).accepted :=
  (congrArg Channel.accepted (s.chan_modChan ch fun c => { c with used := c.used + s.opSlots q }) :)

@[simp] theorem State.used_dropOp (s : State) (ch : Nat) (q : LineReq) : ((s.dropOp ch q).chan ch).used = (s.chan ch).used := by
  rw [State.dropOp, State.chan_modChan]

@[simp] theorem State.used_keepOp (s : State) (ch : Nat) (q : LineReq) (g : W64) (x : Row × Bool) :
    ((s.keepOp ch q g x).chan ch).used = (s.chan ch).used := by
  rw [State.keepOp, State.chan_modChan]

/-- The first slots' work takes no more slots. -/
theorem State.used_serveFirst (s : State) (ch : Nat) (q : LineReq) (g : W64) : ((s.serveFirst ch q g).chan ch).used = (s.chan ch).used := by
  have read := (State.KeepsService.refl s).readLine q.line (srcNum q.src)
  unfold State.serveFirst
  split
  · rw [((State.KeepsService.refl _).lineReply q _ _).used, State.used_dropOp, read.used]
  · rw [(((State.KeepsService.refl _).writeLine _ _ _ _).lineReply q _ _).used, State.used_dropOp]
  · rw [(((State.KeepsService.refl _).mergeLine _ _ _ _).lineReply q _ _).used, State.used_dropOp]
  · rw [State.used_keepOp, read.used]
  · rw [State.used_keepOp, read.used]

theorem State.used_serveOp (s : State) (ch : Nat) (q : LineReq) (g : W64) :
    ((s.serveOp ch q g).chan ch).used = (s.chan ch).used + s.opSlots q := by
  unfold State.serveOp
  split
  · rw [(((State.KeepsService.refl _).writeLine _ _ _ _).lineReply q _ _).used, State.used_dropOp, State.used_useSlots]
  · rw [State.used_serveFirst, State.used_beginOp]

@[simp] theorem State.lineReply_lines (s : State) (q : LineReq) (r : Option RdRow) (p : Bool) : (s.lineReply q r p).mem.lines = s.mem.lines := by
  unfold State.lineReply
  split
  · rfl
  · split <;> rfl

/-- A write leaves its data in its line (R233). -/
theorem State.line_serveOp_write {s : State} {ch : Nat} {q : LineReq} {d : Row} {p : Bool} (first : q.second = none) (hop : q.op = .write d p) (g : W64) :
    tget 0 (s.serveOp ch q g).mem.lines q.line = d := by
  simp only [State.serveOp, first, State.serveFirst, hop, State.lineReply_lines, State.get_writeLine, if_true]

/-- The write half of an accumulate-write leaves the sum in its line (R254). -/
theorem State.line_serveOp_second {s : State} {ch : Nat} {q : LineReq} {d : Row} {p : Bool} {h : W64} (later : q.second = some (d, p, h)) (g : W64) :
    tget 0 (s.serveOp ch q g).mem.lines q.line = d := by
  simp only [State.serveOp, later, State.lineReply_lines, State.get_writeLine, if_true]

section
variable {s : State} {ch : Nat} {q : LineReq} {d : Row} {g : W64} (first : q.second = none)
  (good : rsDecode (s.mem.word q.line) = .clean d ∨ rsDecode (s.mem.word q.line) = .corrected d)
include first good

/-- A read that the decoder passes is answered with the data. -/
theorem State.mem_replies_serveOp {half : Fin 2} {i : Nat} (hop : q.op = .read) (hd : q.dest = .gather half i) :
    (q.dest, d, false) ∈ (s.serveOp ch q g).mem.replies := by
  have read : ((s.beginOp ch q).readLine q.line (srcNum q.src)).1 = { data := d } := State.readLine_data (s := s.beginOp ch q) good _
  simp only [State.serveOp, first, State.serveFirst, hop, read, State.lineReply, hd]
  exact mem_enq _ _

/-- An accumulate-write whose read the decoder passes holds the sum that it writes in a later group. -/
theorem State.mem_accepted_serveOp (queued : q ∈ (s.chan ch).accepted) {fp : Bool} {e : Row} (hop : q.op = if fp then .accFp e else .accInt e) :
    ∃ y ∈ ((s.serveOp ch q g).chan ch).accepted, y.id = q.id ∧ y.line = q.line ∧ y.second = some (accSum fp d e, false, g) := by
  have read : ((s.beginOp ch q).readLine q.line (srcNum q.src)).1 = { data := d } := State.readLine_data (s := s.beginOp ch q) good _
  have served : s.serveOp ch q g = ((s.beginOp ch q).readLine q.line (srcNum q.src)).2.keepOp ch q g (accSum fp d e, false) := by
    cases fp <;> simp only [hop, State.serveOp, first, State.serveFirst, read, accSecond, if_true, Bool.false_eq_true, if_false]
  rw [served, State.keepOp, State.chan_modChan, ((State.KeepsService.refl _).readLine q.line (srcNum q.src)).accepted, State.accepted_beginOp]
  exact ⟨_, List.mem_map.mpr ⟨q, queued, if_pos rfl⟩, rfl, rfl, rfl⟩

end

/-! ## The write-back of a check line (R235, R236) -/

/-- A dirty entry is written back where the group has slots for it. -/
theorem checkWriteback_eq {s : State} {rim ch block key : Nat} {e : ChkEntry} (hkey : 2 ^ 20 * ch + block = key) (he : tfind key s.mem.cache = some e)
    (die : ch / 40 = rim) (dirty : e.dirty = true)
    (slots : ((s.inGroup ch).chan ch).wb + (if e.valid = 0xFFFFFFFF then 1 else 2) ≤ s.wbSlots) :
    checkWriteback rim ch block s = ((s.inGroup ch).modMem (·.settle key e)).modChan ch fun c =>
      { c with wb := c.wb + if e.valid = 0xFFFFFFFF then 1 else 2 } := by
  obtain ⟨c, only⟩ := s.inGroup_eq ch
  have found : tfind key (s.inGroup ch).mem.cache = some e := by rw [only]; exact he
  have sameSlots : (s.inGroup ch).wbSlots = s.wbSlots := by rw [only]; rfl
  have go : ¬ (ch / 40 ≠ rim ∨ (!e.dirty) = true ∨
      (s.inGroup ch).wbSlots < ((s.inGroup ch).chan ch).wb + (if e.valid = 0xFFFFFFFF then 1 else 2)) := by
    rw [sameSlots]
    rintro (h | h | h)
    · exact h die
    · simp [dirty] at h
    · exact Nat.not_lt.mpr slots h
  simp only [checkWriteback, hkey, found]
  exact if_neg go

/-- A table under conditional writes to different keys reads what was written to each. -/
theorem tget_foldl_tset {α : Type} [DecidableEq α] (d : α) (c : Nat → Bool) {key : Nat → Nat} (inj : Function.Injective key) (v : Nat → α) (i : Nat)
    (l : List Nat) (t : Tab α) :
    tget d (l.foldl (fun t j => if c j then tset d t (key j) (v j) else t) t) (key i) = if i ∈ l ∧ c i = true then v i else tget d t (key i) := by
  induction l generalizing t with
  | nil => simp
  | cons j l ih =>
    rw [List.foldl_cons, ih]
    by_cases hij : i = j
    · subst hij
      by_cases hc : c i = true <;> simp [hc]
    · have other : tget d (if c j then tset d t (key j) (v j) else t) (key i) = tget d t (key i) := by
        split
        · rw [tget_tset, if_neg fun e => hij (inj e)]
        · rfl
      simp [other, hij]

/-- A write-back leaves every valid pair in the check line. -/
theorem Mem.check_settle (m : Mem) (key : Nat) (e : ChkEntry) {i : Nat} (hi : i < 32) (valid : e.valid.getLsbD i = true) :
    tget 0 (m.settle key e).checks (chkFirst key + 160 * i) = lane e.pairs 16 i := by
  have inj : Function.Injective fun j => chkFirst key + 160 * j := fun a b h => by simpa using h
  refine (tget_foldl_tset 0 (fun j => e.valid.getLsbD j) inj (fun j => lane e.pairs 16 j) i (List.range 32) m.checks).trans ?_
  rw [if_pos ⟨List.mem_range.mpr hi, valid⟩]

/-- The entry that was written back is clean and full. -/
theorem Mem.entry_settle (m : Mem) (key : Nat) (e : ChkEntry) :
    ∃ e', tfind key (m.settle key e).cache = some e' ∧ e'.dirty = false ∧ e'.valid = 0xFFFFFFFF :=
  ⟨_, (tfind_tput key key _ m.cache).trans (if_pos rfl), rfl, rfl⟩

end Sys2Proof.Machine
end

section
/-!
Row repair and the scrub of the external memory: the slots of a copy, the switch to the spare row, the rows that await one, and
the lines that a group of a scrub zeroes (R259-R263).
-/
set_option Elab.async false
namespace Sys2Proof.Machine

/-! ## The copy of a row (R260) -/

/-- The slots that the next step of a copy takes: two where it reads a line whose check line is not in the cache. -/
def State.copySlots (s : State) (ch : Nat) (r : RowRepair) : Nat :=
  match rowLine ch r.row (r.step % 32) with
  | some line => if r.step < 32 ∧ !(s.mem.pair line).2 then 2 else 1
  | none => 1

theorem State.copySlots_of_read {s : State} {ch line : Nat} {r : RowRepair} (hr : r.step < 32) (hl : rowLine ch r.row r.step = some line) :
    s.copySlots ch r = if (s.mem.pair line).2 then 1 else 2 := by
  simp only [State.copySlots, Nat.mod_eq_of_lt hr, hl, hr, true_and]
  cases (s.mem.pair line).2 <;> rfl

theorem State.copySlots_of_write (s : State) (ch : Nat) {r : RowRepair} (hr : 32 ≤ r.step) : s.copySlots ch r = 1 := by
  unfold State.copySlots
  split
  · exact if_neg fun h => Nat.not_lt.mpr hr h.1
  · rfl

/-- A running repair takes its next slots of a tenant group. -/
theorem repairRow_eq {s : State} {ch : Nat} {r : RowRepair} (hr : ((s.inGroup ch).chan ch).repair = some r) (runs : r.step < 64)
    (tenant : tenantGroup (s.groupOf s.now) = true) (idle : s.mem.scrub = none)
    (free : ((s.inGroup ch).chan ch).used + (s.inGroup ch).copySlots ch r ≤ s.openSlots s.now) :
    repairRow ch s = ((s.inGroup ch).useSlots ch ((s.inGroup ch).copySlots ch r)).copySlot ch r := by
  obtain ⟨c, only⟩ := s.inGroup_eq ch
  have sameSlots : (s.inGroup ch).openSlots (s.inGroup ch).now = s.openSlots s.now := by rw [only]; rfl
  have sameGroup : (s.inGroup ch).groupOf (s.inGroup ch).now = s.groupOf s.now := by rw [only]; rfl
  have scrub : (s.inGroup ch).mem.scrub = none := by rw [only]; exact idle
  have go : ¬ (64 ≤ r.step ∨ (!tenantGroup ((s.inGroup ch).groupOf (s.inGroup ch).now)) = true ∨ (s.inGroup ch).mem.scrub.isSome = true
      ∨ (s.inGroup ch).openSlots (s.inGroup ch).now < ((s.inGroup ch).chan ch).used + (s.inGroup ch).copySlots ch r) := by
    rw [sameSlots, sameGroup, scrub, tenant]
    simp [runs, free]
  simp only [repairRow, hr]
  exact if_neg go

theorem State.KeepsService.copyRead {s u : State} (h : s.KeepsService u) (line : Nat) : s.KeepsService (u.copyRead line).2 := by
  unfold State.copyRead
  split <;> exact h.readLine _ _

/-- A line of the row that is read as it was written joins the copy unchanged. -/
theorem State.copyRead_data {s : State} {line : Nat} {d : Row} (h : rsDecode (s.mem.word line) = .clean d) : (s.copyRead line).1 = (d, false, false) := by
  simp only [State.copyRead, h]

/-- A step that reads puts its line into the copy. -/
theorem State.copySlot_of_read {s : State} {ch line : Nat} {r : RowRepair} (hr : r.step < 32) (hl : rowLine ch r.row r.step = some line) :
    s.copySlot ch r = (s.copyRead line).2.modChan ch fun c =>
      { c with repair := some { r with copy := tput r.step (s.copyRead line).1 r.copy, step := r.step + 1, last := s.groupStart s.now } } := by
  simp only [State.copySlot, Nat.mod_eq_of_lt hr, if_pos hr, hl]

/-- A step that writes goes on, and may count a line that it writes poisoned. -/
theorem State.copySlot_of_write {s : State} {ch : Nat} {r : RowRepair} (hr : 32 ≤ r.step) :
    ∃ u : State, u.mem = s.mem
      ∧ s.copySlot ch r = u.modChan ch fun c => { c with repair := some { r with step := r.step + 1, last := s.groupStart s.now } } := by
  unfold State.copySlot
  simp only [if_neg (Nat.not_lt.mpr hr)]
  split
  · exact ⟨_, s.finc_mem (creg .memEcc ch) 63 48 1, rfl⟩
  · exact ⟨s, rfl, rfl⟩

/-! ## The start of a repair (R259-R261) -/

theorem State.startRepair_of_repair {s : State} {ch : Nat} {r : RowRepair} (h : (s.chan ch).repair = some r) : s.startRepair ch = s := by
  simp only [State.startRepair, h]

/-- The next failing row is repaired with the next spare row, or the channel becomes DEGRADED. -/
theorem State.startRepair_of_failing {s : State} {ch row : Nat} {rest : List Nat} (hr : (s.chan ch).repair = none)
    (hf : (s.chan ch).failing = row :: rest) :
    s.startRepair ch =
      if (s.chan ch).sparesUsed < 1675 then
        s.modChan ch fun c => { c with failing := rest, repair := some { row := row, spare := 486606 + c.sparesUsed }, sparesUsed := c.sparesUsed + 1 }
      else (s.modChan ch fun c => { c with failing := rest }).degrade ch 261 row := by
  simp only [State.startRepair, hr, hf]

theorem State.degrade_chan (s : State) (ch r row k : Nat) : (s.degrade ch r row).chan k = s.chan k := by
  unfold State.degrade
  rw [State.chan, State.logRec_mem, State.fset_mem, State.chan]

/-- MEM_CH.DEGRADED (R234). -/
theorem State.degrade_degraded (s : State) (ch r row : Nat) : (s.degrade ch r row).fget (creg .memCh ch) 11 11 = 1 := by
  unfold State.degrade
  rw [State.fget, State.rget_congr (State.logRec_regs _ _), ← State.fget]
  exact s.fget_fset (creg .memCh ch) 1 (Nat.le_refl 11) (by decide)

/-- A row awaits its repair or is under repair, or its channel is DEGRADED. -/
def State.attends (s : State) (ch row : Nat) : Prop :=
  row ∈ (s.chan ch).failing ∨ (∃ r, (s.chan ch).repair = some r ∧ r.row = row) ∨ s.fget (creg .memCh ch) 11 11 = 1

/-- No row that awaits its repair is lost when one starts. -/
theorem State.attends_startRepair {s : State} {ch row : Nat} (h : row ∈ (s.chan ch).failing) : (s.startRepair ch).attends ch row := by
  cases hr : (s.chan ch).repair with
  | some r =>
    rw [State.startRepair_of_repair hr]
    exact .inl h
  | none =>
    obtain ⟨x, rest, hf⟩ := List.exists_cons_of_ne_nil (List.ne_nil_of_mem h)
    rw [State.startRepair_of_failing hr hf]
    split
    · rw [State.attends, State.chan_modChan]
      rcases List.mem_cons.mp (hf ▸ h) with rfl | h
      · exact .inr (.inl ⟨_, rfl, rfl⟩)
      · exact .inl h
    · exact .inr (.inr (State.degrade_degraded _ _ _ _))

theorem State.attends_failRow (s : State) (ch row : Nat) : (s.failRow ch row).attends ch row := by
  unfold State.failRow
  dsimp only
  split
  · next h =>
    rcases h with h | h
    · exact .inl (List.contains_iff_mem.mp h)
    · obtain ⟨r, hr, e⟩ := (Option.any_eq_true _ _).mp h
      exact .inr (.inl ⟨r, hr, of_decide_eq_true e⟩)
  · exact State.attends_startRepair (by rw [State.chan_modChan]; exact mem_enq _ _)

/-! ## The switch to the spare row (R260) -/

theorem State.repairSwitch_of_lt {s : State} {ch : Nat} {r : RowRepair} (hr : (s.chan ch).repair = some r) (runs : r.step < 64) : s.repairSwitch ch = s := by
  simp only [State.repairSwitch, hr, if_pos runs]

/-- After the last copy write the spare row serves the row. -/
theorem State.repaired_repairSwitch {s : State} {ch : Nat} {r : RowRepair} (hr : (s.chan ch).repair = some r) (ended : ¬ r.step < 64) :
    ((s.repairSwitch ch).chan ch).repaired = enq (s.chan ch).repaired (r.row, r.spare) := by
  simp only [State.repairSwitch, hr, if_neg ended]
  rw [(State.KeepsService.startRepair (.finc (.refl _) _ _ _ _) ch).repaired, State.chan_modChan]
  refine congrArg (enq · _) ((State.KeepsService.fold ?_ r.copy).repaired ch)
  rintro u ⟨i, d, changed, poison⟩
  dsimp only
  split
  · exact .ite (.chans (.refl u) (u.mem.put_chans _ _ _ _ _)) (.chans (.refl u) rfl)
  · exact .refl u

/-! ## The scrub (R263) -/

theorem tfind_filter_key {α : Type} (p : Nat → Bool) (k : Nat) (t : Tab α) : tfind k (t.filter fun e => p e.1) = if p k then tfind k t else none := by
  induction t with
  | nil => simp [tfind]
  | cons e t ih =>
    obtain ⟨j, v⟩ := e
    by_cases hjk : j = k
    · subst hjk
      by_cases hp : p j <;> simp [hp, tfind, ih]
    · by_cases hp : p j <;> simp [hp, tfind, hjk, ih]

/-- A line that a scrub zeroes in a slot of a span. -/
def scrubHits (ws : List (Nat × Nat)) (a b line : Nat) : Bool := (scrubPos ws line).any fun k => decide (a ≤ k ∧ k < b)

theorem Mem.tfind_zeroed (m : Mem) (ws : List (Nat × Nat)) (a b line : Nat) :
    tfind line (m.zeroed ws a b).lines = if scrubHits ws a b line then none else tfind line m.lines := by
  refine (tfind_filter_key (fun l => !scrubHits ws a b l) line m.lines).trans ?_
  cases scrubHits ws a b line <;> rfl

theorem scrubHits_of_scrubPos {ws : List (Nat × Nat)} {a b line k : Nat} (hk : scrubPos ws line = some k) (ha : a ≤ k) (hb : k < b) :
    scrubHits ws a b line = true := by
  simp [scrubHits, hk, ha, hb]

theorem scrubHits_eq_false {ws : List (Nat × Nat)} {a b line : Nat} (h : ∀ k, scrubPos ws line = some k → k < a ∨ b ≤ k) :
    scrubHits ws a b line = false := by
  cases hk : scrubPos ws line with
  | none => simp [scrubHits, hk]
  | some k =>
    have := h k hk
    simp [scrubHits, hk]
    omega

/-- The slots of the present group that a scrub takes on each channel. -/
def State.scrubSlots (s : State) : Nat :=
  (radioGroup (s.groupOf s.now)).elim (if tenantGroup (s.groupOf s.now) then 13 else 0) fun r => 13 - (s.claimedSlots s.now r).length

/-- A group of a scrub takes its slots, up to the end of the windows. -/
theorem State.scrubStep_eq {s : State} {ws : List (Nat × Nat)} {p : Nat} (h : s.mem.scrub = some (ws, p)) :
    s.scrubStep = (s.modMem fun m => { m.zeroed ws p (Nat.min (33 * scrubUnits ws) (p + s.scrubSlots)) with
        scrub := some (ws, Nat.min (33 * scrubUnits ws) (p + s.scrubSlots)) }).fset (creg .memScrub) 63 16
      (Nat.min (33 * scrubUnits ws) (p + s.scrubSlots) / 33) := by
  simp only [State.scrubStep, h, State.scrubSlots]
  cases radioGroup (s.groupOf s.now) <;> rfl

/-! ## Register writes that start a repair or a scrub (R259, R263, R265) -/

theorem State.reservedBits_eq (s : State) (r : Reg) (value : W64) : ∃ l, s.reservedBits r value = { s with log := l } := by
  unfold State.reservedBits
  split
  · exact ⟨_, rfl⟩
  · exact s.logRec_log_only _

/-- A write of MEM_REPAIR with GO fails the row that it names. -/
theorem execMemRepairGo_eq {s : State} {a : Agent} {value : W64} (may : mayMem a = true) (go : bit value 32 = true) (ch : bits value 7 0 < 160)
    (row : bits value 26 8 < 486606) :
    execMemRepairGo a value s = .next ((s.reservedBits (creg .memRepair) value).failRow (bits value 7 0) (bits value 26 8)) := by
  have named : ¬ (160 ≤ bits value 7 0 ∨ 486606 ≤ bits value 26 8) := by omega
  simp only [execMemRepairGo, if_pos may, go, Bool.not_true, Bool.false_eq_true, if_false, if_neg named]

/-- A write of MEM_SCRUB with GO starts a scrub of the windows. -/
theorem execMemScrubGo_eq {s : State} {a : Agent} {value : W64} (may : mayMem a = true) (go : bit value 0 = true) (idle : s.mem.scrub = none) :
    ∃ l, execMemScrubGo a value s = .next ((State.modMem { s with log := l } fun m => { m with
        scrub := some (([dwinOf (s.rget (creg .memScrubWin 0)), dwinOf (s.rget (creg .memScrubWin 1))].filter (·.valid)).map (·.lines), 0) }).fset
      (creg .memScrub) 63 16 0) := by
  obtain ⟨l, e⟩ := s.reservedBits_eq (creg .memScrub) value
  refine ⟨l, ?_⟩
  simp only [execMemScrubGo, if_pos may, go, Bool.not_true, Bool.false_eq_true, if_false, e, State.startScrub, idle]
  rfl

end Sys2Proof.Machine
open Sys2Proof Sys2Proof.Machine

/-- Settles O20: each command by the rule of its function, on the channel, the check line or the row that it names. -/
theorem memoryCompletes : Obligations.MemoryCompletes := by
  unfold Obligations.MemoryCompletes
  refine ⟨?_, ?_, ?_, ?_, ?_, ?_, ?_, ?_, ?_, ?_⟩
  · intro s ch n before q after hw hch hn oldest turn room allowed
    refine .of_eq rfl (lineAccept_eq hw ⟨hch, hn⟩ oldest turn room allowed) ⟨rfl, ?_⟩
    rw [State.chan_modChan, State.chan_modChan]
    exact ⟨rfl, rfl⟩
  · intro s ch line upset q v g free idle room first
    have queued := mem_of_pickOp first
    refine .of_eq rfl (lineSlot_eq rfl free idle room first) ⟨v.used_serveOp _ q g, fun d p once hop => State.line_serveOp_write once hop g,
      fun d p h later => State.line_serveOp_second later g, fun d good once => ⟨fun half i hop hd => ?_, fun e hop => ?_, fun e hop => ?_⟩⟩
    · exact State.mem_replies_serveOp once good hop hd
    · exact State.mem_accepted_serveOp once good queued (fp := false) hop
    · exact State.mem_accepted_serveOp once good queued (fp := true) hop
  · intro s rim ch block e key n he die dirty slots
    have written := checkWriteback_eq (block := block) (key := key) rfl he die dirty slots
    clear_value key
    refine .of_eq rfl written ?_
    rw [State.chan_modChan, State.modChan_mem, State.modMem_mem]
    exact ⟨fun i hi valid => Mem.check_settle _ key e hi valid, Mem.entry_settle _ key e, rfl⟩
  · intro s ch r line v n hr reads hl tenant idle free
    have slots : v.copySlots ch.val r = n := State.copySlots_of_read reads hl
    refine .of_eq rfl ((repairRow_eq hr (by omega) tenant idle (slots ▸ free)).trans (State.copySlot_of_read reads hl)) ?_
    rw [State.chan_modChan]
    refine ⟨?_, _, rfl, rfl, rfl, rfl, fun d clean => ?_⟩
    · exact (((State.KeepsService.refl _).copyRead line).used ch.val).trans ((v.used_useSlots _ _).trans (congrArg _ slots))
    · have read : ((v.useSlots ch.val (v.copySlots ch.val r)).copyRead line).1 = (d, false, false) := State.copyRead_data clean
      exact (tfind_tput _ _ _ _).trans ((if_pos rfl).trans (congrArg some read))
  · intro s ch r v hr writes runs tenant idle free
    have slots : v.copySlots ch.val r = 1 := v.copySlots_of_write ch.val writes
    obtain ⟨u, mem, copied⟩ := State.copySlot_of_write (s := v.useSlots ch.val (v.copySlots ch.val r)) (ch := ch.val) writes
    have sameStart : (v.useSlots ch.val (v.copySlots ch.val r)).groupStart (v.useSlots ch.val (v.copySlots ch.val r)).now = s.groupStart s.now :=
      State.Alters.groupStart_now (((State.Alters.refl s).inGroup ch.val).modChan ch.val _)
    refine .of_eq rfl ((repairRow_eq hr runs tenant idle (slots ▸ free)).trans copied) ?_
    rw [State.chan_modChan, sameStart]
    refine ⟨?_, rfl⟩
    rw [State.chan, mem, ← State.chan, slots]
    exact v.used_useSlots _ _
  · intro s ch r hr
    split
    · next runs => exact State.repairSwitch_of_lt hr runs
    · next ended => exact State.repaired_repairSwitch hr ended
  · intro s ch row rest hr hf
    obtain ⟨repair, failing, spares⟩ := s.chan_inGroup_repairs ch.val
    have unrepaired : ((s.inGroup ch.val).chan ch.val).repair = none := repair.trans hr
    have started : repairRow ch.val s = (s.inGroup ch.val).startRepair ch.val := by simp only [repairRow, unrepaired]
    refine .of_eq rfl (started.trans (State.startRepair_of_failing unrepaired (failing.trans hf))) ?_
    rw [spares]
    split
    · rw [State.chan_modChan, ← spares]
      exact ⟨rfl, rfl⟩
    · rw [State.degrade_chan, State.chan_modChan]
      exact ⟨rfl, State.degrade_degraded _ _ _ _⟩
  · intro s a value may go ch row
    exact ⟨_, execMemRepairGo_eq may go ch row, State.attends_failRow _ _ _⟩
  · intro s a value may go idle
    obtain ⟨l, started⟩ := execMemScrubGo_eq may go idle
    exact ⟨_, started, rfl, State.fget_fset _ _ 0 (by decide) (by decide)⟩
  · intro s ws p h g n q
    rw [State.scrubStep_eq h]
    refine ⟨rfl, State.fget_fset _ _ _ (by decide) (by decide), fun line k hk hp hq => ?_, fun line other => ?_⟩
    · have hit : scrubHits ws p q line = true := scrubHits_of_scrubPos hk hp hq
      exact congrArg (·.getD 0) ((Mem.tfind_zeroed s.mem ws p q line).trans (if_pos hit))
    · exact (Mem.tfind_zeroed s.mem ws p q line).trans (if_neg (by rw [scrubHits_eq_false other]; decide))
end

section
/-!
A port's queues across a cycle: frames that arrive join them for later cycles, and what a change of a port leaves to be seen (R284, R285).
-/
set_option Elab.async false
namespace Sys2Proof.Machine

/-! ## Frames join their queues -/

/-- The frames of a queue that have arrived and not yet joined it. -/
def PortSt.arrived (p : PortSt) (q : Nat) : List Bytes := (p.fresh.filter fun x => decide (x.1 = q)).map (·.2)

/-- The frames that have arrived for one queue join it. -/
def PortSt.join (tt : Nat → Bool) (p : PortSt) (q : Nat) : PortSt :=
  { p with
    queues := tput q (tget [] p.queues q ++ p.arrived q) p.queues
    cur := if tget [] p.queues q = [] ∧ !tt q then enq p.cur q else p.cur
    deficit := if tget [] p.queues q = [] then tdel q p.deficit else p.deficit
    fresh := p.fresh.filter fun x => decide (x.1 ≠ q) }

/-- The queues for which frames have arrived. -/
def PortSt.joining (p : PortSt) : List Nat := (List.range 256).filter fun q => p.fresh.any fun x => decide (x.1 = q)

theorem PortSt.joined_eq (p : PortSt) (tt : Nat → Bool) : p.joined tt = p.joining.foldl (PortSt.join tt) p := rfl

theorem PortSt.mem_joining {p : PortSt} {q : Nat} (h : q < 256) : q ∈ p.joining ↔ ∃ x ∈ p.fresh, x.1 = q := by
  simp [PortSt.joining, h]

theorem PortSt.arrived_eq_nil {p : PortSt} {q : Nat} : p.arrived q = [] ↔ ∀ x ∈ p.fresh, x.1 ≠ q := by
  simp [PortSt.arrived]

section
variable (tt : Nat → Bool) (p : PortSt)

theorem PortSt.queue_join (q k : Nat) :
    tget [] (p.join tt q).queues k = if k = q then tget [] p.queues q ++ p.arrived q else tget [] p.queues k := tget_tput _ _ _ _ _

theorem PortSt.arrived_join (q k : Nat) : (p.join tt q).arrived k = if k = q then [] else p.arrived k := by
  split
  · next h => exact PortSt.arrived_eq_nil.mpr fun x hx => h ▸ of_decide_eq_true (List.mem_filter.mp hx).2
  · next h =>
    refine congrArg (List.map _) ((List.filter_filter).trans (List.filter_congr fun x _ => ?_))
    by_cases hk : x.1 = k
    · simp [hk, h]
    · simp [hk]

/-- A queue after frames have joined those of a list. -/
theorem PortSt.queue_foldl_join (k : Nat) (l : List Nat) :
    tget [] (l.foldl (PortSt.join tt) p).queues k = tget [] p.queues k ++ if k ∈ l then p.arrived k else [] := by
  induction l generalizing p with
  | nil => simp
  | cons q l ih =>
    rw [List.foldl_cons, ih, PortSt.queue_join, PortSt.arrived_join]
    by_cases h : k = q
    · subst h; simp
    · simp [h]

theorem PortSt.fresh_foldl_join (l : List Nat) : ∀ x ∈ (l.foldl (PortSt.join tt) p).fresh, x ∈ p.fresh ∧ x.1 ∉ l := by
  induction l generalizing p with
  | nil => exact fun x hx => ⟨hx, by simp⟩
  | cons q l ih =>
    intro x hx
    obtain ⟨old, out⟩ := ih _ x hx
    obtain ⟨old, ne⟩ := List.mem_filter.mp old
    exact ⟨old, by simpa [out] using ne⟩

theorem PortSt.mem_cur_foldl_join {k : Nat} (l : List Nat) (h : k ∈ p.cur) : k ∈ (l.foldl (PortSt.join tt) p).cur := by
  refine List.foldlRecOn (motive := fun v : PortSt => k ∈ v.cur) l _ h fun v hv q _ => ?_
  change k ∈ ite _ _ _
  split
  · exact List.mem_append_left _ hv
  · exact hv

/-- An empty queue that is not time-triggered becomes active when frames join it (R284). -/
theorem PortSt.active_foldl_join {k : Nat} (free : tt k = false) (l : List Nat) (hk : k ∈ l) (empty : tget [] p.queues k = []) :
    k ∈ (l.foldl (PortSt.join tt) p).cur := by
  induction l generalizing p with
  | nil => simp at hk
  | cons q l ih =>
    by_cases h : k = q
    · subst h
      refine PortSt.mem_cur_foldl_join tt _ l ?_
      change k ∈ ite _ _ _
      rw [if_pos ⟨empty, by rw [free]; rfl⟩]
      exact mem_enq _ _
    · exact ih _ ((List.mem_cons.mp hk).resolve_left h) (by rw [PortSt.queue_join, if_neg h, empty])

theorem PortSt.queue_joined {k : Nat} (h : k < 256) : tget [] (p.joined tt).queues k = tget [] p.queues k ++ p.arrived k := by
  rw [PortSt.joined_eq, PortSt.queue_foldl_join]
  split
  · rfl
  · next absent =>
    rw [PortSt.mem_joining h] at absent
    rw [PortSt.arrived_eq_nil.mpr fun x hx e => absent ⟨x, hx, e⟩]

theorem PortSt.active_joined {k : Nat} (h : k < 256) (free : tt k = false) (empty : tget [] p.queues k = []) (came : ∃ x ∈ p.fresh, x.1 = k) :
    k ∈ (p.joined tt).cur := PortSt.active_foldl_join tt p free _ ((PortSt.mem_joining h).mpr came) empty

/-- No frame of one of the 256 queues is left out. -/
theorem PortSt.fresh_joined : ∀ x ∈ (p.joined tt).fresh, 256 ≤ x.1 := by
  intro x hx
  obtain ⟨old, out⟩ := PortSt.fresh_foldl_join tt p _ x hx
  by_contra small
  exact out ((PortSt.mem_joining (Nat.lt_of_not_le small)).mpr ⟨x, old, rfl⟩)

theorem PortSt.joined_of_fresh (h : ∀ x ∈ p.fresh, 256 ≤ x.1) : p.joined tt = p := by
  have idle : p.joining = [] := List.filter_eq_nil_iff.mpr fun q hq => by
    have small := List.mem_range.mp hq
    simp only [List.any_eq_true, decide_eq_true_eq, not_exists, not_and]
    exact fun x hx e => absurd (h x hx) (by omega)
  rw [PortSt.joined_eq, idle]
  rfl

end

/-! ## What a cycle sees of a port -/

/-- A port that a cycle sees as it is kept: no frame of an earlier cycle is still to join. -/
def PortSt.settled (p : PortSt) (now : W64) : Prop := p.fresh = [] ∨ p.freshAt = now ∨ ∀ x ∈ p.fresh, 256 ≤ x.1

theorem State.portSt_eq (s : State) (l : Nat) :
    s.portSt l = tget {} s.ports l ∧ ((tget {} s.ports l).fresh = [] ∨ (tget {} s.ports l).freshAt = s.now) ∨ s.portSt l = s.portAll l := by
  unfold State.portSt
  dsimp only
  split
  · next h => exact .inl ⟨rfl, h⟩
  · exact .inr rfl

theorem State.portSt_settled (s : State) (l : Nat) : (s.portSt l).settled s.now := by
  rcases s.portSt_eq l with ⟨e, h | h⟩ | e
  · exact e ▸ .inl h
  · exact e ▸ .inr (.inl h)
  · exact e ▸ .inr (.inr (PortSt.fresh_joined _ _))

theorem State.portSt_of_settled {s : State} {l : Nat} (h : (tget {} s.ports l).settled s.now) : s.portSt l = tget {} s.ports l := by
  rcases s.portSt_eq l with ⟨e, -⟩ | e
  · exact e
  · unfold State.portSt
    dsimp only
    split
    · rfl
    · next other =>
      rcases h with h | h | h
      · exact absurd (.inl h) other
      · exact absurd (.inr h) other
      · exact PortSt.joined_of_fresh _ _ h

/-- A port that was changed, but for the frames still to join it, is seen as it was made. -/
theorem State.portSt_of_modPort {s u : State} {l : Nat} {f : PortSt → PortSt} (ports : u.ports = (s.modPort l f).ports) (now : u.now = s.now)
    (hf : ∀ p, (f p).fresh = p.fresh ∧ (f p).freshAt = p.freshAt) : u.portSt l = f (s.portSt l) := by
  have e : tget {} u.ports l = f (s.portSt l) := by rw [ports, State.modPort_ports, tget_tset, if_pos rfl]
  refine (State.portSt_of_settled ?_).trans e
  rw [e, now, PortSt.settled, (hf _).1, (hf _).2]
  exact s.portSt_settled l

theorem State.portSt_modPort (s : State) (l : Nat) {f : PortSt → PortSt}
    (hf : ∀ p, (f p).fresh = p.fresh ∧ (f p).freshAt = p.freshAt := by exact fun _ => ⟨rfl, rfl⟩) :
    (s.modPort l f).portSt l = f (s.portSt l) := State.portSt_of_modPort rfl rfl hf

/-- Every frame of a queue, in it or still to join it. -/
theorem State.queue_portAll (s : State) {l q : Nat} (h : q < 256) :
    tget [] (s.portAll l).queues q = tget [] (s.portSt l).queues q ++ (s.portSt l).arrived q := by
  rcases s.portSt_eq l with ⟨e, -⟩ | e
  · rw [e]; exact PortSt.queue_joined _ _ h
  · have joined : (s.portAll l).arrived q = [] := PortSt.arrived_eq_nil.mpr fun x hx => Nat.ne_of_gt (Nat.lt_of_lt_of_le h (PortSt.fresh_joined _ _ x hx))
    rw [e, joined, List.append_nil]

end Sys2Proof.Machine
end

section
/-!
The commands of the Ethernet ports: enqueues, windows, frame starts and links (R273-R287).
-/
set_option Elab.async false
namespace Sys2Proof.Machine

/-! ## Queues (R274, R275, R285) -/

/-- The frame finds no room in its queue or in its port (R274). -/
def State.overfull (s : State) (l q : Nat) (b : Bytes) : Prop :=
  1024 * Nat.max 1 (bits (s.qReg l q) 34 24) < heldBytes (tget [] (s.portAll l).queues q) + wireLen b
    ∨ 2097152 < sumNat ((s.portAll l).queues.map fun x => heldBytes x.2) + wireLen b

theorem State.enqueue_of_overfull {s : State} {l q : Nat} {b : Bytes} (port : s.isEthernet l = true) (on : bit (s.qReg l q) 21 = true)
    (full : s.overfull l q b) : s.enqueue l q b = s.finc ⟨.fhpTxstat, l, 0⟩ 47 32 := by
  unfold State.enqueue
  dsimp only
  rw [if_neg (by simp [port, on])]
  exact if_pos full

theorem State.enqueue_of_room {s : State} {l q : Nat} {b : Bytes} (port : s.isEthernet l = true) (on : bit (s.qReg l q) 21 = true)
    (room : ¬ s.overfull l q b) : s.enqueue l q b = s.modPort l fun p => { p with fresh := enq p.fresh (q, b), freshAt := s.now } := by
  unfold State.enqueue
  dsimp only
  rw [if_neg (by simp [port, on])]
  exact if_neg room

theorem execEgressFrameEnqueue_of_fits {s : State} {p : Fin 24} {b : Bytes} (short : wireLen b ≤ s.maxFrame p.val) (q : Fin 256) :
    execEgressFrameEnqueue p q b s = .next (s.enqueue p.val q.val b) := guarded_true (decide_eq_true short) _ s

/-- The port after the frame has arrived, with every frame in its queue. -/
theorem State.portAll_arrive (s : State) (l q : Nat) (b : Bytes) :
    (s.modPort l fun p => { p with fresh := enq p.fresh (q, b), freshAt := s.now }).portAll l
      = PortSt.joined { s.portSt l with fresh := enq (s.portSt l).fresh (q, b), freshAt := s.now } fun q => bit (s.qReg l q) 20 := by
  unfold State.portAll
  rw [State.modPort_ports, tget_tset, if_pos rfl]
  rfl

theorem State.queue_arrive (s : State) (l : Nat) {q : Nat} (h : q < 256) (b : Bytes) :
    tget [] ((s.modPort l fun p => { p with fresh := enq p.fresh (q, b), freshAt := s.now }).portAll l).queues q
      = enq (tget [] (s.portAll l).queues q) b := by
  rw [s.portAll_arrive, PortSt.queue_joined _ _ h, s.queue_portAll h]
  simp [PortSt.arrived, enq]

theorem State.active_arrive {s : State} {l q : Nat} (h : q < 256) (b : Bytes) (free : bit (s.qReg l q) 20 = false)
    (empty : tget [] (s.portAll l).queues q = []) :
    q ∈ ((s.modPort l fun p => { p with fresh := enq p.fresh (q, b), freshAt := s.now }).portAll l).cur := by
  rw [s.queue_portAll h] at empty
  rw [s.portAll_arrive]
  exact PortSt.active_joined _ _ h free (List.append_eq_nil_iff.mp empty).1 ⟨(q, b), mem_enq _ _, rfl⟩

/-! ## Windows (R278-R280) -/

theorem State.bit_of_ttwAt {s : State} {l w : Nat} {v : W64} {x : W64 × W64} (h : s.ttwAt l w v = some x) : bit (s.rget ⟨.fhpTtw, l, w⟩) 44 = true := by
  by_contra off
  simp [State.ttwAt, off] at h

theorem execTtWindowOpen_of_opening {s : State} {p : Fin 24} {w : Fin 64} {c : W64} (h : s.ttwAt p.val w.val s.now = some (s.now, c)) :
    execTtWindowOpen p w s
      = .next (s.modPort p.val fun x => { x with opened := if x.opened.contains w.val then x.opened else w.val :: x.opened }) :=
  guarded_true (by rw [h]; exact decide_eq_true rfl) _ s

theorem execTtWindowClose_of_closing {s : State} {p : Fin 24} {w : Fin 64} {o : W64} (h : s.ttwAt p.val w.val (s.now - 1) = some (o, s.now)) :
    execTtWindowClose p w s = .next (ttClose p.val w.val s) :=
  guarded_true (by dsimp only; rw [h]; simp [State.bit_of_ttwAt h]) _ s

theorem opened_ttWindowOpen (s : State) (l w : Nat) :
    w ∈ ((s.modPort l fun p => { p with opened := if p.opened.contains w then p.opened else w :: p.opened }).portSt l).opened := by
  rw [State.portSt_modPort]
  dsimp only
  split
  · next h => exact List.contains_iff_mem.mp h
  · exact List.mem_cons_self

/-- A port whose window with entry `e` closes: what its queues still hold is discarded. -/
def PortSt.closed (e : W64) (w : Nat) (p : PortSt) : PortSt :=
  { p with queues := p.queues.filter fun x => !decide (bits e 55 48 ≤ x.1 ∧ x.1 ≤ bits e 63 56), opened := p.opened.filter (· ≠ w) }

theorem PortSt.queue_closed (p : PortSt) {e : W64} {w q : Nat} (first : bits e 55 48 ≤ q) (last : q ≤ bits e 63 56) :
    tget [] (p.closed e w).queues q = [] := by
  refine congrArg (·.getD []) ((tfind_filter_key (fun k => !decide (bits e 55 48 ≤ k ∧ k ≤ bits e 63 56)) q p.queues).trans (if_neg ?_))
  simp [first, last]

theorem PortSt.not_mem_opened_closed (p : PortSt) (e : W64) (w : Nat) : w ∉ (p.closed e w).opened := by
  simp [PortSt.closed]

theorem ttClose_eq (l w : Nat) (s : State) :
    ∃ n, ttClose l w s = (s.finc ⟨.fhpTxstat, l, 0⟩ 63 48 n).modPort l (PortSt.closed (s.rget ⟨.fhpTtw, l, w⟩) w) := ⟨_, rfl⟩

theorem portSt_ttClose (l w : Nat) (s : State) : ∃ p : PortSt, (ttClose l w s).portSt l = p.closed (s.rget ⟨.fhpTtw, l, w⟩) w := by
  obtain ⟨n, e⟩ := ttClose_eq l w s
  exact ⟨_, e ▸ State.portSt_modPort (f := PortSt.closed (s.rget ⟨.fhpTtw, l, w⟩) w) _ l⟩

/-! ## Frame starts (R273, R276, R277, R281, R283) -/

/-- What leaves the part as a frame of a queue starts (R270, R289, R304). -/
def State.sentFrame (s : State) (l q : Nat) (b : Bytes) (t : W64) : Emit :=
  let b := if q = 192 ∧ bits (s.rget ⟨.fhpCfg, l, 0⟩) 2 0 = 1 then Config.delayStamp b (s.mdi16 l t) else b
  .frame (fin 24 l) (b ++ fcsOf b) t (s.mdi16 l t)

theorem State.out_startFrame (s : State) (l q : Nat) (b : Bytes) (t : W64) : (s.startFrame l q b t).out = s.sentFrame l q b t :: s.out := rfl

/-- The port after a frame has left its queue. -/
theorem State.portSt_startFrame (s : State) (l q : Nat) (b : Bytes) (t : W64) : (s.startFrame l q b t).portSt l =
    { s.portSt l with
      queues := if (tget [] (s.portSt l).queues q).tail = [] then tdel q (s.portSt l).queues else tput q (tget [] (s.portSt l).queues q).tail (s.portSt l).queues
      freeAt := t + BitVec.ofNat 64 (s.occupancy l (s.cost l b)) } :=
  State.portSt_of_modPort (f := fun p => { p with
    queues := if (tget [] (s.portSt l).queues q).tail = [] then tdel q p.queues else tput q (tget [] (s.portSt l).queues q).tail p.queues
    freeAt := t + BitVec.ofNat 64 (s.occupancy l (s.cost l b)) }) rfl rfl fun _ => ⟨rfl, rfl⟩

theorem State.queue_startFrame (s : State) (l q : Nat) (b : Bytes) (t : W64) :
    tget [] ((s.startFrame l q b t).portSt l).queues q = (tget [] (s.portSt l).queues q).tail := by
  rw [s.portSt_startFrame]
  dsimp only
  split
  · next h => rw [h, tget, tfind_tdel, if_pos rfl]; rfl
  · rw [tget_tput, if_pos rfl]

/-- The first entry whose key passes is what its key reads. -/
theorem tfind_of_find?_key {α : Type} {f : Nat → Bool} {t : Tab α} {q : Nat} {v : α} (h : (t.find? fun x => f x.1) = some (q, v)) : tfind q t = some v := by
  induction t with
  | nil => simp at h
  | cons e t ih =>
    obtain ⟨j, w⟩ := e
    rw [List.find?_cons] at h
    rw [tfind]
    split at h
    · obtain ⟨rfl, rfl⟩ : j = q ∧ w = v := by simpa using h
      exact if_pos rfl
    · next out =>
      have passes : f q = true := List.find?_some (p := fun x : Nat × α => f x.1) h
      rw [if_neg fun e => by simp [e, passes] at out]
      exact ih h

/-- The scheduler changes its lists only. -/
theorem State.drrPick_only (l n : Nat) (s : State) : ∃ p, (s.drrPick l n).2 = { s with ports := p } := by
  induction n generalizing s with
  | zero => exact ⟨_, rfl⟩
  | succ n ih =>
    have moved (u : State) (hu : ∃ p, u = { s with ports := p }) (f : PortSt → PortSt) : ∃ p, u.modPort l f = { s with ports := p } := by
      obtain ⟨p, rfl⟩ := hu
      exact ⟨_, rfl⟩
    have again (u : State) (hu : ∃ p, u = { s with ports := p }) : ∃ p, (u.drrPick l n).2 = { s with ports := p } := by
      obtain ⟨p, rfl⟩ := hu
      exact ih _
    unfold State.drrPick
    dsimp only
    generalize (if (s.portSt l).visiting.isNone = true ∧ (s.portSt l).cur = [] then _ else _ : PortSt) = p
    split
    · exact moved s ⟨_, rfl⟩ fun _ => p
    · generalize (if p.visiting.isNone = true then _ else p : PortSt) = p'
      have taken := moved s ⟨_, rfl⟩ fun _ => p'
      split
      · exact again _ (moved _ taken _)
      · split
        · exact taken
        · exact again _ (moved _ taken _)

/-- The scheduler's frame starts where no window stands in its way. -/
theorem State.drrStart_of_pick {s v : State} {l q : Nat} {b : Bytes} {t : W64} (pick : s.drrPick l 2400000 = (some (q, b), v))
    (clear : ∀ o, v.ttwNext l t = some o → t + BitVec.ofNat 64 (v.occupancy l (v.cost l b)) ≤ o) :
    ∃ f : PortSt → PortSt, s.drrStart l t = (v.startFrame l q b t).modPort l f
      ∧ ∀ p, (f p).fresh = p.fresh ∧ (f p).freshAt = p.freshAt ∧ (f p).freeAt = p.freeAt := by
  unfold State.drrStart
  rw [pick]
  dsimp only
  rw [if_neg (by
    cases next : v.ttwNext l t with
    | none => simp
    | some o => simp [clear o next])]
  refine ⟨_, rfl, fun p => ?_⟩
  split <;> exact ⟨rfl, rfl, rfl⟩

section
variable {s : State} {l : Nat} (port : s.isEthernet l = true) (up : bit (s.rget ⟨.fhpStatus, l, 0⟩) 0 = true)
  (talks : ¬ (bits (s.rget ⟨.fhpCfg, l, 0⟩) 2 0 = 1 ∧ s.txIdle (s.now + 128) = true)) (free : (s.portSt l).freeAt ≤ s.now + 128)
include port up talks free

theorem ready_egressStart : ¬ ((!s.isEthernet l) = true ∨ (!bit (s.rget ⟨.fhpStatus, l, 0⟩) 0) = true
    ∨ (bits (s.rget ⟨.fhpCfg, l, 0⟩) 2 0 = 1 ∧ s.txIdle (s.now + 128) = true) ∨ s.now + 128 < (s.portSt l).freeAt) := by
  simp only [port, up, Bool.not_true, Bool.false_eq_true, false_or, not_or, BitVec.not_lt]
  exact ⟨talks, free⟩

/-- The frame at the head of an open window's first queue starts where it ends before the window closes (R281). -/
theorem egressStart_of_window {e c : W64} {q : Nat} {b : Bytes} {rest : List Bytes} (window : s.ttwOpen l (s.now + 128) = some (e, c))
    (head : ((s.portSt l).queues.find? fun x => decide (bits e 55 48 ≤ x.1 ∧ x.1 ≤ bits e 63 56)) = some (q, b :: rest))
    (ends : s.now + 128 + BitVec.ofNat 64 (s.occupancy l (s.cost l b)) ≤ c) : egressStart l s = s.startFrame l q b (s.now + 128) := by
  unfold egressStart
  dsimp only
  rw [if_neg (ready_egressStart port up talks free), window]
  simp only [head, Option.bind_some, List.head?_cons, if_pos ends]

theorem egressStart_of_none (closed : s.ttwOpen l (s.now + 128) = none) : egressStart l s = s.drrStart l (s.now + 128) := by
  unfold egressStart
  dsimp only
  rw [if_neg (ready_egressStart port up talks free), closed]

end

/-! ## Links (R287, R395) -/

/-- Each lane of the port shows the link (R288). -/
theorem status_linkChange (s : State) (l : Nat) (up : Bool) {k : Nat} (hk : k < 24) (lane : s.rget ⟨.fhpCfg, k, 0⟩ = s.rget ⟨.fhpCfg, l, 0⟩) :
    (linkChange l up s).rget ⟨.fhpStatus, k, 0⟩ = BitVec.ofNat 64 (if up then 3 else 0) := by
  unfold linkChange
  dsimp only
  rw [State.rget_congr (State.logRec_regs _ _)]
  have shown := State.rget_foldl_rset (fun k => ⟨.fhpStatus, k, 0⟩) (BitVec.ofNat 64 (if up then 3 else 0)) (r := ⟨.fhpStatus, k, 0⟩)
    ((List.range 24).filter fun k => decide (s.rget ⟨.fhpCfg, k, 0⟩ = s.rget ⟨.fhpCfg, l, 0⟩)) s
    (.inl (List.mem_map_of_mem (List.mem_filter.mpr ⟨List.mem_range.mpr hk, decide_eq_true lane⟩)))
  exact ((State.Alters.onlyIf (cs := [.regs]) (ns := some [.fhpMisc]) (here := none) (.refl _) fun h => h.finc _ _ _ _).reg _ rfl).trans shown

/-- What a change of the time source may change: the servo's registers and state, a record, and what the part sends. -/
abbrev State.AltersServo (s u : State) : Prop := s.Alters [.regs, .time, .log, .out] (some [.atbFreq, .atbStat, .atbState]) none u

theorem State.Alters.ppsLow {s u : State} (h : s.AltersServo u) : s.AltersServo u.ppsLow := by
  unfold State.ppsLow
  exact h.onlyIf fun h => h.parts [.time, .out]

theorem State.Alters.toServo {s u : State} (h : s.AltersServo u) (n : Nat) : s.AltersServo (u.toServo n) := by
  have kept : s.AltersServo u.keepFreq := h.unless fun h => h.rset _ _
  unfold State.toServo
  dsimp only
  generalize u.keepFreq = v at kept
  refine .ppsLow (.unless (.fset (kept.parts [.time]) _ _ _ _) fun h => h.fset _ _ _ _)

theorem State.Alters.timeLost {s u : State} (h : s.AltersServo u) (code : BitVec 16) : s.AltersServo (u.timeLost code) := by
  have noted : s.AltersServo (u.srcRec code) := (h.finc _ _ _ _).logRec _
  unfold State.timeLost
  dsimp only
  generalize u.srcRec code = v at noted
  have lost : s.AltersServo (State.fset { v with time := { v.time with src :=
    { v.time.src with timeOk := false, selected := none, masters := [], ppsGood := 0, ppsBad := 0 } } } (creg .atbState) 6 4 0) :=
    (noted.parts [.time]).fset _ _ _ _
  exact .ite (.ite (lost.toServo _) (lost.toServo _)) (.ite (lost.toServo _) lost)

theorem State.Alters.refreshQl {s u : State} (h : s.AltersServo u) : s.AltersServo u.refreshQl := by
  unfold State.refreshQl
  refine h.unless fun h => .fold (fun w p => ?_) h _
  exact State.Alters.onlyIf (.refl w) fun h => h.parts [.time, .out]

/-- What a Krovbem link that goes down may change (R395, R474). -/
theorem State.krovbemDown_alters (s : State) (port : Fin 7) :
    s.Alters [.regs, .time, .log, .fab, .out] (some [.atbFreq, .atbStat, .atbState, .fabPeer]) none (s.krovbemDown port) := by
  unfold State.krovbemDown State.setPeer
  dsimp only
  have down := ((State.Alters.refl (cs := [.regs, .time, .log, .fab, .out]) (ns := some [.atbFreq, .atbStat, .atbState, .fabPeer]) (here := none) s).fset
    (creg .fabPeer (s.chipAt port).val) 1 1 false.toNat).modFab fun f => { f with linkQ := tdel port.val f.linkQ }
  refine State.Alters.onlyIf (down.logRec _) fun h => ?_
  exact h.next (State.Alters.refreshQl (.timeLost (.refl _) _))

theorem status_linkDown (s : State) (l : Nat) {k : Nat} (hk : k < 24) (lane : s.rget ⟨.fhpCfg, k, 0⟩ = s.rget ⟨.fhpCfg, l, 0⟩) :
    (linkDown l s).rget ⟨.fhpStatus, k, 0⟩ = 0 := by
  have shown : (linkChange l false s).rget ⟨.fhpStatus, k, 0⟩ = 0 := status_linkChange s l false hk lane
  unfold linkDown
  dsimp only
  split
  · exact ((State.krovbemDown_alters _ _).reg _ rfl).trans shown
  · exact shown

end Sys2Proof.Machine
open Sys2Proof Sys2Proof.Machine

/-- Settles O23: each command by the rule of its function, on the port as the cycle sees it. -/
theorem portsComplete : Obligations.PortsComplete := by
  unfold Obligations.PortsComplete
  refine ⟨?_, ?_, ?_, ?_, ?_, ?_⟩
  -- EGRESS_FRAME_ENQUEUE
  · intro s p q b v held port on short
    refine ⟨_, execEgressFrameEnqueue_of_fits short q, ?_⟩
    split
    · next full =>
      rw [State.enqueue_of_overfull port on full]
      exact ⟨s.finc_ports _ _ _ _, (s.rget_finc _ _ _ _ _).trans (if_pos rfl)⟩
    · next room =>
      rw [State.enqueue_of_room port on room]
      exact ⟨s.queue_arrive p.val q.isLt b, State.active_arrive q.isLt b⟩
  -- TT_WINDOW_OPEN
  · intro s p w c h
    exact ⟨_, execTtWindowOpen_of_opening h, opened_ttWindowOpen s p.val w.val⟩
  -- TT_WINDOW_CLOSE
  · intro s p w o h
    obtain ⟨x, left⟩ := portSt_ttClose p.val w.val s
    refine ⟨_, execTtWindowClose_of_closing h, ?_⟩
    dsimp only
    rw [left]
    exact ⟨x.not_mem_opened_closed _ _, fun q first last => x.queue_closed first last⟩
  -- EGRESS_FRAME_START
  · intro s p l t sent port up talks free
    have sent_eq (q : Nat) (b : Bytes) : s.sentFrame l q b t = sent q b :=
      congrArg (fun k => Emit.frame k _ _ _) (Fin.ext (Nat.mod_eq_of_lt p.isLt))
    refine ⟨fun e c q b rest window head ends => ?_, fun q b v closed pick clear => ?_⟩
    · have held : tget [] (s.portSt l).queues q = b :: rest :=
        congrArg (·.getD []) (tfind_of_find?_key (f := fun k => decide (bits e 55 48 ≤ k ∧ k ≤ bits e 63 56)) head)
      refine .of_eq rfl (egressStart_of_window port up talks free window head ends) ?_
      rw [State.out_startFrame, State.queue_startFrame, held, sent_eq]
      exact ⟨rfl, rfl⟩
    · obtain ⟨x, hv⟩ := s.drrPick_only l 2400000
      obtain rfl : v = { s with ports := x } := (congrArg Prod.snd pick).symm.trans hv
      obtain ⟨f, started, keeps⟩ := State.drrStart_of_pick pick clear
      refine .of_eq rfl ((egressStart_of_none port up talks free closed).trans started) ⟨?_, ?_⟩
      · rw [State.modPort_out, State.out_startFrame, ← sent_eq]
        rfl
      · rw [State.portSt_modPort _ _ fun p => ⟨(keeps p).1, (keeps p).2.1⟩, (keeps _).2.2, State.portSt_startFrame]
        rfl
  -- PORT_LINK_UP
  · intro s p port down
    refine ⟨portLinkUp p.val s, guarded_true (by simp [port, down]) _ s, ?_, fun k hk lane => ?_⟩
    · have := p.isLt
      rw [portLinkUp, State.rget_fset, if_pos rfl, bit_putBits _ _ _ (Nat.le_refl _) (by omega)]
      simp
    · rw [portLinkUp, State.rget_fset, if_neg (by simp)]
      exact status_linkChange s p.val true hk lane
  -- PORT_LINK_DOWN
  · intro s p port up
    exact ⟨linkDown p.val s, guarded_true (by simp [port, up]) _ s, fun k hk lane => status_linkDown s p.val hk lane⟩
end

section
/-!
The radio services: what the counts, records and gain decisions change, and what a frame's sections leave in its record (R271, R292-R300,
R313-R316).
-/
set_option Elab.async false
namespace Sys2Proof.Machine

/-! ## Rims and streams -/

@[simp] theorem State.rim_modRim (s : State) (r : Fin 4) (f : RimSt → RimSt) : (s.modRim r f).radio.rims.get r = f (s.radio.rims.get r) :=
  (vmod_get _ _ _ _).trans (if_pos rfl)

theorem State.rim_modStream (s : State) (r : Fin 4) (i : Nat) (f : StreamSt → StreamSt) :
    (s.modStream r i f).radio.rims.get r =
      { s.radio.rims.get r with streams := tput i (f (tget {} (s.radio.rims.get r).streams i)) (s.radio.rims.get r).streams } := s.rim_modRim r _

/-- What a rim die keeps of a stream. -/
def State.stream (s : State) (r : Fin 4) (i : Nat) : StreamSt := tget {} (s.radio.rims.get r).streams i

theorem State.stream_congr {s u : State} (h : u.radio = s.radio) (r : Fin 4) (i : Nat) : u.stream r i = s.stream r i := by
  rw [State.stream, State.stream, h]

@[simp] theorem State.stream_modStream (s : State) (r : Fin 4) (i : Nat) (f : StreamSt → StreamSt) : (s.modStream r i f).stream r i = f (s.stream r i) := by
  rw [State.stream, s.rim_modStream, tget_tput, if_pos rfl, State.stream]

@[simp] theorem State.modStream_regs (s : State) (r : Fin 4) (i : Nat) (f : StreamSt → StreamSt) : (s.modStream r i f).regs = s.regs := rfl

@[simp] theorem State.asm_modStream (s : State) (r : Fin 4) (i : Nat) (f : StreamSt → StreamSt) :
    ((s.modStream r i f).radio.rims.get r).asm = (s.radio.rims.get r).asm := by
  rw [s.rim_modStream]

/-! ## Counts and records of the log -/

/-- A cell's count is of the slices only. -/
theorem State.cellStat_only (s : State) (n k i m : Nat) : ∃ c, s.cellStat n k i m = { s with ctl := c } := by
  unfold State.cellStat
  dsimp only
  split
  · exact ⟨s.ctl, rfl⟩
  · exact ⟨_, rfl⟩

@[simp] theorem State.cellStat_regs (s : State) (n k i m : Nat) : (s.cellStat n k i m).regs = s.regs := by
  obtain ⟨c, e⟩ := s.cellStat_only n k i m
  rw [e]

@[simp] theorem State.cellStat_radio (s : State) (n k i m : Nat) : (s.cellStat n k i m).radio = s.radio := by
  obtain ⟨c, e⟩ := s.cellStat_only n k i m
  rw [e]

theorem State.rget_fhRec (s : State) (p : Fin 16) (code : BitVec 16) (detail : Bytes) (r : Reg) : (s.fhRec p code detail).rget r = s.rget r :=
  State.rget_congr (State.logRec_regs _ _) r

section
variable {cs : List Comp} {ns : Option (List RegName)} {here : Option LTile} {s u : State}

theorem State.Alters.modRim (h : s.Alters cs ns here u) (r : Fin 4) (f : RimSt → RimSt) (hc : cs.contains .radio = true := by rfl) :
    s.Alters cs ns here (u.modRim r f) := h.parts [.radio] (hl := by simpa using hc)

theorem State.Alters.modStream (h : s.Alters cs ns here u) (r : Fin 4) (i : Nat) (f : StreamSt → StreamSt) (hc : cs.contains .radio = true := by rfl) :
    s.Alters cs ns here (u.modStream r i f) := h.modRim r _ hc

theorem State.Alters.cellStat (h : s.Alters cs ns here u) (n k i m : Nat) (hc : cs.contains .ctl = true := by rfl) :
    s.Alters cs ns here (u.cellStat n k i m) := by
  obtain ⟨c, e⟩ := u.cellStat_only n k i m
  rw [e]
  exact h.parts [.ctl] (hl := by simpa using hc)

end

/-- What the classification of a frame may change: the rim dies' counts, cells' counts, records of the log, and what the rim dies keep. -/
abbrev State.AltersRadio (s u : State) : Prop := s.Alters [.regs, .ctl, .log, .radio] (some [.radStat, .radStat2]) none u

section
variable {s u : State} (h : s.AltersRadio u)
include h

theorem State.Alters.badFrame (rim : Fin 4) (p : Fin 16) (code : BitVec 16) (off : Nat) : s.AltersRadio (u.badFrame rim p code off) := by
  unfold State.badFrame State.fhRec
  exact (h.finc _ _ _ _).logRec _

theorem State.Alters.missFrame (rim : Fin 4) (i : Nat) (g : StreamRegs) (late : Bool) : s.AltersRadio (u.missFrame rim i g late) := by
  unfold State.missFrame State.streamRec
  exact (((State.Alters.ite (h.finc _ _ _ _) (h.finc _ _ _ _)).cellStat _ _ _ _).modStream _ _ _).logRec _

theorem State.Alters.placeFrame (rim : Fin 4) (i : Nat) (g : StreamRegs) (v : W64) (f : FhFrame) : s.AltersRadio (u.placeFrame rim i g v f) := by
  unfold State.placeFrame State.streamRec
  refine State.Alters.unless (.modRim (.onlyIf h fun h => ?_) rim _) fun h => ?_
  · exact ((h.finc _ _ _ _).cellStat _ _ _ _).logRec _
  · exact ((h.finc _ _ _ _).cellStat _ _ _ _).logRec _

theorem State.Alters.uplaneFrame (rim : Fin 4) (f : FhFrame) (ts16 : Nat) : s.AltersRadio (u.uplaneFrame rim f ts16) := by
  unfold State.uplaneFrame
  split
  · exact (h.finc _ _ _ _).logRec _
  · dsimp only
    refine .ite (h.badFrame _ _ _ _) ?_
    split
    · exact h.badFrame _ _ _ _
    · split
      · exact h.badFrame _ _ _ _
      · exact (State.Alters.ite (h.missFrame _ _ _ _) (.ite (h.missFrame _ _ _ _) (h.placeFrame _ _ _ _ _))).modStream _ _ _

end

/-! ## The records under assembly (R295, R296) -/

theorem RimSt.buf_of (r : RimSt) (i : Nat) (v : W64) : (r.buf i v).stream = i ∧ (r.buf i v).sym = v := by
  unfold RimSt.buf
  cases h : r.asm.find? fun a => decide (a.stream = i ∧ a.sym = v) with
  | none => exact ⟨rfl, rfl⟩
  | some a => exact of_decide_eq_true (List.find?_some (p := fun a : AsmBuf => decide (a.stream = i ∧ a.sym = v)) h)

theorem RimSt.buf_setBuf {a : AsmBuf} {i : Nat} {v : W64} (ha : a.stream = i ∧ a.sym = v) (r : RimSt) : (r.setBuf a).buf i v = a := by
  simp [RimSt.buf, RimSt.setBuf, ha]

/-- A section leaves a record that of its stream and symbol. -/
theorem AsmBuf.place_of (a : AsmBuf) (g : StreamRegs) (st : StreamSt) (x : USection) : (a.place g st x).1.stream = a.stream ∧ (a.place g st x).1.sym = a.sym := by
  have branch {c : Bool} {p q : AsmBuf × Bool} (hp : p.1.stream = a.stream ∧ p.1.sym = a.sym) (hq : q.1.stream = a.stream ∧ q.1.sym = a.sym) :
      (if c then p else q).1.stream = a.stream ∧ (if c then p else q).1.sym = a.sym := by
    cases c
    · exact hq
    · exact hp
  unfold AsmBuf.place
  refine branch ?_ ?_
  · exact ⟨rfl, rfl⟩
  · exact List.foldlRecOn (motive := fun b : AsmBuf => b.stream = a.stream ∧ b.sym = a.sym) _ _ ⟨rfl, rfl⟩ fun _ h _ _ => h

theorem AsmBuf.foldl_place_of (g : StreamRegs) (st : StreamSt) (l : List USection) (a : AsmBuf) :
    (l.foldl (fun b x => (b.place g st x).1) a).stream = a.stream ∧ (l.foldl (fun b x => (b.place g st x).1) a).sym = a.sym :=
  List.foldlRecOn (motive := fun b : AsmBuf => b.stream = a.stream ∧ b.sym = a.sym) _ _ ⟨rfl, rfl⟩ fun b h x _ =>
    ⟨(b.place_of g st x).1.trans h.1, (b.place_of g st x).2.trans h.2⟩

/-- The first frame of a stream leaves its sections in the record of its symbol. -/
theorem State.buf_placeFrame {s : State} {rim : Fin 4} {i : Nat} (first : (s.stream rim i).seq = none) (g : StreamRegs) (v : W64) (f : FhFrame) :
    ((s.placeFrame rim i g v f).radio.rims.get rim).buf i v
      = f.sections.foldl (fun a x => (a.place g (s.stream rim i) x).1) ((s.radio.rims.get rim).buf i v) := by
  have fst (l : List USection) (x : AsmBuf × Nat) :
      (l.foldl (fun (x : AsmBuf × Nat) sec => let y := x.1.place g (s.stream rim i) sec; (y.1, if y.2 then x.2 else x.2 + 1)) x).1
        = l.foldl (fun a x => (a.place g (s.stream rim i) x).1) x.1 := (List.foldl_hom Prod.fst fun _ _ => rfl).symm
  have kept : (s.placeFrame rim i g v f).radio
      = (s.modRim rim (·.setBuf (f.sections.foldl (fun a x => (a.place g (s.stream rim i) x).1) ((s.radio.rims.get rim).buf i v)))).radio := by
    unfold State.placeFrame
    unfold State.stream at first fst ⊢
    simp only [first, Bool.false_eq_true, if_false, fst]
    split
    · rfl
    · rw [State.streamRec, State.logRec_radio, State.cellStat_radio, State.finc_radio]
  rw [kept, State.rim_modRim, RimSt.buf_setBuf]
  obtain ⟨stream, sym⟩ := AsmBuf.foldl_place_of g (s.stream rim i) f.sections ((s.radio.rims.get rim).buf i v)
  obtain ⟨stream', sym'⟩ := (s.radio.rims.get rim).buf_of i v
  exact ⟨stream.trans stream', sym.trans sym'⟩

end Sys2Proof.Machine
end

section
/-!
A received frame, from its counts to its stream (R270, R271, R289, R292-R294, R481, R544).
-/
set_option Elab.async false
namespace Sys2Proof.Machine

/-! ## Frames outside their window, and frames refused -/

/-- A frame outside its window is counted, and its stream's next record says so (R294). -/
theorem State.radStat_missFrame (s : State) (rim : Fin 4) (i : Nat) (g : StreamRegs) (late : Bool) :
    (s.missFrame rim i g late).rget ⟨.radStat, rim.val, 0⟩
      = if late then satAdd (s.rget ⟨.radStat, rim.val, 0⟩) 15 0 1 else satAdd (s.rget ⟨.radStat, rim.val, 0⟩) 31 16 1 := by
  unfold State.missFrame
  dsimp only
  rw [State.streamRec, State.rget_congr (State.logRec_regs _ _), State.rget_congr (State.modStream_regs _ _ _ _), State.rget_congr (State.cellStat_regs _ _ _ _ _)]
  cases late
  · exact (s.rget_finc _ _ _ _ _).trans (if_pos rfl)
  · exact (s.rget_finc _ _ _ _ _).trans (if_pos rfl)

theorem State.lateSeen_missFrame (s : State) (rim : Fin 4) (i : Nat) (g : StreamRegs) (late : Bool) : ((s.missFrame rim i g late).stream rim i).lateSeen = true := by
  unfold State.missFrame
  dsimp only
  rw [State.streamRec, State.stream_congr (State.logRec_radio _ _), State.stream_modStream]

theorem State.radStat_badFrame (s : State) (rim : Fin 4) (p : Fin 16) (code : BitVec 16) (off : Nat) :
    (s.badFrame rim p code off).rget ⟨.radStat, rim.val, 0⟩ = satAdd (s.rget ⟨.radStat, rim.val, 0⟩) 63 48 1 := by
  rw [State.badFrame, State.rget_fhRec, State.rget_finc, if_pos rfl]

theorem State.badFrame_radio (s : State) (rim : Fin 4) (p : Fin 16) (code : BitVec 16) (off : Nat) : (s.badFrame rim p code off).radio = s.radio := by
  rw [State.badFrame, State.fhRec, State.logRec_radio, State.finc_radio]

/-! ## The classification reads the stream tables only (R292, R293) -/

/-- What the classification of a frame reads is the same in two states. -/
structure State.SameTables (s u : State) (rim : Fin 4) : Prop where
  streams : (u.radio.rims.get rim).streams = (s.radio.rims.get rim).streams
  regs : ∀ i, u.streamRegs rim.val i = s.streamRegs rim.val i
  off : ∀ v, u.off v = s.off v

theorem State.SameTables.of_alters {s u : State} {cs : List Comp} {l : List RegName} {here : Option LTile} (h : s.Alters cs (some l) here u) {rim : Fin 4}
    (streams : (u.radio.rims.get rim).streams = (s.radio.rims.get rim).streams)
    (hl : [RegName.radFkey, .radFact, .radFtime, .radFgain, .atbFrameOffset].all (fun n => !l.contains n) = true := by rfl) : s.SameTables u rim := by
  have same (r : Reg) (hr : r.name ∈ [RegName.radFkey, .radFact, .radFtime, .radFgain, .atbFrameOffset]) : u.rget r = s.rget r :=
    h.reg r (by simpa [allows] using List.all_eq_true.mp hl r.name hr)
  refine ⟨streams, fun i => ?_, fun v => ?_⟩
  · simp only [State.streamRegs]
    rw [same _ (by simp), same _ (by simp), same _ (by simp), same _ (by simp)]
  · rw [State.off, State.off, State.frameOff, State.frameOff, same _ (by simp)]

theorem State.SameTables.entryAt {s u : State} {rim : Fin 4} (h : s.SameTables u rim) (i : Nat) (v : W64) : u.entryAt rim i v = s.entryAt rim i v := by
  rw [State.entryAt, State.entryAt, h.streams, h.regs]

theorem State.SameTables.airOf {s u : State} {rim : Fin 4} (h : s.SameTables u rim) (f : FhFrame) (g : StreamRegs) (ts16 : Nat) :
    u.airOf f g ts16 = s.airOf f g ts16 := by
  simp only [State.airOf, State.nearest, h.off]

theorem State.SameTables.classify {s u : State} {rim : Fin 4} (h : s.SameTables u rim) (f : FhFrame) (ts16 : Nat) :
    u.classify rim f ts16 = s.classify rim f ts16 := by
  simp only [State.classify, h.streams, h.regs, h.airOf, h.entryAt]

/-! ## A U-plane frame (R292-R294) -/

theorem State.radStat_uplaneFrame_of_unknown {s : State} {rim : Fin 4} {f : FhFrame} {ts16 : Nat} (unknown : s.classify rim f ts16 = none) :
    (s.uplaneFrame rim f ts16).rget ⟨.radStat, rim.val, 0⟩ = satAdd (s.rget ⟨.radStat, rim.val, 0⟩) 47 32 1 := by
  rw [State.uplaneFrame, unknown]
  dsimp only
  rw [State.rget_fhRec, State.rget_finc, if_pos rfl]

section
variable {s : State} {rim : Fin 4} {f : FhFrame} {ts16 i : Nat} {g : StreamRegs} {v : W64} (mine : s.classify rim f ts16 = some (i, g, some v))
  (up : f.downlink = false) (version : f.payloadVersion = 1) (sound : sectionsFault g (appOffset f + 4) f.sections = none)
include mine up version sound

/-- A frame of a stream whose sections hold is placed, or counted as early or late. -/
theorem State.uplaneFrame_of_stream :
    s.uplaneFrame rim f ts16 =
      (if ts16 < 16 * (v.toNat + bits g.ftime 20 0) then s.missFrame rim i g false
        else if 16 * (v.toNat + bits g.ftime 41 21) < ts16 then s.missFrame rim i g true else s.placeFrame rim i g v f).modStream rim i
      fun y => { y with seq := some f.seqId.toNat } := by
  unfold State.uplaneFrame
  rw [mine]
  dsimp only
  rw [if_neg (by simp [up, version]), sound]

theorem State.seq_uplaneFrame : ((s.uplaneFrame rim f ts16).stream rim i).seq = some f.seqId.toNat := by
  rw [State.uplaneFrame_of_stream mine up version sound, State.stream_modStream]

theorem State.uplaneFrame_of_early (early : ts16 < 16 * (v.toNat + bits g.ftime 20 0)) :
    (s.uplaneFrame rim f ts16).rget ⟨.radStat, rim.val, 0⟩ = satAdd (s.rget ⟨.radStat, rim.val, 0⟩) 31 16 1
      ∧ ((s.uplaneFrame rim f ts16).stream rim i).lateSeen = true := by
  rw [State.uplaneFrame_of_stream mine up version sound, if_pos early, State.stream_modStream]
  exact ⟨s.radStat_missFrame rim i g false, s.lateSeen_missFrame rim i g false⟩

theorem State.uplaneFrame_of_late (lo : 16 * (v.toNat + bits g.ftime 20 0) ≤ ts16) (late : 16 * (v.toNat + bits g.ftime 41 21) < ts16) :
    (s.uplaneFrame rim f ts16).rget ⟨.radStat, rim.val, 0⟩ = satAdd (s.rget ⟨.radStat, rim.val, 0⟩) 15 0 1
      ∧ ((s.uplaneFrame rim f ts16).stream rim i).lateSeen = true := by
  rw [State.uplaneFrame_of_stream mine up version sound, if_neg (Nat.not_lt.mpr lo), if_pos late, State.stream_modStream]
  exact ⟨s.radStat_missFrame rim i g true, s.lateSeen_missFrame rim i g true⟩

/-- The first frame of a stream, in its window. -/
theorem State.buf_uplaneFrame (lo : 16 * (v.toNat + bits g.ftime 20 0) ≤ ts16) (hi : ts16 ≤ 16 * (v.toNat + bits g.ftime 41 21))
    (first : (s.stream rim i).seq = none) :
    ((s.uplaneFrame rim f ts16).radio.rims.get rim).buf i v
      = f.sections.foldl (fun a x => (a.place g (s.stream rim i) x).1) ((s.radio.rims.get rim).buf i v) := by
  rw [State.uplaneFrame_of_stream mine up version sound, if_neg (Nat.not_lt.mpr lo), if_neg (Nat.not_lt.mpr hi), ← State.buf_placeFrame first,
    RimSt.buf, RimSt.buf, State.asm_modStream]

end

/-! ## The MAC and the classification queue (R270, R271, R544) -/

/-- The state after the PCS's counts of a frame (R288). -/
def State.fhHeard (s : State) (f : FhFrame) : State :=
  (s.finc ⟨.fhpMisc, s.fhLane f.port.val, 0⟩ 31 16 f.fecUc).fset ⟨.fhpStatus, s.fhLane f.port.val, 0⟩ 2 2 f.highBer.toNat

/-- The state after the MAC has counted a frame whose FCS holds. -/
def State.fhCounted (s : State) (f : FhFrame) : State := (s.fhHeard f).finc ⟨.fhpRxstat, s.fhLane f.port.val, 0⟩ 31 0

theorem State.fhHeard_alters (s : State) (f : FhFrame) : s.Alters [.regs] (some [.fhpMisc, .fhpStatus]) none (s.fhHeard f) :=
  ((State.Alters.refl s).finc _ _ _ _).fset _ _ _ _

theorem State.fhCounted_alters (s : State) (f : FhFrame) : s.Alters [.regs] (some [.fhpMisc, .fhpStatus, .fhpRxstat]) none (s.fhCounted f) :=
  (((State.Alters.refl s).finc _ _ _ _).fset _ _ _ _).finc _ _ _ _

theorem State.toClassify_fhCounted_alters (s : State) (f : FhFrame) (rim : Fin 4) :
    s.Alters [.regs, .radio] (some [.fhpMisc, .fhpStatus, .fhpRxstat]) none ((s.fhCounted f).toClassify rim) := by
  have counted : s.Alters [.regs, .radio] (some [.fhpMisc, .fhpStatus, .fhpRxstat]) none (s.fhCounted f) := (s.fhCounted_alters f).widen
  exact counted.modRim rim _

/-- A frame that joins the classification queue changes nothing else that a rim die keeps (R544). -/
theorem State.rim_toClassify_fhCounted (s : State) (f : FhFrame) (rim : Fin 4) :
    ∃ c, ((s.fhCounted f).toClassify rim).radio.rims.get rim = { s.radio.rims.get rim with clsFree := c } := by
  have counted : (s.fhCounted f).radio = s.radio := (s.fhCounted_alters f).comp .radio (by decide)
  rw [State.toClassify, State.rim_modRim, counted]
  exact ⟨_, rfl⟩

theorem State.maxFrame_fhCounted (s : State) (f : FhFrame) (l : Nat) : (s.fhCounted f).maxFrame l = s.maxFrame l := by
  unfold State.maxFrame State.fget
  rw [(s.fhCounted_alters f).reg ⟨.fhpCtrl, l, 0⟩ rfl]

theorem State.rxstat_fhCounted (s : State) (f : FhFrame) :
    (s.fhCounted f).rget ⟨.fhpRxstat, s.fhLane f.port.val, 0⟩ = satAdd (s.rget ⟨.fhpRxstat, s.fhLane f.port.val, 0⟩) 31 0 1 := by
  rw [State.fhCounted, State.rget_finc, if_pos rfl, (s.fhHeard_alters f).reg _ rfl]

theorem State.misc_fhCounted (s : State) (f : FhFrame) :
    (s.fhCounted f).rget ⟨.fhpMisc, s.fhLane f.port.val, 0⟩ = satAdd (s.rget ⟨.fhpMisc, s.fhLane f.port.val, 0⟩) 31 16 f.fecUc := by
  rw [State.fhCounted, State.rget_finc, if_neg (by simp), State.fhHeard, State.rget_fset, if_neg (by simp), State.rget_finc, if_pos rfl]

/-- What a frame that the MAC gives on does, by its type and the room in the classification queue (R271, R289, R544). -/
def State.fhGiven (s : State) (f : FhFrame) (l : Nat) (rim : Fin 4) (ts16 : Nat) : State :=
  if f.etherType = 0x8808 then s.finc ⟨.fhpMisc, l, 0⟩ 15 0
  else if timeType f.etherType && !f.stacked then s
  else if 512 ≤ (s.radio.rims.get rim).clsWaiting s.now then s.badFrame rim f.port 0x01FF 0
  else if f.stacked ∨ f.etherType ≠ 0xAEFE then (s.toClassify rim).badFrame rim f.port 0x0103 0
  else match headFault f with
    | some o => (s.toClassify rim).badFrame rim f.port 0x0105 o
    | none =>
      if f.msgType = 5 then (s.toClassify rim).enqueue l 192 (Config.serial 5 (ts16 :: f.tagged.toNat :: f.vid.toNat :: f.body.map BitVec.toNat))
      else (s.toClassify rim).uplaneFrame rim f ts16

theorem fhReceive_of_badFcs {f : FhFrame} (bad : f.fcsOk = false) (s : State) :
    fhReceive f s = ((s.fhHeard f).finc ⟨.fhpRxstat, s.fhLane f.port.val, 0⟩ 47 32).fhRec f.port 0x0101 := if_pos (by rw [bad]; rfl)

section
variable {f : FhFrame} {s : State} (good : f.fcsOk = true)
include good

theorem fhReceive_of_misfit (misfit : ¬ (64 ≤ f.len ∧ f.len ≤ s.maxFrame (s.fhLane f.port.val))) :
    fhReceive f s = ((s.fhCounted f).finc ⟨.fhpRxstat, s.fhLane f.port.val, 0⟩ 63 48).fhRec f.port 0x0102 := by
  refine (if_neg (by rw [good]; decide)).trans (if_pos ?_)
  change f.len < 64 ∨ (s.fhCounted f).maxFrame _ < f.len
  rw [s.maxFrame_fhCounted]
  omega

theorem fhReceive_of_fits (fits : 64 ≤ f.len ∧ f.len ≤ s.maxFrame (s.fhLane f.port.val)) :
    fhReceive f s = (s.fhCounted f).fhGiven f (s.fhLane f.port.val) (s.rimOfFh f.port.val) (f.ts16 - s.fget ⟨.atbTscorr, 0, f.port.val⟩ 15 0) := by
  refine (if_neg (by rw [good]; decide)).trans (if_neg ?_)
  change ¬ (f.len < 64 ∨ (s.fhCounted f).maxFrame _ < f.len)
  rw [s.maxFrame_fhCounted]
  omega

end

theorem State.rxstat_fhGiven (s : State) (f : FhFrame) (l : Nat) (rim : Fin 4) (ts16 : Nat) (r : Nat) :
    (s.fhGiven f l rim ts16).rget ⟨.fhpRxstat, r, 0⟩ = s.rget ⟨.fhpRxstat, r, 0⟩ := by
  have classified : s.AltersRadio (s.toClassify rim) := (State.Alters.refl s).modRim rim _
  have only {ns : List RegName} {u : State} {cs : List Comp} (h : s.Alters cs (some ns) none u) (hn : ns.contains .fhpRxstat = false := by rfl) :
      u.rget ⟨.fhpRxstat, r, 0⟩ = s.rget ⟨.fhpRxstat, r, 0⟩ := h.reg _ hn
  unfold State.fhGiven
  split
  · exact only (cs := [.regs]) (ns := [.fhpMisc]) ((State.Alters.refl s).finc _ _ _ _)
  split
  · rfl
  split
  · exact only ((State.Alters.refl s).badFrame rim f.port _ _)
  split
  · exact only (classified.badFrame rim f.port _ _)
  split
  · exact only (classified.badFrame rim f.port _ _)
  split
  · exact (State.Alters.reg (State.Alters.enqueue (.refl _) _ _ _) _ rfl).trans (only classified)
  · exact only (classified.uplaneFrame rim f ts16)

section
variable {s : State} {f : FhFrame} {rim : Fin 4} (type : f.etherType = 0xAEFE)
include type

/-- An eCPRI frame that is refused, at the queue or for its header (R289, R544). -/
theorem State.fhGiven_of_refused (l ts16 : Nat)
    (refused : 512 ≤ (s.radio.rims.get rim).clsWaiting s.now ∨ f.stacked = true ∨ (headFault f).isSome = true) :
    ∃ (u : State) (code : BitVec 16) (off : Nat), s.fhGiven f l rim ts16 = u.badFrame rim f.port code off ∧ u.regs = s.regs
      ∧ (u.radio.rims.get rim).asm = (s.radio.rims.get rim).asm := by
  have queued : ((s.toClassify rim).radio.rims.get rim).asm = (s.radio.rims.get rim).asm := by rw [State.toClassify, State.rim_modRim]
  unfold State.fhGiven
  rw [if_neg (by rw [type]; decide), if_neg (by simp [timeType, type])]
  split
  · exact ⟨s, _, _, rfl, rfl, rfl⟩
  · next room =>
    split
    · exact ⟨_, _, _, rfl, rfl, queued⟩
    · next single =>
      obtain ⟨o, head⟩ := Option.isSome_iff_exists.mp ((refused.resolve_left room).resolve_left fun stacked => single (.inl stacked))
      rw [head]
      exact ⟨_, _, _, rfl, rfl, queued⟩

theorem State.fhGiven_of_uplane (l ts16 : Nat) (room : ¬ 512 ≤ (s.radio.rims.get rim).clsWaiting s.now) (single : f.stacked = false)
    (head : headFault f = none) (kind : f.msgType = 0) : s.fhGiven f l rim ts16 = (s.toClassify rim).uplaneFrame rim f ts16 := by
  unfold State.fhGiven
  rw [if_neg (by rw [type]; decide), if_neg (by simp [timeType, type]), if_neg room, if_neg (by simp [single, type]), head]
  exact if_neg (by rw [kind]; decide)

end

/-! ## The flush of a record (R297-R300) -/

@[simp] theorem length_padTo (n : Nat) (b : Bytes) : (padTo n b).length = n := by simp [padTo, slice]

theorem State.gainFor_fact (s : State) (rim : Fin 4) (i : Nat) (g : StreamRegs) : (s.gainFor rim i g).fact = g.fact := by
  unfold State.gainFor
  dsimp only
  split <;> rfl

theorem length_recordOf (i : Nat) (g : StreamRegs) (st : StreamSt) (a : AsmBuf) (late : Bool) :
    (recordOf i g st a late).length = 256 * unitsPerRecord g.fact := length_padTo _ _

theorem State.length_zoneUnits {g : StreamRegs} {b : Bytes} (h : b.length = 256 * unitsPerRecord g.fact) (s : State) (x v : W64) (ups : Nat) :
    (s.zoneUnits g x v ups b).length = unitsPerRecord g.fact := by
  unfold State.zoneUnits
  simp only [List.length_map, List.length_zip, List.length_range, chunks, h]
  omega

/-- What a flush hands to the zone of the record's stream (R299, R300). -/
def State.flushedRec (s : State) (rim : Fin 4) (i : Nat) (v : W64) : ZoneRec :=
  let g := s.entryAt rim i v
  { tile := fin 64 (bits g.fact 5 0), zone := fin 16 (bits g.fact 9 6), rim := rim, owner := sliceOfFact g.fact, earliest := s.now + 24
    units := s.zoneUnits g (s.zoneSince g.zone v) v (s.zoneUps rim g v)
      (recordOf i (s.gainFor rim i g) (s.stream rim i) ((s.radio.rims.get rim).buf i v) (s.stream rim i).lateSeen) }

theorem recordFlush_zoneQ (rim : Fin 4) (i : Nat) (v : W64) (s : State) :
    (recordFlush rim i v s).radio.zoneQ = enq s.radio.zoneQ (s.flushedRec rim i v) := rfl

theorem State.length_flushedRec (s : State) (rim : Fin 4) (i : Nat) (v : W64) :
    (s.flushedRec rim i v).units.length = unitsPerRecord (s.entryAt rim i v).fact :=
  State.length_zoneUnits ((length_recordOf _ _ _ _ _).trans (by rw [State.gainFor_fact])) s _ _ _

/-- The rim die after a flush. -/
theorem recordFlush_rim (rim : Fin 4) (i : Nat) (v : W64) (s : State) :
    (recordFlush rim i v s).radio.rims.get rim =
      ((s.modRim rim fun r => { r with asm := r.asm.filter fun y => !decide (y.stream = i ∧ y.sym = v) }).modStream rim i fun y =>
        { y with lateSeen := false, flushed := some v, gsum := y.gsum + ((s.radio.rims.get rim).buf i v).lsum,
                 gn := y.gn + ((s.radio.rims.get rim).buf i v).prbs.length }).radio.rims.get rim := rfl

theorem recordFlush_asm (rim : Fin 4) (i : Nat) (v : W64) (s : State) :
    ((recordFlush rim i v s).radio.rims.get rim).asm = (s.radio.rims.get rim).asm.filter fun y => !decide (y.stream = i ∧ y.sym = v) := by
  rw [recordFlush_rim, State.asm_modStream, State.rim_modRim]

theorem recordFlush_flushed (rim : Fin 4) (i : Nat) (v : W64) (s : State) : ((recordFlush rim i v s).stream rim i).flushed = some v := by
  rw [State.stream, recordFlush_rim, ← State.stream, State.stream_modStream]

/-! ## The gain decision (R313, R314) -/

/-- The gain register of a stream as a decision leaves it, and the steps moved. -/
def State.gainMoved (s : State) (rim : Fin 4) (i : Nat) : W64 × Nat :=
  if bit (s.streamRegs rim.val i).fgain 8 then gainStep (s.streamRegs rim.val i).fgain (s.stream rim i).gsum (s.stream rim i).gn
  else ((s.streamRegs rim.val i).fgain, 0)

def State.gainDecided (s : State) (rim : Fin 4) (i : Nat) : State :=
  (s.rset ⟨.radFgain, rim.val, i⟩ (s.gainMoved rim i).1).modStream rim i fun y => { y with gsum := 0, gn := 0 }

/-- A decision is counted for the cell where it moves the gain. -/
theorem gainDecision_only (rim : Fin 4) (i : Nat) (s : State) : ∃ c, gainDecision rim i s = { s.gainDecided rim i with ctl := c } := by
  have moved : gainDecision rim i s = if (s.gainMoved rim i).2 = 0 then s.gainDecided rim i
    else (s.gainDecided rim i).cellStat (sliceOfFact (s.streamRegs rim.val i).fact) (s.stream rim i).cell 7 (s.gainMoved rim i).2 := rfl
  rw [moved]
  split
  · exact ⟨(s.gainDecided rim i).ctl, rfl⟩
  · exact State.cellStat_only _ _ _ _ _

theorem gainDecision_fgain (rim : Fin 4) (i : Nat) (s : State) : (gainDecision rim i s).rget ⟨.radFgain, rim.val, i⟩ = (s.gainMoved rim i).1 := by
  obtain ⟨c, e⟩ := gainDecision_only rim i s
  rw [State.rget_congr (congrArg State.regs e)]
  exact (s.rget_rset _ _ _).trans (if_pos rfl)

theorem gainDecision_stream (rim : Fin 4) (i : Nat) (s : State) :
    (gainDecision rim i s).stream rim i = { s.stream rim i with gsum := 0, gn := 0 } := by
  obtain ⟨c, e⟩ := gainDecision_only rim i s
  have kept : (gainDecision rim i s).radio = (s.gainDecided rim i).radio := by rw [e]
  rw [State.stream_congr kept, State.gainDecided, State.stream_modStream]
  rfl

end Sys2Proof.Machine
open Sys2Proof Sys2Proof.Machine

/-- Settles O21: a frame is counted, given to its stream, and placed or counted there; a flush and a gain decision by the rules of their functions. -/
theorem fronthaulCompletes : Obligations.FronthaulCompletes := by
  unfold Obligations.FronthaulCompletes
  refine ⟨?_, ?_, ?_⟩
  -- FH_FRAME_RECEIVE
  · intro s f port up parsed l rim ts
    refine ⟨fhReceive f s, guarded_true (by simp [port, up, parsed]) _ s, ?_⟩
    dsimp only
    -- the state that the classification meets
    have heard := s.fhCounted_alters f
    have counted : (s.fhCounted f).radio = s.radio := heard.comp .radio (by decide)
    have now : (s.fhCounted f).time = s.time := heard.comp .time (by decide)
    have radStat : (s.fhCounted f).rget ⟨.radStat, rim.val, 0⟩ = s.rget ⟨.radStat, rim.val, 0⟩ := heard.reg _ rfl
    have waits : 512 ≤ ((s.fhCounted f).radio.rims.get rim).clsWaiting (s.fhCounted f).now ↔ 512 ≤ (s.radio.rims.get rim).clsWaiting s.now := by
      rw [counted, State.now, now]
    refine ⟨fun bad => ?_, fun good misfit => ?_, fun good fit => ?_, fun good fit pause => ?_, fun ⟨good, fit, type⟩ refused => ?_,
      fun ⟨good, fit, type⟩ room single head kind => ?_⟩
    · rw [fhReceive_of_badFcs bad, State.rget_fhRec, State.rget_finc, if_pos rfl, (s.fhHeard_alters f).reg _ rfl]
    · rw [fhReceive_of_misfit good misfit, State.rget_fhRec, State.rget_finc, if_pos rfl, s.rxstat_fhCounted]
    · rw [fhReceive_of_fits good fit, State.rxstat_fhGiven, s.rxstat_fhCounted]
    · rw [fhReceive_of_fits good fit, State.fhGiven, if_pos pause, State.rget_finc, if_pos rfl, s.misc_fhCounted]
    · obtain ⟨u, code, off, given, regs, asm⟩ := State.fhGiven_of_refused type l ts (by rwa [waits])
      rw [fhReceive_of_fits good fit, given, State.radStat_badFrame, State.badFrame_radio, State.rget_congr regs, radStat, asm, counted]
      exact ⟨rfl, rfl⟩
    · rw [fhReceive_of_fits good fit, State.fhGiven_of_uplane type l ts (by rwa [waits]) single head kind]
      obtain ⟨c, queued⟩ := s.rim_toClassify_fhCounted f rim
      have tables : s.SameTables ((s.fhCounted f).toClassify rim) rim := .of_alters (s.toClassify_fhCounted_alters f rim) (by rw [queued])
      have counts : ((s.fhCounted f).toClassify rim).rget ⟨.radStat, rim.val, 0⟩ = s.rget ⟨.radStat, rim.val, 0⟩ := radStat
      generalize (s.fhCounted f).toClassify rim = w at queued tables counts ⊢
      refine ⟨fun unknown => ?_, fun i g v mine up version sound => ?_⟩
      · rw [State.radStat_uplaneFrame_of_unknown ((tables.classify f ts).trans unknown), counts]
      · have mine := (tables.classify f ts).trans mine
        have stream : w.stream rim i = s.stream rim i := by rw [State.stream, queued, State.stream]
        refine ⟨State.seq_uplaneFrame mine up version sound, fun early => ?_, fun lo late => ?_, fun lo hi first => ?_⟩
        · rw [← counts]
          exact State.uplaneFrame_of_early mine up version sound early
        · rw [← counts]
          exact State.uplaneFrame_of_late mine up version sound lo late
        · refine (State.buf_uplaneFrame mine up version sound lo hi (stream ▸ first)).trans ?_
          rw [stream, queued]
          rfl
  -- RECORD_FLUSH
  · intro s rim f v due g
    refine ⟨recordFlush rim f.val v s, guarded_true due _ s, recordFlush_flushed rim f.val v s, fun a ha => ?_,
      s.flushedRec rim f.val v, recordFlush_zoneQ rim f.val v s, Nat.mod_eq_of_lt (bits_lt _ _ _), Nat.mod_eq_of_lt (bits_lt _ _ _), rfl, rfl,
      s.length_flushedRec rim f.val v⟩
    rw [recordFlush_asm] at ha
    simpa only [Bool.not_eq_true', decide_eq_false_iff_not] using (List.mem_filter.mp ha).2
  -- GAIN_DECISION
  · intro s rim f due g st
    exact ⟨gainDecision rim f.val s, guarded_true due _ s, (gainDecision_fgain rim f.val s).trans (apply_ite Prod.fst _ _ _),
      congrArg StreamSt.gsum (gainDecision_stream rim f.val s), congrArg StreamSt.gn (gainDecision_stream rim f.val s)⟩
end
